-- ==== Sys2Proof/Word.lean ====
section
/-!
DEFINITION. The word types of the complex: bytes, register words and the key types of its sparse stores.
-/
namespace Sys2Proof

/-- One byte, the smallest unit of the block's tables, buffers and wire frames. -/
abbrev Byte := BitVec 8

/-- A register word as the register access port moves it: 32-bit registers use the low half (R72, R73). -/
abbrev Word := BitVec 64

end Sys2Proof
end

