-- ==== Sys2Proof/Syntax.lean ====
section
/-!
DEFINITION. The commands the block takes: one constructor of `Instr` per row of spec/opcode_table.json, and the
types of their operands.
-/
namespace Sys2Proof

/-- A complex of the chip (R6). -/
abbrev Cx := Fin 2

/-- The page types that have instances in a complex (R62). -/
inductive CxType where
  | cpx | slc | pgr | prt | lne | stp | prs | bsq | glz | ses | mtr | sch | whl | dor | jrn | dma | chk | hlt
  | log | swp | tel
deriving DecidableEq, Repr

/-- A register page: a shared page (R61) or a page of a complex (R62). `cap` is the chip capability page and `func`
the DMA host function table. -/
inductive Page where
  | cap | tim | icu | pil | sag | func | sel
  | cx (c : Cx) (t : CxType) (i : Fin 256)
deriving DecidableEq, Repr

/-- The two masters of the register access port (R51). -/
inductive Master where
  | pcie | mgmt
deriving DecidableEq, Repr

/-- What an access does: a read, or a write of a value (R51). A 4-byte write uses the low 32 bits. -/
inductive AccessOp where
  | read
  | write (v : Word)
deriving DecidableEq, Repr

/-- One access at the register access port: byte offset in the 64 MiB window, size in bytes (R51, R72).
Assumption 11 (DESIGN CHOICE, safe). -/
structure Access where
  master : Master
  addr   : Nat
  size   : Nat
  op     : AccessOp
deriving DecidableEq, Repr

/-- The accesses of one clock: one master's, and the other's where it presents one too (R52). -/
structure PortClock where
  access : Access
  same   : Option Access
deriving DecidableEq, Repr

/-- A level that the macro or the PCS reports of a lane: signal detect (0), CDR lock (1) or PCS lock (2), and whether it
comes or drops (R36, R95, R101). -/
structure LaneLevel where
  which : Fin 3
  rise  : Bool
deriving DecidableEq, Repr

/-- Where the PCS found a start control character (R157, R158): in a block of a transcoded 257-bit group, in an RS-FEC
mode, or in a block without FEC. -/
inductive StartAt where
  /-- Counter value of the first bit of the codeword's share on the lane; the group in the codewords' data, counted with
  the alignment-marker symbols before it; the block in the group; the group's first control block. -/
  | fec (lcw group : Nat) (block first : Fin 4)
  /-- Counter value of the block's first bit on the lane. -/
  | block (lblk : Nat)
deriving DecidableEq, Repr

/-- Where a frame's start delimiter was captured (R157, R158, R36): lane-in-port, place in the PCS stream, whether the
block is of type 0x33 and not 0x78, unit-interval offset of the word that holds the start bit. -/
structure RxCapture where
  lane  : Nat
  start : StartAt
  half  : Bool
  off   : Nat
deriving DecidableEq, Repr

/-- An uncorrectable bus word that a stage boundary finds (R404, R420): the frame's bytes before those it carries (0 for a
metadata word), the stage, its syndrome. -/
structure BusErr where
  at_   : Nat
  stage : Fin 16
  synd  : Nat
deriving DecidableEq, Repr

/-- Received bytes of a frame, how many of their bus words were corrected, and one that could not be, of the bytes or of the
metadata word (R40, R404). -/
structure RxData where
  bytes : List Byte
  corr  : Nat
  ecc   : Option BusErr := none
deriving DecidableEq, Repr

/-- What the receive MAC found in a frame (R104): bytes before the first invalid code, a bad start, an
uncorrectable bus word, corrected bus words; and the FEC codewords of the port since its last frame:
received, corrected, for each uncorrectable one the frame's bytes before the first that it carries, and corrected
symbols by lane-in-port (R93). -/
structure RxErrs where
  code    : Option Nat := none
  align   : Bool := false
  ecc     : Option BusErr := none
  eccCorr : Nat := 0
  fecCw   : Nat := 0
  fecCorr : Nat := 0
  fecBad  : List Nat := []
  fecSyms : List Nat := []
deriving DecidableEq, Repr

/-- An end-of-frame word of the transmit bus (R41), and the bus words corrected and found uncorrectable behind stage 3
(R404). -/
structure EofBits where
  fcsBad : Bool := false
  stomp  : Bool := false
  trunc  : Bool := false
  corr   : Nat := 0
  ecc    : Option BusErr := none
deriving DecidableEq, Repr

/-- What the shared buffer answers to a dequeue request (R45, R46): an EMPTY response, the first segment with the
metadata word, or later segments. -/
inductive DeqResponse where
  | empty
  | first (word : Nat) (bytes : List Byte)
  | more (bytes : List Byte)
deriving DecidableEq, Repr

/-- What stage 3 sees of the oldest frame of a port (R173): the frame's bytes that are in the transmit buffer; whether
that is all of it; an uncorrectable bus word met, of the bytes or the metadata, and how many were corrected (R404). -/
structure EditInput where
  bytes : List Byte
  whole : Bool
  ecc   : Option BusErr := none
  corr  : Nat := 0
deriving DecidableEq, Repr

/-- An ECC error met in a table word as it is read: the word in the row, its syndrome, and its 16 data bytes as read
(R402, R404). What it is, the decoder finds from the syndrome (R403). Assumption 16 (DESIGN CHOICE, unsafe). -/
structure EccErr where
  word : Nat
  synd : Nat
  raw  : List Byte
deriving DecidableEq, Repr

/-- An ECC error that a frame's lookup meets in a row (R220, R251, R404). -/
structure LookupErr where
  page  : Page
  table : Nat
  row   : Nat
  err   : EccErr
deriving DecidableEq, Repr

/-- Received bytes of a frame in progress: `code` is the frame's bytes before an invalid code among them, `corr` how many of
their bus words were corrected, `errs` what a walk that goes on meets, `ecc` a bus word that is uncorrectable (R107, R178). -/
structure RxChunk where
  bytes : List Byte
  code  : Option Nat
  corr  : Nat
  errs  : List LookupErr
  ecc   : Option BusErr := none
deriving DecidableEq, Repr

/-- A slice whose heads are dispatched, and the errors that their lookups meet (R176). -/
structure SliceHeads where
  slice : Fin 8
  errs  : List LookupErr
deriving DecidableEq, Repr

/-- The data of a CMD ring's entry, and those of the job's session entries after it (R335, R237). -/
structure SesData where
  data  : List Byte
  later : List (List Byte)
deriving DecidableEq, Repr

/-- A CMD ring whose open job's next entry is carried out, and the data blocks of the job's session entries after it (R237,
R335). -/
structure CmdJob where
  ring  : Fin 4096
  later : List (List Byte)
deriving DecidableEq, Repr

/-- An access of the push aperture: bytes written, or a read of so many bytes (R325). -/
inductive PushAccess where
  | write (bytes : List Byte)
  | read (size : Nat)
deriving DecidableEq, Repr

/-- What the SerDes macro reports of a lane (R37, R94): its figure of merit, and its equaliser where adaptation has moved
it: the four tap registers, the floating taps and their position. -/
structure LaneReport where
  fom : Nat
  dfe : Option (List (BitVec 32)) := none
deriving DecidableEq, Repr

/-- A turn-bound activity that can miss its turn (R24, R25); of the Sweep's chunk, how many of its slices had been read, and how
many bytes of them were in its slot (R430). -/
inductive Activity where
  | commit (p : Page)
  | wheel (c : Cx)
  | telemetry (c : Cx)
  | sweep (c : Cx) (read wrote : Nat)
  | health (c : Cx)
  | slipClose
deriving DecidableEq, Repr

/-- Whose host memory read failed (R50): a fetch of `count` entries of a ring, the data of a ring's next job or current
entry, or a check unit's scan, after `data` was fed. -/
inductive ReadTarget where
  | entry (ring : Fin 4096) (count : Nat)
  | data (ring : Fin 4096)
  | check (c : Cx) (u : Fin 4) (data : List Byte)
deriving DecidableEq, Repr

/-- The commands of the block, in the order of the table. Assumption 15 (DESIGN CHOICE, safe). -/
inductive Instr where
  | chipReset
  | chipInitDone (c : Cx)
  | calPowerupLoad
  | registerWrite (a : PortClock)
  | hdrGenWrite (p : Page) (v : BitVec 32)
  | configCommit (p : Page)
  | turnBoundary (peerRole : Bool)
  | turnMissed (a : Activity)
  | softReset (p : Page)
  | softResetComplex (c : Cx)
  | softResetDone (p : Page)
  | quiesceRequest (p : Page)
  | quiesceDone (p : Page)
  | quiesceRelease (p : Page)
  | pageLock (p : Page)
  | irqForce (p : Page) (v : BitVec 32)
  | errInfoClear (p : Page)
  | twRead (c : Cx) (w : Fin 64)
  | twWrite (c : Cx) (w : Fin 64)
  | twInvalidate (c : Cx) (w : Fin 64)
  | twBadOp (c : Cx) (w : Fin 64) (op : Fin 8)
  | twCmdComplete (c : Cx) (w : Fin 64) (ecc : Option EccErr)
  | pgrBreakoutWrite (g : Fin 64) (v : BitVec 32)
  | anComplete (port : Fin 512) (lp : BitVec 64) (hcd : Fin 16)
  | trainComplete (port : Fin 512)
  | alignLock (port : Fin 512) (skews : List (Nat × Nat))
  | attemptTimerExpiry (port : Fin 512)
  | backoffExpiry (port : Fin 512)
  | retry (port : Fin 512)
  | laneLoss (lane : Fin 512) (level : LaneLevel)
  | remoteFaultOnset (port : Fin 512)
  | remoteFaultClear (port : Fin 512)
  | dormantRequest (port : Fin 512)
  | dormantResume (port : Fin 512)
  | datapathPowerUp (port : Fin 512)
  | wakeDatapathReady (port : Fin 512)
  | rxFrameStart (port : Fin 512) (cap : RxCapture) (data : RxData)
  | rxFrameEnd (port : Fin 512) (rest : List Byte) (errs : RxErrs)
  | fcTimerExpiry (port : Fin 512)
  | fcTxWrite (port : Fin 512) (v : BitVec 32)
  | fcFrameSend (port : Fin 512)
  | fcRefresh (port : Fin 512)
  | txUnderrun (port : Fin 512) (due : Nat)
  | txFrameEnd (port : Fin 512) (rest : List Byte) (eof : EofBits)
  | snap
  | loadIncr
  | step
  | set
  | timeAdjustApply
  | ppsInEdge (sub : Fin 16)
  | ppsInMiss
  | ppsOutEdge
  | ppsOutFall
  | todOutMessage
  | todInMessage (bytes : List Byte) (framed : Bool)
  | todPairWindowEnd
  | servoOffsetWrite (v : Word)
  | timeSilence
  | holdoverExpiry
  | refWindowEnd (count : BitVec 32)
  | refLoss
  | synceResume (n : Fin 2)
  | timCalUnlockWrite (v : BitVec 32)
  | calCopy
  | calLoad
  | calProgram
  | calOpComplete
  | armRx (port : Fin 512)
  | armTx (port : Fin 512)
  | dispatch (heads : SliceHeads)
  | parseBytesArrive (port : Fin 512) (chunk : RxChunk)
  | recircReentry (pg : Fin 64)
  | engMaskWrite (slice : Fin 8) (v : BitVec 32)
  | swap (slice : Fin 8)
  | swapDone (slice : Fin 8)
  | sessionLookup (c : Cx) (frames : List Nat) (errs : List LookupErr)
  | reorderRelease (pg : Fin 64)
  | reorderTimeout (pg : Fin 64)
  | kopInsert (c : Cx) (evict : Bool)
  | kopDelete (c : Cx)
  | kopFind (c : Cx)
  | kopUpdate (c : Cx)
  | kopBadOp (c : Cx) (op : Fin 8)
  | kopComplete (c : Cx)
  | learnInsert (c : Cx)
  | batchCleanupDone (c : Cx) (batch : Fin 4)
  | streamResetTimer (stream : Fin 16384)
  | modify (c : Cx)
  | modifyComplete (c : Cx)
  | enqueueNotice (c : Cx) (queue : Fin 65536) (len : Fin 16384) (colour : Fin 4)
  | dequeueDecision (port : Fin 512)
  | dequeueResponse (c : Cx) (tag : Fin 1024) (resp : DeqResponse)
  | egressEdit (port : Fin 512) (input : EditInput)
  | wheelSlotFire (c : Cx)
  | wheelMaintenance (c : Cx)
  | arm (c : Cx)
  | cancel (c : Cx)
  | releaseDecision (c : Cx) (queue : Fin 65536) (group : Fin 1024)
  | releaseEnd (group : Fin 1024)
  | telemetrySample (c : Cx)
  | rangeClose (c : Cx)
  | reservedPlaceFree (c : Cx)
  | sealRecord (c : Cx)
  | journalWrite (c : Cx) (n : Nat)
  | keyLoad (slot : Fin 4)
  | keyLoadDone
  | zeroize (slot : Fin 4)
  | funcEnable (f : Fin 64)
  | funcDisable (f : Fin 64)
  | funcQuiesced (f : Fin 64)
  | ringReset (ring : Fin 4096)
  | ringStopped (ring : Fin 4096)
  | doorbell (ring : Fin 4096) (v : Word)
  | evtDoorbell (ring : Fin 4096) (v : Word)
  | ackWrite (ring : Fin 4096) (v : BitVec 32)
  | pushWindowWrite (addr : Fin 1048576) (access : PushAccess)
  | entryFetch (ring : Fin 4096) (entries : List (List Byte))
  | hostReadError (target : ReadTarget) (timeout : Bool)
  | hostWriteError (c : Cx) (entry : Option (Fin 4096 × Nat))
  | txJobStart (ring : Fin 4096) (data : List Byte)
  | coreInject (pg : Fin 64)
  | rxFrameWrite (ring : Fin 4096)
  | rxHoldExpiry (ring : Fin 4096)
  | jrnBufferTimeout (ring : Fin 4096)
  | notifyAge (ring : Fin 4096)
  | cmdWrite (ring : Fin 4096) (entry : SesData)
  | cmdInvalidate (job : CmdJob)
  | cmdRead (job : CmdJob) (errs : List (Nat × EccErr))
  | sesInsert (ring : Fin 4096) (entry : SesData)
  | sesDelete (ring : Fin 4096) (entry : SesData)
  | sesFind (ring : Fin 4096) (entry : SesData)
  | sesUpdate (ring : Fin 4096) (entry : SesData)
  | cmdSwap (job : CmdJob)
  | sourceLevelChange (n : Fin 1024)
  | icuClaim (t : Fin 8)
  | icuComplete (t : Fin 8) (n : BitVec 16)
  | lineReassert (t : Fin 8)
  | holdoffExpiry (g : Fin 64)
  | standbyEntry (c : Cx)
  | pilotArm
  | pilotWake
  | pilotIdle
  | complexResume (c : Cx)
  | init (c : Cx) (u : Fin 4)
  | scan (c : Cx) (u : Fin 4)
  | check (c : Cx) (u : Fin 4)
  | chkDataFeed (c : Cx) (u : Fin 4) (size : Fin 4) (v : Word)
  | scanEnd (c : Cx) (u : Fin 4) (data : List Byte) (errs : List (Nat × EccErr))
  | heartbeatSend (ahead : List (Nat × Nat))
  | heartbeatRx (cap : RxCapture) (bytes : List Byte)
  | heartbeatMiss
  | slipDataSend (n : Fin 129)
  | slipEpochClose
  | slipDataRx (bytes : List Byte)
  | slipCloseRx (bytes : List Byte)
  | slipApply
  | claim
  | release
  | query
  | claimRepeat
  | queryRepeat
  | renewSend
  | grant (port : Fin 512) (bytes : List Byte)
  | deny (port : Fin 512) (bytes : List Byte)
  | status (port : Fin 512) (bytes : List Byte)
  | depose (port : Fin 512) (bytes : List Byte)
  | leaseExpiry
  | witnessTimeout
  | silenceUnsync
  | witnessClaimRx (port : Fin 512) (bytes : List Byte)
  | witnessRenewRx (port : Fin 512) (bytes : List Byte)
  | witnessReleaseRx (port : Fin 512) (bytes : List Byte)
  | witnessQueryRx (port : Fin 512) (bytes : List Byte)
  | witnessHeldGrant (row : Fin 16)
  | scrubRead (p : Page) (t : Fin 256) (r : Fin 262144) (word : Fin 32) (ecc : Option EccErr) (hard : Bool) (shared : Bool)
  | remapDone (p : Page) (t : Fin 256) (r : Fin 262144)
  | engineTestStart (slice : Fin 8) (engine : Fin 16)
  | engineTestAbandon (slice : Fin 8)
  | engineTestEnd (slice : Fin 8) (sig : BitVec 32)
  | loopbackFrame (pg : Fin 64) (bad : Option (Fin 16))
  | distributionTrim (c : Cx) (want : List (Nat × Int))
  | fomWatch (c : Cx) (lanes : List (Nat × LaneReport))
  | healthReport (c : Cx)
  | windowOpen (c : Cx)
  | windowClose (c : Cx)
  | periodicWindowOpen (c : Cx)
  | windowEnd (c : Cx)
  | logMarkWrite (c : Cx)
  | logFreezeWrite (c : Cx)
  | sweepStart (c : Cx)
  | sweepStop (c : Cx)
  | sweepPassStart (c : Cx)
  | sweepChunk (c : Cx) (errs : List (Nat × EccErr))
  | sweepPassRecord (c : Cx)
  | tempReading (c : Cx) (v : BitVec 16)
  | chipPowerDown
  | pairHbInEdge
  | dorCommandReached (c : Cx)
  | chkFeedDone (c : Cx) (u : Fin 4)
deriving DecidableEq, Repr

end Sys2Proof
end

