-- ==== Sys2Proof/Decode.lean ====
section
/-!
DEFINITION. Commands spelled as words. The table of commands gives no command any bits: a command reaches the block
at a port, a lane, a pin or a register, never as an encoded word.
-/
namespace Sys2Proof

/-- The command that a word of `nbits` bits spells: none, since no row of the table has an encoding.
Assumption 1 (DESIGN CHOICE, safe). -/
def decodeTableWord (nbits w : Nat) : Option Instr :=
  match nbits, w with
  | _, _ => none

end Sys2Proof
end

