-- ==== Sys2Proof/Config.lean ====
section
/-!
DEFINITION. What the spec leaves open: the free values. Each is an opaque constant with no body, so no proof can
see what it is.
-/
namespace Sys2Proof.Config

/-- The adaptation preset a lane takes (R94): line rate code, PRESET field, and which register of LNE_DFE_TAP0 to
LNE_DFE_TAP3 (0-3), LNE_DFE_FTAP (4) or LNE_DFE_FLOAT (5). The spec names the presets and gives none of their
values. Assumption 24 (DESIGN CHOICE, safe). -/
opaque dfePreset : Nat → Nat → Nat → BitVec 32

/-- TIM_OFFSET of an offset too large for its 64 bits (R140): the spec states no value. Argument: the offset in
2^-16 ns. Assumption 25 (DESIGN CHOICE, safe). -/
opaque wideOffset : Int → Word

/-- Where a rotation stands at chip reset: the PG that a slice's dispatch rounds start at (arguments 0-7 by slice,
R176), and the slice that a complex's session grants start at (8 and 9 by complex, R230): the spec says that each
advances by one every clock and not where it begins. 10 and 11 by complex, the ring that its rotation of fetches starts at
(R316). From 16 on, the child that each parent's round robin or deficit
round robin starts at (R257). Assumption 26 (DESIGN CHOICE, safe). -/
opaque phase : Nat → Nat

/-- How a running average delay that does not move by a whole nanosecond is rounded (R282): arguments the old
average and the delay; an odd value rounds up. Assumption 27 (DESIGN CHOICE, safe). -/
opaque telRound : Nat → Nat → Nat

/-- Whether the chip delivers an interrupt target to the management core (true) or as MSI-X (R53): a setting of the chip
outside the complex. Assumption 28 (DESIGN CHOICE, safe). -/
opaque targetMgmt : Nat → Bool

/-- AGREED (63:0), TAG (191:64) and ID word (207:192) of the journal head of a complex whose main journal has sealed no
range yet (R398): the spec states the head of a sealed range only. Assumption 29 (DESIGN CHOICE, safe). -/
opaque firstHead : Nat → BitVec 208

/-- The value that the CRC-32C of an engine test's keys is compared with (R413): the spec does not state it.
Assumption 30 (DESIGN CHOICE, safe). -/
opaque engineSig : BitVec 32

/-- A byte of the calibration store after a PROGRAM that loss of power interrupted (R152): the spec states only that the
store is invalid. Argument: 16 × row + byte. Assumption 31 (DESIGN CHOICE, safe). -/
opaque tornStore : Nat → BitVec 8

/-- FIRST_TURN (byte 8) and LAST_TURN (byte 16) of the record of a Sweep pass of 0 chunks (R432): the spec gives them as
the turns of chunk 0 and of the last chunk. Arguments: the pass number and the byte. Assumption 143 (DESIGN CHOICE, safe). -/
opaque noChunkTurn : Nat → Nat → BitVec 64

end Sys2Proof.Config
end

