-- ==== Sys2Proof/Machine/State.lean ====
section
/-!
DEFINITION. The state of the chip: chip time and the turn, every register, table, FIFO, buffer and unit state the
spec names, the outputs of the latest command, and the queue of waiting commands. Plain data only.
-/
namespace Sys2Proof.Machine

/-- The parts of the Imevo family (R1). -/
inductive Part where
  | t1024 | t1024e | t512
deriving DecidableEq, Repr

/-- The turn, the clock in the turn (R23) and chip time (R128): seconds, nanoseconds, the fraction in units of
2^-48 ns and the increment in force, in the same units per clock. -/
structure Clk where
  turn  : Nat
  clock : Nat
  sec   : Nat
  ns    : Nat
  frac  : Nat
  incr  : Nat
  /-- The latest advance of chip time carried it past a whole second (R136), or past a half second (R138). -/
  secPass  : Bool
  halfPass : Bool
deriving DecidableEq, Repr

/-- A requested commit: the page and the turn of its HDR_GEN write, in order of the writes (R28, R31). `waited` is
the last turn in which the commit was counted as waiting (R32); `snap` holds the page's stored registers as they stood
at clock 0, once a write after clock 0 of a turn in which the commit is due has changed them (R28, R29). -/
structure CommitReq where
  page   : Page
  turn   : Nat
  waited : Nat := 0
  snap   : Option (List (Nat × Word)) := none
deriving DecidableEq, Repr

/-- A table window's running command (R80): operation, owner, table, row, the status it will complete with, for a READ
the entry's bytes, for a WRITE the row as it stood and the entry to place (R81). `again` records a command written meanwhile, which turns STATUS into BUSY_REJECT. -/
structure TwRun where
  op    : Nat
  owner : Option Page
  table : Nat
  row   : Nat
  stat  : Nat
  data  : List Byte
  again : Bool
  old   : List Byte := []
deriving DecidableEq, Repr

/-- The crazing log's own state (R418): ENTRY, the ENTRY of the last write of 1 to FREEZE, and the last entry
written (turn, CODE, PTYPE, INSTANCE, DETAIL), if any. -/
structure LogSt where
  entry  : Nat := 0
  frozen : Nat := 0
  last   : Option (Nat × Nat × Nat × Nat × Nat) := none
deriving DecidableEq, Repr

/-- A pending time adjustment (R132): the turn it applies in, and the staged values read at acceptance. -/
structure Adjust where
  due  : Nat
  incr : Option Nat
  step : Option Int
  set  : Option (Nat × Nat)
deriving DecidableEq, Repr

/-- The timebase's own state (chapter Chip Time and the Timebase). -/
structure TimeSt where
  /-- The pending adjustment (R132). -/
  adj      : Option Adjust := none
  /-- The clock of the last adjustment applied, and chip time as it would have stood in it without. -/
  before   : Option (Nat × Clk) := none
  /-- Turn of the last accepted PPS_IN edge (R135). -/
  ppsLast  : Option Nat := none
  /-- Turn at which the next missed second counts (R135). -/
  missDue  : Nat := 0
  /-- PPS_OUT is high, and the instant (in sixteenths of a core clock, since reset) at which it falls (R136). -/
  ppsHigh  : Bool := false
  ppsFall  : Nat := 0
  /-- Valid TOD messages not yet paired: SECONDS and the clock of the last stop bit (R139). -/
  todWait  : List (Nat × Nat) := []
  /-- SEQUENCE of the next TOD message sent (R137); the latest message and the clock it started in (R138). -/
  todSeq   : Nat := 0
  todTx    : Option (Nat × List Byte) := none
  /-- Turn of the last offset report, and turn of the entry to HOLDOVER (R141). -/
  lastRep  : Nat := 0
  holdFrom : Nat := 0
  /-- Turn at which the running reference window began; the running turn has been reported to have no reference edge
  (R144). -/
  refFrom  : Nat := 0
  refGone  : Bool := false
  /-- Clock (since reset) until which each clock export stays squelched after a change of LANE or DIV (R146). -/
  synceHold : List (Nat × Nat) := []
  /-- The running calibration operation and the turn by which it completes (R152). -/
  calOp    : Option (Nat × Nat) := none
  /-- Programs made over the chip's life: held in the store, kept across reset (R152). -/
  calProg  : Nat := 0
  /-- A PROGRAM was interrupted: the store is invalid until the next one completes (R152). -/
  calTorn  : Bool := false
  /-- Clock (since reset) of the first unlock write, and of the first write of a completed unlock (R152). -/
  unlock1  : Option Nat := none
  unlocked : Option Nat := none
  /-- Window offset and value of each calibration field of the power-up load (R151). -/
  calVals  : List (Nat × Word) := []
deriving DecidableEq, Repr

/-- The walk's own state: position, counts, keys and flags. -/
structure WalkSt where
  state   : Nat := 0
  off     : Nat := 0
  hdrs    : Nat := 0
  visited : Nat := 0
  keyB    : List Byte := List.replicate 40 0
  keyS    : List Byte := List.replicate 80 0
  hdrId   : Nat := 0
  profile : Nat := 0
  malf    : Bool := false
  opt     : Bool := false
  unk     : Bool := false
  l4off   : Nat := 0
  ptp     : Bool := false
  ipEnd   : Option Nat := none
deriving DecidableEq, Repr

/-- What a frame's meter decision leaves for its true-up (R246): meter, charge, LEN_ADJ, which buckets gave
tokens, colour, length charged, and how often the meter had been enabled. -/
structure MeterUse where
  idx    : Nat
  charge : Nat
  adj    : Int
  tookC  : Bool
  tookP  : Bool
  colour : Nat
  est    : Nat
  epoch  : Nat
deriving DecidableEq, Repr

/-- What a frame's session hit leaves for the correction of OCTETS (R456). -/
structure SesUse where
  key     : List Byte
  profile : Nat
  est     : Nat
deriving DecidableEq, Repr

/-- Where a frame stands in the receive pipeline (R15). -/
inductive Loc where
  /-- In the MAC output, waiting to enter its PG's dispatch queue (R176). -/
  | macOut
  /-- In its PG's dispatch queue, waiting for its first dispatch (R176). -/
  | queued
  /-- At a parse engine, waiting for bytes (R178). -/
  | parsing
  /-- In its PG's recirculation queue (R212). -/
  | recirc
  /-- Re-entered: in the dispatch queue for its glaze pass (R212). -/
  | reentered
  /-- At stage 8 (R225). -/
  | stage8
  /-- At stage 9, decided as the clock ends; whether stage 8 discards it (R247). -/
  | stage9 (dropped : Bool)
  /-- At stage 10, READY (R198). -/
  | ready
  /-- Released: presented at the handoff (R39). -/
  | released
  /-- Gone: dropped, or sent to the slow path (R18, R189). -/
  | gone
deriving DecidableEq, Repr

/-- A frame in the receive pipeline, from stage 4 to its end. -/
structure Frame where
  id       : Nat
  /-- Ingress port, or 8 × PG for a host-injected frame. -/
  port     : Nat
  pg       : Nat
  /-- For a host-injected frame: complex × 2048 + ring, and the injecting function. -/
  host     : Option (Nat × Nat) := none
  /-- Rank sequence of the PG (lane-in-group, or 8 for host frames), rank, and clock of admission (R197). -/
  sequ     : Nat
  rank     : Nat
  since    : Nat
  bytes    : List Byte
  ended    : Bool := false
  fcsBad   : Bool := false
  stomp    : Bool := false
  trunc    : Bool := false
  cut      : Bool
  ecc      : Bool := false
  stamp    : Nat
  /-- The configuration live at stage 4 (R33). -/
  cfg      : List (Nat × Word)
  loc      : Loc := .queued
  /-- Generation record taken at first dispatch (R186), its number GEN, whether it still counts in flight; dispatch
  order, order of entry to a queue, and the engine that parses it. -/
  grec     : Nat := 0
  gen      : Nat := 0
  counted  : Bool := false
  order    : Nat := 0
  enq      : Nat := 0
  engine   : Nat := 0
  waited   : Bool := false
  /-- Counted as waiting in its glaze pass (R212). -/
  rqWait   : Bool := false
  w        : WalkSt := {}
  /-- The walk in progress, while it waits for bytes (R178, R188). -/
  walk     : Option WalkSt := none
  /-- Glaze pass: taken, its metadata, its start state, its slice key (R209). -/
  two      : Bool := false
  metaB    : List Byte := []
  glzState : Nat := 0
  tag2     : Nat := 0
  sliceKey : List Byte := []
  bsqKey   : List Byte := []
  bsqHit   : Option (Nat × Nat) := none
  cls      : Nat := 0
  queue    : Nat := 0
  mcast    : Bool := false
  colour   : Nat := 0
  meter    : Option Nat := none
  sesProf  : Option Nat := none
  capture  : Bool := false
  sesValid : Bool := false
  untrack  : Bool := false
  gap      : Bool := false
  dup      : Bool := false
  jrn      : Bool := false
  strValid : Bool := false
  session  : Nat := 0
  appSeq   : Nat := 0
  stream   : Nat := 0
  sesUse   : Option SesUse := none
  mtrUse   : Option MeterUse := none
  /-- Row counters owed the frame's length at its end: page, table, row (R196, R208). -/
  credits  : List (Page × Nat × Nat) := []
  /-- Slow path: ring, reason, TAG (R189). -/
  slow     : Option (Nat × Nat × Nat) := none
  /-- Bytes of it already presented at the handoff. -/
  sent     : Nat := 0
  /-- Fate for the journal, once known (R289). -/
  fate     : Option Nat := none
  recorded : Bool := false
  /-- The stamp was taken outside LOCKED (R142); the frame resynchronised its session (R227). -/
  unlocked : Bool := false
  resync   : Bool := false
  /-- Its reorder place expired (R199), and its place is still held (R197). -/
  expired  : Bool := false
  placed   : Bool := true
deriving DecidableEq, Repr

/-- The vector recovery state of a RECOVER stream (R374). -/
structure RecovSt where
  point : Nat := 0
  hist  : Nat := 0
  /-- Chip time, in 2^-16 ns, of the latest frame passed. -/
  last  : Nat := 0
deriving DecidableEq, Repr

/-- A keyed operation on the session table (R231). -/
structure KeyOp where
  op      : Nat
  key     : List Byte
  profile : Nat
  ctrl    : Nat
  seq     : Nat
  meter   : Nat
  stream  : Nat
  evict   : Bool
deriving DecidableEq, Repr

/-- The running keyed operation of the SES page: not yet taken by the engine, or its status and row; and whether
another command was written meanwhile (R231, R239). -/
structure KopRun where
  op     : Option KeyOp
  status : Nat := 0
  row    : Option Nat := none
  again  : Bool := false
deriving DecidableEq, Repr

/-- The session unit's own state, one per complex. -/
structure SesSt where
  kop   : Option KopRun := none
  /-- Keys to learn, oldest first: key and profile (R235). -/
  learn : List (List Byte × Nat) := []
  /-- Clock of the latest lookup, and lookups granted in it (R230). -/
  clock : Nat := 0
  used  : Nat := 0
deriving DecidableEq, Repr

/-- A running MODIFY of a meter (R250): its status, and whether another was written meanwhile. -/
structure ModRun where
  status : Nat
  again  : Bool
deriving DecidableEq, Repr

/-- Mirrored state that has changed and waits for the slip (R388): 1 session, 2 meter, 3 stream; complex; index. -/
structure Dirty where
  kind : Nat
  cx   : Nat
  idx  : Nat
deriving DecidableEq, Repr

/-- An open range of a journal (R301): its first sequence, the key slot it opened with, its kept records (latest
first), and whether it holds a record other than a SEAL record. -/
structure JRange where
  first : Nat
  slot  : Nat
  recs  : List (List Byte) := []
  other : Bool := false
deriving DecidableEq, Repr

/-- A closed range that waits for its seal (R302, R303). -/
structure JClosed where
  shadow : Bool
  first  : Nat
  span   : Nat
  slot   : Nat
  keyed  : Bool
  recs   : List (List Byte)
  /-- Clock of its close. -/
  closeC : Nat
deriving DecidableEq, Repr

/-- An open lost run (R299). -/
structure JLost where
  first  : Nat
  last   : Nat
  count  : Nat
  stampF : Nat
  stampL : Nat
deriving DecidableEq, Repr

/-- What a takeover's records name (R307, R393). -/
structure JTake where
  agreed : Nat
  tag    : List Byte
  oldEp  : Nat
  newEp  : Nat
  sFrom  : Nat
  unsync : Bool
deriving DecidableEq, Repr

/-- A record or close that waits for a reserved place (R298), in order of occurrence. -/
inductive JEvent where
  | gap
  | start (cause : Nat)
  | stop (cause : Nat)
  /-- The open range of the main, or of the shadow journal, closes. -/
  | close (shadow : Bool)
  | sealOne
  | seal
  | toShadow
  | toMain
  /-- Step 1 of a takeover begins (R307, R393). -/
  | mark
  | takeover (t : JTake)
deriving DecidableEq, Repr

/-- The record of an egress copy: its sequence, or, while its clock is not over, its number among the clock's data records
(R290, R291). -/
inductive RecRef where
  | seq (n : Nat)
  | id (n : Nat)
deriving DecidableEq, Repr

/-- A FRAME or VOID record that the running clock forms (R291): its place in the clock's order, its kind word without
SHADOW, the register that counts it, its short stamp, and bytes 8-19 and 24-43. -/
structure JPend where
  ord   : Nat
  kw    : Nat
  cnt   : Nat
  stamp : Nat
  a     : List Byte
  b     : List Byte
  /-- An egress record: port of its copy, and its number in the clock. -/
  mark  : Option (Nat × Nat) := none
  /-- A VOID record: the record it names. -/
  voids : Option RecRef := none
deriving DecidableEq, Repr

/-- The journal of a complex (R296 to R307). -/
structure JrnSt where
  /-- The journal buffer, oldest record first; for its oldest records, the ring whose buffer not yet completed holds it, none
  for one that is to be written again (R300). -/
  buf     : List (List Byte) := []
  out     : List (Option Nat) := []
  lost    : Option JLost := none
  /-- The open range of the main and of the shadow journal. -/
  main    : Option JRange := none
  shad    : Option JRange := none
  closed  : List JClosed := []
  events  : List JEvent := []
  /-- Last shadow sequence formed before step 1 of the latest takeover (R393). -/
  sTo     : Nat := 0
  /-- Between START and STOP; and STOP has been formed since the last START. -/
  running : Bool := false
  stopped : Bool := false
  /-- Clock of the latest record and the records formed in it; data records of the running clock, in the order in which they
take their sequences when it passes (R291). -/
  clock   : Nat := 0
  formed  : Nat := 0
  pend    : List JPend := []
  /-- Clock of the latest journal activity; main ranges sealed, latest first: clock of the close, last sequence, TAG,
  ID word (R398). Those closed in the running turn stay, and the latest before it. -/
  now     : Nat := 0
  sealed  : List (Nat × Nat × List Byte × Nat) := []
deriving DecidableEq, Repr

/-- A job of a ring (R322): `n` entries from index `idx`, the bytes it holds in the TX staging store, and its
completion entries once it is done. -/
structure RJob where
  id   : Nat
  idx  : Nat
  n    : Nat
  held : Nat := 0
  res  : Option (List (List Byte)) := none
  /-- Lost as its complex was gated: it never completes of its own (R359). -/
  lost : Bool := false
deriving DecidableEq, Repr

/-- A slow-path frame in the receive staging store (R331). -/
structure RxItem where
  stamp  : Nat
  port   : Nat
  reason : Nat
  tag    : Nat
  gen    : Nat
  ready  : Nat
  bytes  : List Byte
deriving DecidableEq, Repr

/-- Turn of the latest change of a ring's ACK, and whether AGE turn boundaries have passed since (R319). -/
structure AckAge where
  at_  : Nat := 0
  aged : Bool := false
deriving DecidableEq, Repr

/-- Why a ring is STOPPING (R315). -/
inductive StopWhy where
  | disabled | reset | owner
deriving DecidableEq, Repr

/-- A ring that is RUNNING or STOPPING (R314 to R340). P, C and ACK stand in its registers. -/
structure Ring where
  kind  : Nat
  size  : Nat
  owner : Nat
  base  : Nat
  wb    : Nat
  why   : Option StopWhy := none
  /-- Entries from C on, in ring order: none while not fetched (R316); and whether one was lost to a read error. -/
  ents  : List (Option (List Byte)) := []
  /-- Jobs begun, in ring order: they cover the first entries. -/
  jobs  : List RJob := []
  jobNo : Nat := 0
  /-- CMD: completions of the open job so far, its session batch, and how the batch fails (0 not, 1 an INSERT or
  DELETE failed, 2 one key both inserted and deleted). -/
  done  : List (List Byte) := []
  batch : Nat := 0
  fail  : Nat := 0
  /-- JRN: records written to the buffer being filled, the turn of the first one, and its SEQ. -/
  fill  : Nat := 0
  fillT : Nat := 0
  first : Nat := 0
  gap   : Bool := false
  /-- CAP: completions of egress copies whose frames have not left, by job. -/
  capWait : List (Nat × List (List Byte)) := []
  /-- EVT: end indices of the events not yet consumed, oldest first. -/
  evs   : List Nat := []
  /-- RX: frames waiting to be written, oldest first. -/
  rxq   : List RxItem := []
  /-- A soft reset of its page has stopped it, and a frame of it is still on its way out: its block goes to its reset values
  as it becomes DISABLED (R67, R340). -/
  wiped : Bool := false
deriving DecidableEq, Repr

/-- A frame of a TX job in a host frame queue or on its way into the core (R328). -/
structure HostFrame where
  ring : Nat
  job  : Nat
  fn   : Nat
  cls  : Nat
  ref  : Option Nat
  bytes : List Byte
deriving DecidableEq, Repr

/-- The health unit's own state, one per complex (R403 to R417). -/
structure HltSt where
  /-- Errors since the latest report was built: correctable, uncorrectable words, uncorrectable bus words (R416). -/
  corr    : Nat := 0
  uncorr  : Nat := 0
  bus     : Nat := 0
  /-- An uncorrectable error since then in a row whose repair unit has no free spare (R417). -/
  noSpare : Bool := false
  /-- PGs whose latest loopback frame failed; those of the previous report (R416, R417). -/
  loopBad  : List Nat := []
  loopPrev : List Nat := []
  /-- Turn of each PG's latest loopback frame; of the latest trim; of the latest figure-of-merit watch (R411). -/
  loopTurn : List (Nat × Nat) := []
  trimTurn : Option Nat := none
  fomTurn  : Option Nat := none
  /-- The next word that the scrubber of a table reads, by table (R406). -/
  scrubAt  : List (Nat × Nat) := []
  /-- Words, by table and number, found correctable on the running and on the previous scrub pass; words (by key) in which an
  uncorrectable error was found and that have not been checked since (R408); the clock of the latest of these, and those found
  in it (R405). -/
  seen     : List (Nat × Nat) := []
  seenPrev : List (Nat × Nat) := []
  suspect  : List Nat := []
  found    : Nat × List Nat := (0, [])
  /-- Spares used of each repair unit, by unit key (R408). -/
  spares   : List (Nat × Nat) := []
  /-- Running remaps: page, table, row, spare, uncorrectable (R409). -/
  remaps   : List (Page × Nat × Nat × Nat × Bool) := []
  /-- Engines under test, by slice and engine; those that return at the next turn boundary; those held out by a failed
  test; those tested in the running rotation; the turn of each slice's latest test (R411, R413). -/
  testing  : List (Nat × Nat) := []
  finished : List (Nat × Nat) := []
  held     : List (Nat × Nat) := []
  rotated  : List (Nat × Nat) := []
  lastTest : List (Nat × Nat) := []
  /-- Compensation of each lane, in ps (R411). -/
  comp     : List (Nat × Int) := []
  /-- The open window's first turn; a window asked for; a close asked for (R412). -/
  window   : Option Nat := none
  wantOpen : Bool := false
  wantShut : Bool := false
  /-- Samples below FAIL in a row, by lane; lanes below FAIL at the last sample (R415). -/
  fomLow   : List (Nat × Nat) := []
  /-- Slip epoch of the latest report built. -/
  built    : Option Nat := none
deriving DecidableEq, Repr

/-- One run of a pause timer (R119, R120): the timer (0-7 a priority's, 8 the port's), the clock it is loaded in and
the clock it ends in. -/
structure PauseSeg where
  timer : Nat
  start : Nat
  stop  : Nat
deriving DecidableEq, Repr

/-- What happens to a frame being received (R97, R98, R104 to R108, R376). -/
inductive RxKind where
  /-- Fewer than its first 64 bytes have been received. -/
  | early
  /-- Cut-through: presented as this frame of the pipeline, or discarded for want of a place (R197). -/
  | presented (frame : Option Nat)
  /-- Held to its end: store-and-forward, or a MAC control frame. -/
  | held
  /-- Refused while quiescing. -/
  | drain
  /-- Received while DORMANT (true) or WAKING. -/
  | dormant (sleeping : Bool)
  /-- Received on the pair link. -/
  | pair
deriving DecidableEq, Repr

/-- The word that held a start delimiter (R158): lane-in-port, position P of the start bit in it, its unit-interval
offset, and chip time in its clock. -/
structure RxWord where
  lane : Nat
  pos  : Nat
  off  : Nat
  clk  : Clk
deriving DecidableEq, Repr

/-- A frame being received at a port: its kind, the word of its start, its bytes so far, the configuration it is received
under (R33), bytes before an invalid code already met, corrected bus words of it so far. -/
structure RxProg where
  kind  : RxKind
  word  : Option RxWord := none
  bytes : List Byte
  cfg   : List (Nat × Word)
  code  : Option Nat := none
  corr  : Nat := 0
  ecc   : Option BusErr := none
deriving DecidableEq, Repr

/-- A frame on a port's local loopback (R102, R165): its egress stamp, its bytes, and whether it has been sent whole. -/
structure LoopFrame where
  stamp : Nat
  bytes : List Byte
  done  : Bool := false
deriving DecidableEq, Repr

/-- A lane's receive bit counter (R158): its value at a clock, and its advance from there in tenths of a bit a clock. -/
structure LaneCnt where
  value : Nat := 0
  at_   : Nat := 0
  rate  : Nat
deriving DecidableEq, Repr

/-- What a frame in a port's transmit path is: a copy of a queue, a host frame, a flow-control frame of the MAC. -/
inductive TxKind where
  | queue (q : Nat)
  | host (h : HostFrame)
  | mac (pfc vector : Nat)
  /-- A witness message or a pair link frame (R377). -/
  | pair
deriving DecidableEq, Repr

/-- A frame in a port's transmit path, from its decision to its end (R19, R44 to R46, R110 to R114). -/
structure TxFrame where
  kind     : TxKind
  tag      : Nat
  cls      : Nat
  len      : Nat
  /-- Clock of its request (R19 stage 1); the configuration and threshold it is requested under, once it is. -/
  reqAt    : Nat
  cfg      : Option (List (Nat × Word)) := none
  cur      : Nat := 0
  /-- Door release: the group; and whether the copy has been counted late (R279). -/
  group    : Option Nat := none
  late     : Bool := false
  /-- Clock of its first segment, once arrived; its metadata word and bytes. -/
  arrived  : Option Nat := none
  word     : Nat := 0
  bytes    : List Byte := []
  /-- All of its bytes have passed stage 3; a PTP header that has not yet come is to be updated (R168). -/
  whole    : Bool := false
  ptp      : Bool := false
  /-- Door release: the line bit of the lowest lane that its first symbol is placed at (R275). -/
  goal     : Option Nat := none
  /-- Stage 3 done: clock in which its first line bit leaves, egress stamp, stamp taken outside LOCKED. -/
  edited   : Bool := false
  launch   : Nat := 0
  stamp    : Nat := 0
  unlocked : Bool := false
  /-- Its egress record: formed or not to be formed, and the record (R290). -/
  recDone  : Bool := false
  seq      : Option RecRef := none
  /-- Ring and job of its capture copy (R332). -/
  cap      : Option (Nat × Nat) := none
  /-- Never to be sent: its port left UP before it began (R95). -/
  dead     : Bool := false
  /-- Stomped for an uncorrectable bus word at egress (R404). -/
  ecc      : Bool := false
deriving DecidableEq, Repr

/-- The link state of one lane of the pair port (R375): state as R89 numbers it, BACKOFF_STEP, turn its timer expires. -/
structure LaneTry where
  st       : Nat
  step     : Nat := 0
  deadline : Nat := 0
deriving DecidableEq, Repr

/-- A bus of a PG (R21, R22): segments of line traffic not yet carried, and those of frames that use what it leaves free, in
order, each with the re-entering frame they belong to. -/
structure BusSt where
  line : Nat := 0
  owed : List (Option Nat × Nat) := []
deriving DecidableEq, Repr

/-- A port's own state, by chip-wide port. -/
structure PortSt where
  /-- Turn in which the attempt or back-off timer expires, or from which the datapath powers up (R90, R100). -/
  deadline  : Nat := 0
  /-- LINK_DOWN has set since the port's enable and its last UP (R91). -/
  downSet   : Bool := false
  /-- Remote fault is being received; clock of its latest onset in UP (R96). -/
  faultRx   : Bool := false
  faultAt   : Nat := 0
  /-- A resume has been asked for and waits for the turn boundary (R100). -/
  resume    : Bool := false
  /-- Link states of a pair port's lanes, where a lane has gone its own way (R375). -/
  tries     : List LaneTry := []
  rx        : Option RxProg := none
  pause     : List PauseSeg := []
  /-- Flow control: state carried by the last frame started, priorities changed since, a frame is wanted, clock of
  the next re-send (R122). -/
  fcLast    : Nat := 0
  fcTouch   : Nat := 0
  fcPend    : Bool := false
  fcNext    : Nat := 0
  /-- Frames in the transmit path, in request order. -/
  tx        : List TxFrame := []
  /-- When the wire is free for a further frame, in 1/3200 clock (R117). -/
  free      : Nat := 0
  /-- When the last frame placed on the line has left, and what its gap borrowed of the deficit idle count, both in 1/3200
  clock (R116). -/
  lineEnd   : Nat := 0
  deficit   : Nat := 0
  /-- Egress stamp of the latest frame (R162). -/
  lastStamp : Nat := 0
  /-- Frames on the local loopback, oldest first (R102, R165). -/
  loop      : List LoopFrame := []
  /-- Clock of the latest release decision on the port (R278). -/
  relAt     : Option Nat := none
  /-- Line pacer (R268): tokens in units of 2^-24/25 byte, clock of its last refill. -/
  pacer     : Int := 0
  /-- An armed receive and transmit probe (R174). -/
  probeRx   : Bool := false
  probeTx   : Bool := false
  pacerAt   : Nat := 0
  /-- Taken down as its complex entered STANDBY (R359). -/
  gated     : Bool := false
deriving DecidableEq, Repr

/-- A copy in the notice store (R43, R270, R271). -/
structure Notice where
  len    : Nat
  colour : Nat
  marked : Bool
deriving DecidableEq, Repr

/-- A complex's scheduler: the wheel as (slot or coarse slot since reset, node) in order of placement (R264), where
each round robin and each DWRR stands (R257), requests of the latest clock (R44, R272), and the next TAG. -/
structure SchedSt where
  fine    : List (Nat × Nat) := []
  coarse  : List (Nat × Nat) := []
  rr      : List (Nat × Nat) := []
  dw      : List (Nat × Nat) := []
  clock   : Nat := 0
  reqs    : List (Nat × Nat) := []
  fired   : Nat × Nat := (0, 0)
  nextTag : Nat := 0
  /-- Queues whose entry has been invalidated and not become valid since (R263). -/
  voided  : List Nat := []
  /-- Turn of the latest wheel maintenance and the entries it has moved; the latest turn in which maintenance was recorded
  as missed; the latest turn whose telemetry samples were taken or missed (R24, R25). -/
  moved   : Nat × Nat := (0, 0)
  missed  : Option Nat := none
  sampled : Option Nat := none
deriving DecidableEq, Repr

/-- A release group's own state (R273 to R280): members of CUR decided, and members found late, by queue. -/
structure DoorSt where
  done : List Nat := []
  late : List Nat := []
deriving DecidableEq, Repr

/-- Delays of a queue's dequeued frames (R282), in ns: last, largest since the latest sample, running average. -/
structure TelQ where
  last : Nat
  top  : Nat
  avg  : Nat
deriving DecidableEq, Repr

/-- A claim (R345, R350): its source, whether the target's master has written since, and whether the level went low
before that. -/
structure Claim where
  source : Nat
  wrote  : Bool := false
  low    : Bool := false
deriving DecidableEq, Repr

/-- The interrupt controller (R343 to R354): sources whose level it sees high, rising; source 0 pending; claims by
target; hold-off timers as group and the clock they end in; lines held low after a COMPLETE, as target and the clock
from which they may rise; the clock of the latest change of a level that reached it, and the levels it saw before (R348). -/
structure IcuSt where
  level   : List Nat := []
  zero    : Bool := false
  claims  : List (Nat × Claim) := []
  holdoff : List (Nat × Nat) := []
  dip     : List (Nat × Nat) := []
  was     : Option (Nat × List Nat) := none
deriving DecidableEq, Repr

/-- A running scan of a check unit (R367 to R369): owner and table of a table scan; CHK_SCAN_START, CHK_SCAN_LEN and
FUNC as SCAN found them; a CHECK waits for its end; a command was written meanwhile. -/
structure ChkScan where
  table : Option (Page × Nat)
  start : Nat
  len   : Nat
  fn    : Nat
  check : Bool
  again : Bool := false
  /-- Rows of a table fed, and the clock by which the next has been read (R368). -/
  rows  : Nat := 0
  next  : Nat := 0
deriving DecidableEq, Repr

/-- A check unit's own state (R362 to R370): CHK_CTL, CHK_SEED, CHK_FOLD_BASE, CHK_EXPECT and CHK_SCAN_START as INIT latched
them; the block being fed, bytes of it so far and, in RECORD mode, those of its check field; blocks checked and failed since
INIT; the scan; the clock in which BUSY ends. -/
structure ChkSt where
  ctl   : Nat := 0
  seed  : Nat := 0
  base  : Nat := 0
  expect : Nat := 0
  from_ : Nat := 0
  block : Nat := 0
  pos   : Nat := 0
  tail  : List Byte := []
  good  : Nat := 0
  bad   : Nat := 0
  scan  : Option ChkScan := none
  busy  : Nat := 0
deriving DecidableEq, Repr

/-- A witness request without its answer (R379, R381): MSG, REQ_ID, turn first sent, counted as unanswered. -/
structure WitReq where
  msg   : Nat
  id    : Nat
  first : Nat
  late  : Bool := false
deriving DecidableEq, Repr

/-- A slip epoch being sent (R388): EPOCH_NO, its blocks after the journal heads (latest first), entries sent in it,
and whether the refresh walk ended a pass. -/
structure Slip where
  no     : Nat
  blocks : List (List Byte) := []
  sent   : List Dirty := []
  pass   : Bool := false
deriving DecidableEq, Repr

/-- The last journal head applied for a complex (R391): AGREED, TAG, ID word, shadow mark. -/
structure PairHead where
  agreed : Nat
  tag    : List Byte
  idw    : Nat
  mark   : Nat
deriving DecidableEq, Repr

/-- A slip epoch received and checked, waiting to be applied (R389). -/
structure SlipIn where
  no     : Nat
  blocks : List (List Byte)
  pass   : Bool
deriving DecidableEq, Repr

/-- Where a held claim is to be answered (R382, R383): witness row, port, source address, 802.1Q tag, REQ_ID, EPOCH. -/
structure WitFrom where
  port  : Nat
  mac   : List Byte
  tag   : List Byte
  reqId : Nat
  epoch : Nat
deriving DecidableEq, Repr

/-- The pair unit's own state (R375 to R398). -/
structure PairSt where
  /-- LINK_SEQ and REQ_ID of the next frame and request. -/
  seq      : Nat := 0
  reqId    : Nat := 0
  reqs     : List WitReq := []
  /-- The claim being repeated: REQ_ID and turn last sent; turn of the latest QUERY; timeouts in a row. -/
  claim    : Option (Nat × Nat) := none
  lastAsk  : Nat := 0
  timeouts : Nat := 0
  /-- Clock of the latest valid heartbeat and of the latest with ACTIVE (both from the enable on); the silence
  recognised (0 none, 1 partner lost, 2 pair link lost), whether an answer of the witness settled it, and whether its
  256 turns have been acted on (R385, R392). -/
  lastHb   : Nat := 0
  lastAct  : Nat := 0
  silence  : Nat := 0
  settled  : Bool := false
  longGone : Bool := false
  /-- Clock of the latest PAIR_HB_IN edge; turns PAIR_PEER_ROLE has read high while this chip was ACTIVE (R386). -/
  pinAt    : Option Nat := none
  peerHigh : Nat := 0
  /-- Turns of the latest heartbeats sent and of the latest RENEW (R381, R384). -/
  beatTurn : Option Nat := none
  renewTurn : Option Nat := none
  /-- LINK_SEQ, ingress stamp and TX of the last heartbeat received (R378). -/
  echo     : Option (Nat × Nat × Nat) := none
  /-- Blocks received by epoch; an epoch discarded before its close; epochs to apply; the last epoch of an unbroken
  run since a PASS_END epoch; epochs in a row not applied; an epoch has been applied (R389, R392). -/
  rxBuf    : List (Nat × List (Nat × List Byte)) := []
  dead     : Option Nat := none
  ready    : List SlipIn := []
  chain    : Option Nat := none
  failRow  : Nat := 0
  applied  : Bool := false
  /-- Journal heads applied since enable; shadow sequence and chip time of the latest 64 turn boundaries (R391). -/
  heads    : List (Nat × PairHead) := []
  marks    : List (Nat × List (Nat × Nat)) := []
  /-- Chip time at the latest turn boundary, and JRN_SEQ_NEXT of each complex there (R398). -/
  stamp0   : Nat := 0
  seq0     : List (Nat × Nat) := []
  /-- The epoch being sent, the one to be closed, closed ones not yet reported applied, entries of epochs owed again,
  and where the refresh walk stands (R388). -/
  opened   : Option Slip := none
  closing  : Option Slip := none
  unacked  : List (Nat × List Dirty) := []
  again    : List Dirty := []
  walk     : Option Dirty := none
  /-- PAIR_HB_OUT and PAIR_ROLE: none while released (R386, R397). -/
  hbOut    : Option Bool := none
  rolePin  : Option Bool := none
  /-- Claims held as witness, by row (R382). -/
  held     : List (Nat × WitFrom) := []
  /-- When the latest frame placed on each lane of the pair port has left, in 1/3200 clock (R162, R376). -/
  lineEnd  : List (Nat × Nat) := []
  /-- LAST and the first receipt of the pending claim, in clocks, by witness row (R382). -/
  witAt    : List (Nat × Nat × Nat) := []
deriving DecidableEq, Repr

/-- A complex's thermal throttle (R438, R441): turn of the latest reading, readings in a row at or above THR and below
THR - HYST, whether FORCE was live at the latest turn boundary of this throttle, a change due at the next turn boundary
(entry or exit, by FORCE, the reading), the engines whose test ran as the throttle was applied (R442), and whether THERM_N
is held low since a soft reset of the complex (R54). -/
structure ThermSt where
  read_ : Option Nat := none
  hot   : Nat := 0
  cool  : Nat := 0
  forced : Bool := false
  due   : Option (Bool × Bool × Nat) := none
  late  : List (Nat × Nat) := []
  pin   : Bool := false
deriving DecidableEq, Repr

/-- A sweep descriptor (R425). -/
structure SweepDesc where
  ptype  : Nat
  table  : Nat
  inst   : Nat
  regs   : Bool
  shared : Bool
  first  : Nat
  count  : Nat
  off    : Nat
  len    : Nat
deriving DecidableEq, Repr

/-- The Sweep of a complex (R425 to R435): the turn in which a pass was asked for; the running pass's copy of the list,
host function and address of its half; its first turn, the turn of its last chunk, the turn its next chunk or its record
is due in; descriptor and index of its next slice; chunks missed and slices replaced; its chunks are done; STOP. -/
structure SweepSt where
  asked   : Option Nat := none
  running : Bool := false
  list    : List SweepDesc := []
  func    : Nat := 0
  base    : Nat := 0
  start   : Nat := 0
  last    : Nat := 0
  due     : Nat := 0
  pos     : Nat × Nat := (0, 0)
  missing : Nat := 0
  uncorr  : Nat := 0
  ended   : Bool := false
  stop    : Bool := false
deriving DecidableEq, Repr

/-- What the complex puts out at its boundary because of the latest command (R34).
Assumption 21 (DESIGN CHOICE, safe). -/
inductive Output where
  /-- Data returned by the register access port (R51), or at the push aperture (R325). -/
  | readData (v : Word)
  /-- A rising or falling edge of PPS_OUT, and its instant in sixteenths of a clock since reset (R136). -/
  | ppsOut (high : Bool) (launch : Nat)
  /-- A message started on TOD_OUT (R138). -/
  | todOut (bytes : List Byte)
  /-- A write on the host memory port for a function (R47). -/
  | hostWrite (func addr : Nat) (bytes : List Byte)
  /-- A read request on the host memory port for a function (R47, R48). -/
  | hostRead (func addr len : Nat)
  /-- A released frame's first segments at the handoff of a PG, with its metadata word (R39), and the frame. `slot` is where
  the first of them goes, four slots to a clock since reset (R21, R38). -/
  | handoff (pg : Nat) (frame : Nat) (slot : Nat) (word : Nat) (bytes : List Byte)
  /-- Later bytes of a released frame, from a segment slot on. -/
  | handoffMore (pg : Nat) (frame : Nat) (slot : Nat) (bytes : List Byte)
  /-- The end-of-frame word with a frame's last segment (R41). -/
  | endOfFrame (pg : Nat) (frame : Nat) (word : Nat)
  /-- A dequeue request (R44): complex, queue, port position, KIND (0 DEQUEUE, 1 DROP_HEAD), TAG. -/
  | dequeue (cx queue pos kind tag : Nat)
  /-- A frame started on a port (R110): its bytes without FCS as edited so far, and its egress stamp. -/
  | txStart (port : Nat) (bytes : List Byte) (stamp : Nat)
  /-- A frame ended on a port: all its bytes with the FCS sent, and whether that is stomped (R110). -/
  | txEnd (port : Nat) (bytes : List Byte) (stomped : Bool)
  /-- The Pilot asks the chip to power a complex up (R356). -/
  | powerUp (x : Cx)
  /-- The port starts, or stops, transmitting remote fault (R95). -/
  | remoteFault (port : Nat) (on : Bool)
  /-- A frame received under remote loopback, transmitted again (R102). -/
  | relayed (port : Nat) (bytes : List Byte)
  /-- A frame sent on the pair link, on the lane-in-port named (R375). -/
  | pairTx (lane : Nat) (bytes : List Byte)
deriving DecidableEq, Repr

/-- Everything of the chip but the time and the queue. -/
structure Chip where
  /-- Which part of the family this chip is: a strap, not changed by reset (T1024 at reset: assumption 6, DESIGN
  CHOICE, unsafe). -/
  part      : Part
  /-- The PCIe endpoint's Max_Payload_Size and Max_Read_Request_Size (R48): 256 and 512 at reset (assumption 139, DESIGN
  CHOICE, unsafe). -/
  maxPay    : Nat
  maxRead   : Nat
  /-- The chip has no power (R54, R152): only chip reset acts on it. -/
  off       : Bool
  /-- Register values that have been stored, keyed by window offset, reset words elsewhere; a staged copy stands at its
  own offset, a live copy at the page's live view (R64). -/
  regs      : List (Nat × Word)
  /-- The addressed tables, in canonical form: strictly rising keys, no zero bytes; an unlisted byte is 0 (R448). -/
  mem       : List Host.Cell
  /-- Errors that stand in table words, met by the next read of their rows (R404). -/
  latent    : List LookupErr
  /-- The table windows' 512-byte data buffers, in the same form (R79). -/
  twBuf     : List Host.Cell
  /-- The running command of each busy window, keyed by 64 c + w (R80). -/
  twRun     : List (Nat × TwRun)
  /-- Complexes still initialising after chip reset (R448). -/
  initBusy  : List Cx
  /-- Requested commits in order of HDR_GEN write (R70). -/
  commits   : List CommitReq
  /-- Pages in soft reset, with the turn by which BUSY clears (R67). -/
  resetting : List (Page × Nat)
  /-- Commits performed in this turn: pages (R24, R71). -/
  committed : List Page
  /-- Last data the port returned to each master (R51). -/
  readPcie  : Word
  readMgmt  : Word
  /-- Crazing logs, keyed by complex (R418). -/
  logs      : List (Nat × LogSt)
  /-- Timebase. -/
  time      : TimeSt
  /-- Frames of the receive pipeline, keyed by frame number, and the next number. -/
  frames    : List (Nat × Frame)
  nextFrame : Nat
  /-- Session units, keyed by complex. -/
  ses       : List (Nat × SesSt)
  /-- Stream recovery, keyed by stream (R374). -/
  recov     : List (Nat × RecovSt)
  /-- How often each meter has been enabled, keyed by 65536 c + index (R246, R249). -/
  mtrEpoch  : List (Nat × Nat)
  /-- Running MODIFY of each complex (R250). -/
  mtrMod    : List (Nat × ModRun)
  /-- Mirrored entries with unsent changes, oldest first (R388). -/
  dirty     : List Dirty
  /-- Journals, keyed by complex (R296). -/
  jrn       : List (Nat × JrnSt)
  /-- Key slots that hold a key (R305), and the running LOAD: slot, key, and whether another command came. -/
  keys      : List (Nat × List Byte)
  keyLoad   : Option (Nat × List Byte × Bool)
  /-- Host functions enabled, and those in the sequence of R312. -/
  funcOn    : List Nat
  funcStop  : List Nat
  /-- Rings RUNNING or STOPPING, keyed by chip-wide number, and every ring's push window bytes (R325). -/
  rings     : List (Nat × Ring)
  push      : List (Nat × List (Nat × Byte))
  /-- Age of each ring's ACK (R319), and the ring at which a complex's rotation of fetches goes on (R316). -/
  acks      : List (Nat × AckAge)
  fetchAt   : List (Nat × Nat)
  /-- Host frame queues by port, and host frames on their way into the core by PG (R328). -/
  hostQ     : List (Nat × List HostFrame)
  coreQ     : List (Nat × List HostFrame)
  /-- Health units, keyed by complex (R401 to R417). -/
  hlt       : List (Nat × HltSt)
  /-- Next order number of dispatch and queue entry. -/
  nextOrder : Nat
  /-- SWAPs accepted and not yet applied: slice, clock they apply at, record (R186). -/
  swaps     : List (Nat × Nat × Nat)
  /-- Slow-path frames of a reason sent in a turn, keyed by 32 × slice + reason: turn and count (R190). -/
  slowCnt   : List (Nat × Nat × Nat)
  /-- Recirculations of a slice in a turn: turn and count (R213). -/
  recCnt    : List (Nat × Nat × Nat)
  /-- Dispatcher of a slice: clock of its latest rounds, heads taken in it, last engine used (R176). -/
  disp      : List (Nat × Nat × Nat × Nat)
  /-- Next free handoff segment slot of a PG, four to a clock (R38, R198). -/
  relSlot   : List (Nat × Nat)
  /-- The buses of the PGs, where they carry anything: receive buses keyed by PG, transmit buses by 64 + PG (R21, R22). -/
  bus       : List (Nat × BusSt)
  /-- Heads of a PG that have passed from stage 4 into its dispatch queue: clock and number (R176). -/
  passed    : List (Nat × Nat × Nat)
  /-- Next rank of each sequence, keyed by 9 × PG + sequence (R197). -/
  ranks     : List (Nat × Nat)
  /-- Ports, by chip-wide number. -/
  ports     : List (Nat × PortSt)
  /-- Receive bit counters of the lanes, keyed by lane (R158). -/
  laneCnt   : List (Nat × LaneCnt)
  /-- Copies waiting in each queue, oldest first, keyed by 65536 c + queue (R270). -/
  notices   : List (Nat × List Notice)
  /-- Schedulers, keyed by complex. -/
  sched     : List (Nat × SchedSt)
  /-- DROP_HEAD requests not yet issued: clock, complex, queue, position, TAG (R272). -/
  drops     : List (Nat × Nat × Nat × Nat × Nat)
  /-- Release groups by number; head frames owed to MISS_ACT 0 by queue (R280). -/
  doors     : List (Nat × DoorSt)
  owed      : List (Nat × Nat)
  /-- Delay records by queue (R282). -/
  tel       : List (Nat × TelQ)
  /-- Interrupt controller. -/
  icu       : IcuSt
  /-- Complexes in STANDBY (R355). -/
  standby   : List Cx
  /-- Check units, keyed by 4 c + u. -/
  chk       : List (Nat × ChkSt)
  /-- The pair unit. -/
  pair      : PairSt
  /-- Thermal throttles, keyed by complex. -/
  therm     : List (Nat × ThermSt)
  /-- Sweeps, keyed by complex. -/
  sweep     : List (Nat × SweepSt)
  /-- Outputs of the latest command, in order. Assumption 22 (DESIGN CHOICE, safe). -/
  out       : List Output
deriving DecidableEq, Repr

/-- The machine: time, chip, and the commands waiting, first in, first out. -/
structure State where
  clk     : Clk
  chip    : Chip
  pending : List Instr
deriving DecidableEq, Repr

/-- No command of this model ends in a fault: the spec's errors are captured in registers and the block goes on.
The one constructor is there because the interface asks for a type. Safe: nothing raises it.
Assumption 10 (DESIGN CHOICE, safe). -/
inductive Fault where
  /-- Raised by nothing. Safe. -/
  | none
deriving DecidableEq, Repr

/-- Why a command is turned away. -/
inductive Refusal where
  /-- The command has no meaning in this model yet; raised by an arm of `exec` only. Safe. -/
  | notModelled (mnemonic : String)
deriving DecidableEq, Repr

/-- The nominal increment, 0.64 ns in units of 2^-48 ns (R130). -/
def nominalIncr : Nat := 180143985094820

/-- Time after chip reset: turn 0, clock 0, chip time 0, nominal increment (R131, R449). -/
def Clk.reset : Clk := ⟨0, 0, 0, 0, 0, nominalIncr, false, false⟩

/-- The chip after chip reset, as part `p` (R447 to R449, R452). The endpoint's limits are 256 and 512 bytes.
Assumption 139 (DESIGN CHOICE, unsafe). -/
def Chip.resetOf (p : Part) : Chip where
  part := p
  maxPay := 256
  maxRead := 512
  off := false
  regs := []
  latent := []
  mem := []
  twBuf := []
  twRun := []
  initBusy := [0, 1]
  commits := []
  resetting := []
  committed := []
  readPcie := 0
  readMgmt := 0
  logs := []
  time := {}
  frames := []
  nextFrame := 0
  ses := []
  recov := []
  mtrEpoch := []
  mtrMod := []
  dirty := []
  jrn := []
  keys := []
  keyLoad := none
  funcOn := []
  funcStop := []
  rings := []
  push := []
  acks := []
  fetchAt := []
  hostQ := []
  coreQ := []
  hlt := []
  nextOrder := 0
  swaps := []
  slowCnt := []
  recCnt := []
  disp := []
  relSlot := []
  bus := []
  passed := []
  ranks := []
  ports := []
  laneCnt := []
  notices := []
  sched := []
  drops := []
  doors := []
  owed := []
  tel := []
  icu := {}
  standby := []
  chk := []
  pair := {}
  therm := []
  sweep := []
  out := []

/-- The machine right after reset. Assumption 7 (DESIGN CHOICE, unsafe). -/
def State.reset : State := ⟨Clk.reset, Chip.resetOf .t1024, []⟩

end Sys2Proof.Machine
end

