-- ==== Sys2Proof/Machine/Operands.lean ====
section
/-!
DEFINITION. Bit fields, signed values, byte order and the sparse keyed stores: the operand forms every meaning uses.
-/
namespace Sys2Proof.Machine

/-! Bit fields of natural numbers and register words (bit 0 is least significant). -/

/-- Bits hi:lo of `v`. -/
def bits (v hi lo : Nat) : Nat := v / 2 ^ lo % 2 ^ (hi + 1 - lo)

/-- Bit `i` of `v`, as a truth value. -/
def bit (v i : Nat) : Bool := v.testBit i

/-- `v` with bits hi:lo replaced by the low bits of `x`. -/
def setBits (v hi lo x : Nat) : Nat :=
  v / 2 ^ (hi + 1) * 2 ^ (hi + 1) + x % 2 ^ (hi + 1 - lo) * 2 ^ lo + v % 2 ^ lo

/-- A truth value as a bit. -/
def b2n (b : Bool) : Nat := if b then 1 else 0

/-- The mask of bits hi:lo in a register word. -/
def maskW (hi lo : Nat) : Word := BitVec.ofNat 64 ((2 ^ (hi + 1 - lo) - 1) * 2 ^ lo)

/-- `old` with the bits of `mask` taken from `new`. -/
def merge (mask old new : Word) : Word := (old &&& ~~~mask) ||| (new &&& mask)

/-- An `n`-bit two's complement value as an integer. -/
def signed (n v : Nat) : Int := if 2 * (v % 2 ^ n) < 2 ^ n then (v % 2 ^ n : Nat) else (v % 2 ^ n : Nat) - (2 ^ n : Nat)

/-- An integer as an `n`-bit two's complement value. -/
def unsigned (n : Nat) (i : Int) : Nat := (i % (2 ^ n : Nat)).toNat

/-- Ceiling division. -/
def ceilDiv (a b : Nat) : Nat := (a + b - 1) / b

/-- `a + n`, saturating at `top`. -/
def satAdd (top a n : Nat) : Nat := min top (a + n)

/-! Byte order. -/

/-- Little-endian value of a list of bytes. -/
def leNat : List Byte → Nat
  | [] => 0
  | b :: bs => b.toNat + 256 * leNat bs

/-- Big-endian value of a list of bytes. -/
def beNat (bs : List Byte) : Nat := leNat bs.reverse

/-- `n` bytes of `v`, least significant first. -/
def leBytes : Nat → Nat → List Byte
  | 0, _ => []
  | n + 1, v => BitVec.ofNat 8 v :: leBytes n (v / 256)

/-- `n` bytes of `v`, most significant first. -/
def beBytes (n v : Nat) : List Byte := (leBytes n v).reverse

/-- `n` bytes of `bs` from byte `o`, zero past the end. -/
def slice (bs : List Byte) (o n : Nat) : List Byte :=
  let got := (bs.drop o).take n
  got ++ List.replicate (n - got.length) 0

/-- Big-endian value of the `n` bytes of `bs` from byte `o`: the order of fields on the wire. -/
def wireNat (bs : List Byte) (o n : Nat) : Nat := beNat (slice bs o n)

/-- Little-endian value of the `n` bytes of `bs` from byte `o`: the order of memory structures. -/
def memNat (bs : List Byte) (o n : Nat) : Nat := leNat (slice bs o n)

/-- `bs` with the bytes from `o` on replaced by `xs` (within `bs`). -/
def patch (bs : List Byte) (o : Nat) (xs : List Byte) : List Byte :=
  bs.take o ++ xs.take (bs.length - o) ++ bs.drop (o + xs.length)

/-! Order. -/

/-- `a` put into an ordered list, before its equals. -/
def insertBy {α : Type} (le : α → α → Bool) (a : α) : List α → List α
  | [] => [a]
  | b :: bs => if le a b then a :: b :: bs else b :: insertBy le a bs

/-- A list put in the order `le`; equals stay as they stand. -/
def sortBy {α : Type} (le : α → α → Bool) : List α → List α
  | [] => []
  | a :: as => insertBy le a (sortBy le as)

/-! Sparse stores: lists of key and value, keys strictly rising. -/

/-- The entry at key `k`, or `d` where none is listed. -/
def kvGet {β : Type} (d : β) : List (Nat × β) → Nat → β
  | [], _ => d
  | (a, v) :: m, k => if a = k then v else kvGet d m k

/-- The entry at key `k`, if listed. -/
def kvFind {β : Type} : List (Nat × β) → Nat → Option β
  | [], _ => none
  | (a, v) :: m, k => if a = k then some v else kvFind m k

/-- `m` with `v` at key `k`, keeping the keys strictly rising. -/
def kvPut {β : Type} : List (Nat × β) → Nat → β → List (Nat × β)
  | [], k, v => [(k, v)]
  | (a, w) :: m, k, v =>
    if k < a then (k, v) :: (a, w) :: m
    else if k = a then (k, v) :: m
    else (a, w) :: kvPut m k v

/-- `m` without key `k`. -/
def kvErase {β : Type} : List (Nat × β) → Nat → List (Nat × β)
  | [], _ => []
  | (a, w) :: m, k => if a = k then m else (a, w) :: kvErase m k

/-- The keys of a sparse store rise strictly. -/
def kvSorted {β : Type} : List (Nat × β) → Bool
  | [] => true
  | [_] => true
  | (a, _) :: (b, w) :: m => decide (a < b) && kvSorted ((b, w) :: m)

/-- Byte `a` of a byte store: an unlisted byte is 0. Assumption 9 (DEDUCED, safe). -/
def memGet (m : List Host.Cell) (a : Nat) : Byte := kvGet 0 m a

/-- Byte `a` of a byte store set to `v`: a zero byte is not listed. -/
def memPut (m : List Host.Cell) (a : Nat) (v : Byte) : List Host.Cell :=
  if v = 0 then kvErase m a else kvPut m a v

/-- `n` bytes from `a`. -/
def memRead (m : List Host.Cell) (a : Nat) : Nat → List Byte
  | 0 => []
  | n + 1 => memGet m a :: memRead m (a + 1) n

/-- The bytes `bs` written from `a` on. -/
def memWrite (m : List Host.Cell) (a : Nat) : List Byte → List Host.Cell
  | [] => m
  | b :: bs => memWrite (memPut m a b) (a + 1) bs

/-- A byte store in canonical form: keys strictly rising, no zero byte listed. -/
def Memory.wf (m : List Host.Cell) : Bool := kvSorted m && m.all (fun c => decide (c.2 ≠ 0))

end Sys2Proof.Machine
end

