-- ==== Sys2Proof/Machine/RegMap.lean ====
section
/-!
DEFINITION. The registers of every page type, from the field tables of the spec's chapters: offset, width,
repetition, and for every field its bits, its access code (R12) and its reset value. Bits no field covers are
reserved (R13, R74).
-/
namespace Sys2Proof.Machine

/-- The access codes of R12. -/
inductive Acc where
  | rw | ro | w1c | w1s | wos | rws | wok
deriving DecidableEq, Repr

/-- One field: bits hi:lo, its access code and its reset value. -/
structure Fld where
  hi  : Nat
  lo  : Nat
  acc : Acc
  rst : Nat
deriving DecidableEq, Repr

/-- One register, or `count` registers `stride` bytes apart. `bytes` is 4 or 8. -/
structure Reg where
  name   : String
  off    : Nat
  bytes  : Nat
  count  : Nat
  stride : Nat
  flds   : List Fld
deriving DecidableEq, Repr

/-- A 32-bit register. -/
def r32 (name : String) (off : Nat) (flds : List Fld) : Reg := ⟨name, off, 4, 1, 4, flds⟩
/-- A 64-bit register. -/
def r64 (name : String) (off : Nat) (flds : List Fld) : Reg := ⟨name, off, 8, 1, 8, flds⟩
/-- An array of 32-bit registers. -/
def a32 (name : String) (off count stride : Nat) (flds : List Fld) : Reg := ⟨name, off, 4, count, stride, flds⟩
/-- An array of 64-bit registers. -/
def a64 (name : String) (off count stride : Nat) (flds : List Fld) : Reg := ⟨name, off, 8, count, stride, flds⟩
/-- A 64-bit counter: RO, reset 0, wrapping at 2^64. -/
def cnt (name : String) (off : Nat) : Reg := ⟨name, off, 8, 1, 8, [⟨63, 0, .ro, 0⟩]⟩
/-- An array of 64-bit counters, 8 bytes apart. -/
def cnts (name : String) (off count : Nat) : Reg := ⟨name, off, 8, count, 8, [⟨63, 0, .ro, 0⟩]⟩

def fRw (hi lo rst : Nat) : Fld := ⟨hi, lo, .rw, rst⟩
def fRo (hi lo rst : Nat) : Fld := ⟨hi, lo, .ro, rst⟩
def fRws (hi lo rst : Nat) : Fld := ⟨hi, lo, .rws, rst⟩
def fW1c (hi lo : Nat) : Fld := ⟨hi, lo, .w1c, 0⟩
def fW1s (hi lo : Nat) : Fld := ⟨hi, lo, .w1s, 0⟩
def fWos (hi lo : Nat) : Fld := ⟨hi, lo, .wos, 0⟩
def fWok (hi lo : Nat) : Fld := ⟨hi, lo, .wok, 0⟩

/-- The common header of every page (R65). HDR_ID and HDR_CAP are computed when read. -/
def hdrRegs : List Reg := [
  r32 "HDR_ID" 0x000 [fRo 31 0 0],
  r32 "HDR_CAP" 0x004 [fRo 31 0 0],
  r32 "HDR_CTL" 0x008 [fW1s 3 3, fWos 2 2, fRw 1 1 0, fRws 0 0 0],
  r32 "HDR_STAT" 0x00C [fRo 4 4 0, fW1c 3 3, fW1c 2 2, fRo 1 1 0, fRo 0 0 0],
  r32 "HDR_IRQ_STAT" 0x010 [fW1c 31 8, fW1c 3 3, fW1c 2 2, fW1c 1 1, fW1c 0 0],
  r32 "HDR_IRQ_EN" 0x014 [fRw 31 0 0],
  r32 "HDR_IRQ_FORCE" 0x018 [fW1s 31 0],
  r32 "HDR_GEN" 0x01C [fRw 31 16 0, fRo 15 0 0],
  r32 "HDR_ERR_INFO" 0x020 [fW1c 31 31, fW1c 30 30, fRo 23 20 0, fRo 19 16 0, fRo 15 0 0],
  r32 "HDR_ERR_ADDR" 0x024 [fRo 31 31 0, fRo 25 0 0],
  r32 "HDR_SCRATCH" 0x028 [fRw 31 0 0]]

/-- Chip capability page (R2, R32, R63, R372, R373). -/
def capRegs : List Reg := [
  r32 "CPX_CAP" 0x040 [fRo 31 0 0],
  cnt "CPX_DECODE_ERR_CNT" 0x048,
  cnt "CPX_COMMIT_LATE_CNT" 0x118,
  a32 "CPX_TAG_PORTS" 0x200 16 4 [fRws 31 0 0],
  cnt "CPX_STREAM_NOSEQ_CNT" 0x240,
  cnt "CPX_STREAM_INVALID_CNT" 0x248]

/-- CPX page of a complex (R46, R50, R444). -/
def cpxRegs : List Reg := [
  r32 "CPX_CAP" 0x040 [fRo 31 0 0],
  cnt "CPX_RESP_LATE_CNT" 0x100,
  cnt "CPX_RESP_EMPTY_CNT" 0x108,
  r64 "CPX_HOST_ERR_CNT" 0x110 [fRo 63 48 0, fRo 47 32 0, fRo 31 0 0],
  cnt "CPX_COMMIT_LATE_CNT" 0x118,
  r32 "CPX_TEMP" 0x180 [fRo 31 16 0x8000, fRo 15 0 0x8000],
  r32 "CPX_THERM_CTL" 0x184 [fRws 24 24 0, fRws 20 16 13, fRws 11 8 5, fRws 7 0 105],
  r32 "CPX_THERM_RECIRC" 0x188 [fRws 15 0 2048],
  r32 "CPX_THERM_STAT" 0x18C [fRo 1 1 0, fRo 0 0 0],
  cnt "CPX_THROTTLE_CNT" 0x190,
  cnt "CPX_THROTTLE_TURN_CNT" 0x198]

/-- A window page (R79): it has no header. The 512-byte data buffer is the window's own state. -/
def twRegs : List Reg := [
  r32 "CPX_TW_SEL" 0x000 [fRw 31 24 0, fRw 23 16 0, fRw 15 15 0, fRw 13 0 0],
  r32 "CPX_TW_ROW" 0x004 [fRw 31 31 0, fRw 23 0 0],
  r32 "CPX_TW_CMD" 0x008 [fWos 2 0],
  r32 "CPX_TW_STAT" 0x00C [fRo 7 4 0, fRo 0 0 0]]

/-- PGR page (R85, R99, R103). -/
def pgrRegs : List Reg := [
  r32 "PGR_BREAKOUT" 0x040 [fRws 31 28 0, fRws 27 24 0, fRws 23 20 0, fRws 19 16 0, fRws 15 12 0, fRws 11 8 0,
    fRws 7 4 0, fRws 3 0 0],
  r32 "PGR_LANE_STAT" 0x044 [fRo 23 16 0, fRo 15 8 0, fRo 7 0 0],
  r32 "PGR_WAKE_STAT" 0x048 [fRo 18 16 0, fW1c 7 0],
  cnt "PGR_WAKE_CNT" 0x050]

/-- LNE page (R101). The preset tap values are the lane's own (R94): an open value of the spec. -/
def lneRegs : List Reg := [
  r32 "LNE_CTL" 0x040 [fRws 15 12 0, fRw 2 2 0, fRws 1 1 0, fRws 0 0 0],
  r32 "LNE_STAT" 0x044 [fRo 31 24 0, fRo 23 23 0, fRo 3 3 0, fRo 2 2 0, fRo 1 1 0, fRo 0 0 0],
  r32 "LNE_FOM" 0x048 [fRo 31 16 0xFFFF, fRo 15 0 0],
  r32 "LNE_FOM_THR" 0x04C [fRw 31 16 0, fRw 15 0 0],
  r32 "LNE_DFE_TAP0" 0x050 [fRw 31 0 (Config.dfePreset 0 0 0).toNat],
  r32 "LNE_DFE_TAP1" 0x054 [fRw 31 0 (Config.dfePreset 0 0 1).toNat],
  r32 "LNE_DFE_TAP2" 0x058 [fRw 31 0 (Config.dfePreset 0 0 2).toNat],
  r32 "LNE_DFE_TAP3" 0x05C [fRw 31 0 (Config.dfePreset 0 0 3).toNat],
  r32 "LNE_DFE_FLOAT" 0x060 [fRw 6 0 17],
  r32 "LNE_DFE_FTAP" 0x064 [fRw 31 0 (Config.dfePreset 0 0 4).toNat],
  r32 "LNE_SKEW" 0x068 [fRo 31 31 0, fRo 25 6 0, fRo 5 0 0],
  cnt "LNE_FEC_SYM_CNT" 0x070,
  cnt "LNE_LOCK_LOSS_CNT" 0x078]

/-- PRT page (R102, R126, R127). The Acknowledge and Next Page bits of PRT_AN_ADV are D14 and D15, and a base page has no
Toggle bit. Assumption 137 (PRESUMED, unsafe). -/
def prtRegs : List Reg := [
  r32 "PRT_LINK_CTL" 0x040 [fRws 9 8 0, fRws 3 3 0, fRws 2 2 0, fRws 1 1 0, fRws 0 0 0],
  r32 "PRT_LINK_CMD" 0x044 [fWos 0 0],
  r32 "PRT_DORMANT" 0x048 [fRw 0 0 0],
  r32 "PRT_LINK_STAT" 0x04C [fRo 31 28 0, fRo 27 27 0, fRo 26 24 0, fRo 7 7 0, fRo 6 6 0, fRo 5 5 0, fRo 3 0 0],
  r64 "PRT_AN_ADV" 0x050 [fRws 47 16 0, fRo 15 14 0, fRws 13 0 0],
  r64 "PRT_AN_LP" 0x058 [fRo 47 0 0],
  cnt "PRT_TRAIN_ATTEMPT_CNT" 0x060, cnt "PRT_LINK_DOWN_CNT" 0x068, cnt "PRT_FEC_CW_CNT" 0x070,
  cnt "PRT_FEC_CORR_CNT" 0x078, cnt "PRT_FEC_UNCORR_CNT" 0x080, cnt "PRT_DORMANT_DROP_CNT" 0x088,
  cnt "PRT_DOWN_FLUSH_CNT" 0x090, cnt "PRT_REMOTE_FAULT_CNT" 0x098, cnt "PRT_DRAIN_DROP_CNT" 0x0A0,
  r32 "PRT_MAC_CTL" 0x100 [fRws 2 2 1, fRws 1 1 0, fRws 0 0 0],
  r32 "PRT_MAC_MAXLEN" 0x104 [fRws 13 0 0x2400],
  r32 "PRT_MAC_CT" 0x108 [fRo 21 16 0, fRws 5 0 0],
  r32 "PRT_MAC_IPG" 0x10C [fRws 4 0 12],
  r64 "PRT_MAC_SA" 0x110 [fRws 47 0 0],
  r32 "PRT_FC_CTL" 0x118 [fRws 31 16 0xFFFF, fRws 2 2 0, fRws 1 1 0, fRws 0 0 0],
  r32 "PRT_FC_REFRESH" 0x11C [fRws 15 0 0x8000],
  r64 "PRT_PFC_MAP" 0x120 [fRws 63 0 0x8040201008040201],
  r32 "PRT_FC_TX" 0x128 [fRw 7 0 0],
  r32 "PRT_FC_STAT" 0x12C [fRo 15 8 0, fRo 7 0 0],
  cnt "PRT_RX_OK_CNT" 0x200, cnt "PRT_RX_OCTETS_CNT" 0x208, cnt "PRT_RX_UCAST_CNT" 0x210,
  cnt "PRT_RX_MCAST_CNT" 0x218, cnt "PRT_RX_BCAST_CNT" 0x220, cnt "PRT_RX_FCS_ERR_CNT" 0x228,
  cnt "PRT_RX_CODE_ERR_CNT" 0x230, cnt "PRT_RX_ALIGN_ERR_CNT" 0x238, cnt "PRT_RX_RUNT_CNT" 0x240,
  cnt "PRT_RX_OVERSIZE_CNT" 0x248, cnt "PRT_RX_LEN_ERR_CNT" 0x250, cnt "PRT_RX_TRUNC_CNT" 0x258,
  cnt "PRT_RX_ECC_DROP_CNT" 0x260, cnt "PRT_RX_PAUSE_CNT" 0x268, cnt "PRT_RX_CTRL_OTHER_CNT" 0x270,
  cnt "PRT_RX_BAD_OCTETS_CNT" 0x278, cnts "PRT_RX_PFC_CNT" 0x280 8, cnts "PRT_RX_SIZE_CNT" 0x2C0 10,
  cnt "PRT_TX_OK_CNT" 0x400, cnt "PRT_TX_OCTETS_CNT" 0x408, cnt "PRT_TX_UCAST_CNT" 0x410,
  cnt "PRT_TX_MCAST_CNT" 0x418, cnt "PRT_TX_BCAST_CNT" 0x420, cnt "PRT_TX_UNDERRUN_CNT" 0x428,
  cnt "PRT_TX_STOMP_FWD_CNT" 0x430, cnt "PRT_TX_STOMP_ECC_CNT" 0x438, cnt "PRT_TX_DOWN_END_CNT" 0x440,
  cnt "PRT_TX_PAUSE_CNT" 0x448, cnts "PRT_TX_PFC_CNT" 0x450 8, cnts "PRT_TX_SIZE_CNT" 0x490 10,
  cnt "PRT_TX_PAUSED_CLK_CNT" 0x4E0, cnt "PRT_TX_OVERSIZE_CNT" 0x4E8, cnt "PRT_TX_RUNT_CNT" 0x4F0]

/-- TIM page (R154). TIM_INCR is the increment in force, computed when read. -/
def timRegs : List Reg := [
  r32 "TIM_CTL" 0x040 [fRws 7 7 0, fRws 6 6 0, fRws 5 5 0, fRws 2 0 0],
  r32 "TIM_STAT" 0x044 [fRo 15 8 0, fRo 7 7 0, fRo 6 6 0, fRo 5 5 0, fRo 4 4 0, fRo 3 3 0, fRo 1 0 0],
  r32 "TIM_CMD" 0x048 [fWos 3 3, fWos 2 2, fWos 1 1, fWos 0 0],
  r32 "TIM_DOMAIN" 0x04C [fRws 11 0 0],
  r64 "TIM_INCR" 0x050 [fRo 63 0 0],
  r64 "TIM_INCR_NEXT" 0x058 [fRw 63 0 180143985094820],
  r64 "TIM_STEP" 0x060 [fRw 63 0 0],
  r64 "TIM_SET_SEC" 0x068 [fRw 47 0 0],
  r64 "TIM_SET_NSF" 0x070 [fRw 47 0 0],
  r64 "TIM_SNAP_SEC" 0x078 [fRo 47 0 0],
  r64 "TIM_SNAP_NSF" 0x080 [fRo 63 0 0],
  r64 "TIM_SNAP_TURN" 0x088 [fRo 63 0 0],
  r64 "TIM_SNAP_CLK" 0x090 [fRo 10 0 0],
  r64 "TIM_PPS_IN_SEC" 0x098 [fRo 47 0 0],
  r64 "TIM_PPS_IN_NSF" 0x0A0 [fRo 63 0 0],
  r64 "TIM_PPS_IN_TOD" 0x0A8 [fRo 63 63 0, fRo 47 0 0],
  r64 "TIM_OFFSET" 0x0B0 [fRo 63 0 0],
  r64 "TIM_SRV_OFFSET" 0x0B8 [fRw 63 0 0],
  r32 "TIM_LOCK_THR" 0x0C0 [fRws 31 24 4, fRws 23 12 100, fRws 11 0 20],
  r32 "TIM_LOSS_CTL" 0x0C4 [fRws 31 16 14400, fRws 15 0 1500],
  r32 "TIM_PPS_OUT" 0x0C8 [fRws 19 0 100000],
  r32 "TIM_PPS_IN_DELAY" 0x0CC [fRws 31 0 0],
  r32 "TIM_PPS_OUT_DELAY" 0x0D0 [fRws 31 0 0],
  r32 "TIM_TOD_TX" 0x0D4 [fRws 31 16 0, fRws 15 8 248, fRws 4 4 0, fRws 3 3 0, fRws 2 2 0],
  r64 "TIM_TOD_RX0" 0x0D8 [fRo 63 0 0],
  r64 "TIM_TOD_RX1" 0x0E0 [fRo 63 0 0],
  r32 "TIM_REF_CTL" 0x0E8 [fRws 1 0 0],
  r64 "TIM_REF_COUNT" 0x0F0 [fRo 63 0 0],
  a32 "TIM_SYNCE" 0x0F8 2 4 [fRws 31 31 0, fRo 30 30 1, fRws 24 16 0, fRws 15 0 0],
  r32 "TIM_CAL_CMD" 0x100 [fWos 2 0],
  r32 "TIM_CAL_STAT" 0x104 [fRo 31 16 0, fRo 15 8 0, fRo 7 4 0, fRo 0 0 0],
  r32 "TIM_CAL_UNLOCK" 0x108 [fWok 31 0],
  cnt "TIM_PPS_IN_CNT" 0x140, cnt "TIM_PPS_IN_MISS_CNT" 0x148, cnt "TIM_PPS_IN_SPUR_CNT" 0x150,
  cnt "TIM_TOD_RX_OK_CNT" 0x158, cnt "TIM_TOD_RX_ERR_CNT" 0x160, cnt "TIM_TOD_UNPAIRED_CNT" 0x168,
  cnt "TIM_ADJ_CNT" 0x170, cnt "TIM_ADJ_REJECT_CNT" 0x178, cnt "TIM_HOLDOVER_CNT" 0x180,
  cnt "TIM_REF_LOSS_CNT" 0x188, cnt "TIM_SYNCE_SQUELCH_CNT" 0x190, cnt "TIM_CAL_SKIP_CNT" 0x198]

/-- STP page (R175). The calibration constants come from the power-up load (R151). -/
def stpRegs : List Reg := [
  r32 "STP_CTL" 0x040 [fRws 7 6 0, fRws 5 5 0, fRws 4 4 0, fRws 2 2 0, fRws 1 1 0, fRws 0 0 0],
  r32 "STP_STAT" 0x044 [fRo 7 5 0, fRo 1 1 1, fRo 0 0 0],
  r32 "STP_PTP_LINK_DELAY" 0x048 [fRws 31 0 0],
  r32 "STP_PROBE_CMD" 0x04C [fWos 1 1, fWos 0 0],
  r32 "STP_PROBE_STAT" 0x050 [fRo 1 1 0, fRo 0 0 0],
  r64 "STP_PROBE_RX_SEC" 0x058 [fRo 63 0 0], r64 "STP_PROBE_RX_NSF" 0x060 [fRo 63 0 0],
  r64 "STP_PROBE_RX_RAW" 0x068 [fRo 63 0 0], r64 "STP_PROBE_RX_TC" 0x070 [fRo 63 0 0],
  r64 "STP_PROBE_TX_SEC" 0x078 [fRo 63 0 0], r64 "STP_PROBE_TX_NSF" 0x080 [fRo 63 0 0],
  a32 "STP_CAL_RX" 0x104 15 4 [fRws 31 0 0],
  a32 "STP_CAL_TX" 0x144 15 4 [fRws 31 0 0],
  a32 "STP_LANE_RX" 0x180 8 4 [fRws 31 0 0],
  cnt "STP_ONE_STEP_CNT" 0x1C0, cnt "STP_TC_UPD_CNT" 0x1C8, cnt "STP_CF_SAT_CNT" 0x1D0,
  cnt "STP_PTP_SKIP_CNT" 0x1D8]

/-- SLC page (R200). -/
def slcRegs : List Reg := [
  r32 "SLC_GEN_NEXT" 0x040 [fRw 31 16 0, fRw 9 9 0, fRw 8 8 0, fRw 7 0 0],
  r32 "SLC_GEN_LIVE" 0x044 [fRo 31 0 0],
  r32 "SLC_GEN_OLD" 0x048 [fRo 31 0 0],
  r32 "SLC_GEN_CMD" 0x04C [fWos 0 0],
  r32 "SLC_GEN_STAT" 0x050 [fRo 31 31 0],
  r32 "SLC_GEN_INFLIGHT" 0x054 [fRo 31 16 0, fRo 15 0 0],
  cnt "SLC_SWAP_CNT" 0x058, cnt "SLC_SWAP_REJECT_CNT" 0x060]

/-- PRS page (R201). -/
def prsRegs : List Reg := [
  r32 "PRS_CTL" 0x040 [fRws 1 1 0, fRws 0 0 0],
  r32 "PRS_ENG_MASK" 0x044 [fRws 15 0 0xFFFF],
  r32 "PRS_ENG_STAT" 0x048 [fRo 20 20 0, fRo 19 16 0, fRo 15 0 0xFFFF],
  r32 "PRS_ROB_CTL" 0x04C [fRws 15 0 4096],
  r32 "PRS_MALF_ACT" 0x050 [fRws 11 0 0],
  a32 "PRS_SLOW_MAP" 0x100 32 4 [fRws 31 31 0, fRws 27 16 0, fRws 10 0 0],
  cnts "PRS_MALF_CNT" 0x200 6, cnts "PRS_ROB_TIMEOUT_CNT" 0x240 8, cnts "PRS_ROB_FULL_CNT" 0x280 8,
  cnt "PRS_DISABLED_DROP_CNT" 0x2C0, cnt "PRS_SLOW_DROP_CNT" 0x2C8, cnt "PRS_DISPATCH_WAIT_CNT" 0x2D0,
  cnts "PRS_SLOW_CNT" 0x300 32]

/-- BSQ page (R202). -/
def bsqRegs : List Reg := [
  a64 "BSQ_MISS_ACT" 0x040 2 8 [fRws 63 0 0],
  a32 "BSQ_PORT_DEF" 0x050 9 4 [fRws 27 24 0, fRws 16 0 0],
  cnt "BSQ_MISS_CNT" 0x080, cnt "BSQ_DROP_CNT" 0x088, cnt "BSQ_BYPASS_CNT" 0x090]

/-- GLZ page (R217). -/
def glzRegs : List Reg := [
  r32 "GLZ_CTL" 0x040 [fRws 1 0 0],
  r32 "GLZ_RECIRC_LIMIT" 0x044 [fRws 15 0 0],
  a64 "GLZ_MISS_ACT" 0x048 2 8 [fRws 63 0 0],
  r64 "GLZ_RQ_DEPTH" 0x058 [fRo 63 0 0],
  cnt "GLZ_MISS_CNT" 0x080, cnt "GLZ_MISS2_CNT" 0x088, cnt "GLZ_DROP_CNT" 0x090, cnt "GLZ_BYPASS_CNT" 0x098,
  cnt "GLZ_RECIRC_CNT" 0x0A0, cnt "GLZ_RQ_FULL_CNT" 0x0A8, cnt "GLZ_RQ_OVER_CNT" 0x0B0,
  cnt "GLZ_RQ_REFUSED_CNT" 0x0B8, cnt "GLZ_RQ_WAIT_CNT" 0x0C0]

/-- SES page (R239). -/
def sesRegs : List Reg := [
  r32 "SES_CTL" 0x040 [fRws 1 0 2],
  r32 "SES_IDLE" 0x044 [fRws 15 0 0],
  r32 "SES_BATCH_STAT" 0x048 [fRo 7 5 0, fRo 3 1 0],
  a32 "SES_KOP_KEY" 0x100 10 4 [fRw 31 0 0],
  r64 "SES_KOP_CTRL" 0x128 [fRw 63 0 0], r64 "SES_KOP_SEQ" 0x130 [fRw 63 0 0],
  r32 "SES_KOP_MS" 0x138 [fRw 29 16 0, fRw 15 0 0],
  r32 "SES_KOP_CMD" 0x13C [fRw 3 3 0, fWos 2 0],
  r32 "SES_KOP_STAT" 0x140 [fRo 31 31 0, fRo 16 0 0],
  r32 "SES_KOP_RES" 0x144 [fRo 7 4 0, fRo 0 0 0],
  cnt "SES_HIT_CNT" 0x180, cnt "SES_MISS_CNT" 0x188, cnt "SES_BYPASS_CNT" 0x190, cnt "SES_NOSEQ_CNT" 0x198,
  cnt "SES_GAP_CNT" 0x1A0, cnt "SES_DUP_CNT" 0x1A8, cnt "SES_DUP_DROP_CNT" 0x1B0, cnt "SES_RESYNC_CNT" 0x1B8,
  cnts "SES_UNTRACKED_CNT" 0x1C0 4, cnt "SES_INSERT_CNT" 0x1E0, cnt "SES_INSERT_FAIL_CNT" 0x1E8,
  cnt "SES_MOVE_CNT" 0x1F0, cnt "SES_EVICT_CNT" 0x1F8,
  a32 "SES_PROF_SEL_0" 0x200 8 0x30 [fRws 31 0 0], a32 "SES_PROF_SEL_1" 0x204 8 0x30 [fRws 31 0 0],
  a32 "SES_PROF_SEL_2" 0x208 8 0x30 [fRws 31 0 0], a32 "SES_PROF_SEL_3" 0x20C 8 0x30 [fRws 31 0 0],
  a32 "SES_PROF_SEL_4" 0x210 8 0x30 [fRws 31 0 0], a32 "SES_PROF_SEL_5" 0x214 8 0x30 [fRws 31 0 0],
  a32 "SES_PROF_SEL_6" 0x218 8 0x30 [fRws 31 0 0], a32 "SES_PROF_SEL_7" 0x21C 8 0x30 [fRws 31 0 0],
  a32 "SES_PROF_SEL_8" 0x220 8 0x30 [fRws 31 0 0], a32 "SES_PROF_SEL_9" 0x224 8 0x30 [fRws 31 0 0],
  a32 "SES_PROF_SEQ" 0x228 8 0x30 [fRws 31 31 0, fRws 30 30 0, fRws 29 28 0, fRws 27 25 0, fRws 24 19 0, fRws 8 0 0],
  a32 "SES_PROF_CTL" 0x22C 8 0x30 [fRws 8 8 0, fRws 7 7 0, fRws 6 6 0, fRws 5 4 0, fRws 3 2 0, fRws 0 0 0],
  cnt "SES_MISS_DROP_CNT" 0x380, cnt "SES_LEARN_DROP_CNT" 0x388, cnt "SES_LEARN_EXISTS_CNT" 0x390,
  cnt "SES_DELETE_CNT" 0x398]

/-- MTR page (R254). -/
def mtrRegs : List Reg := [
  r32 "MTR_MOD_IDX" 0x040 [fRw 15 0 0],
  r32 "MTR_MOD_CIR" 0x044 [fRw 31 0 0], r32 "MTR_MOD_PIR" 0x048 [fRw 31 0 0],
  r64 "MTR_MOD_SIZE" 0x050 [fRw 55 32 0, fRw 23 0 0],
  r32 "MTR_MOD_CTL" 0x058 [fRw 31 0 0],
  r32 "MTR_MOD_CMD" 0x05C [fWos 0 0],
  r32 "MTR_MOD_STAT" 0x060 [fRo 7 4 0, fRo 0 0 0],
  cnt "MTR_GREEN_CNT" 0x080, cnt "MTR_YELLOW_CNT" 0x088, cnt "MTR_RED_CNT" 0x090, cnt "MTR_RED_DROP_CNT" 0x098,
  cnt "MTR_BYPASS_CNT" 0x0A0, cnt "MTR_INVALID_CNT" 0x0A8, cnt "MTR_TRUEUP_CNT" 0x0B0]

/-- SCH page (R284). -/
def schRegs : List Reg := [
  r32 "SCH_PORT_CTL" 0x040 [fRws 14 8 20, fRws 0 0 0],
  r32 "SCH_SVC_CTL0" 0x044 [fRws 31 16 0, fRws 4 4 0, fRws 3 3 0, fRws 2 0 7],
  r32 "SCH_SVC_CTL1" 0x048 [fRws 31 16 0, fRws 4 4 0, fRws 3 3 0, fRws 2 0 6],
  r32 "SCH_SVC_CTL2" 0x04C [fRws 31 16 0, fRws 4 4 0, fRws 3 3 0, fRws 2 0 5],
  r32 "SCH_SVC_CTL3" 0x050 [fRws 31 16 0, fRws 4 4 0, fRws 3 3 0, fRws 2 0 4],
  r32 "SCH_SVC_CTL4" 0x054 [fRws 31 16 0, fRws 4 4 0, fRws 3 3 0, fRws 2 0 3],
  r32 "SCH_SVC_CTL5" 0x058 [fRws 31 16 0, fRws 4 4 0, fRws 3 3 0, fRws 2 0 2],
  r32 "SCH_SVC_CTL6" 0x05C [fRws 31 16 0, fRws 4 4 0, fRws 3 3 0, fRws 2 0 1],
  r32 "SCH_SVC_CTL7" 0x060 [fRws 31 16 0, fRws 4 4 0, fRws 3 3 0, fRws 2 0 0],
  a32 "SCH_NODE_CIR" 0x080 9 0x10 [fRws 31 0 0], a32 "SCH_NODE_PIR" 0x084 9 0x10 [fRws 31 0 0],
  a64 "SCH_NODE_BURST" 0x088 9 0x10 [fRws 55 32 0, fRws 23 0 0],
  r32 "SCH_DEPTH_FRAMES" 0x110 [fRo 31 0 0],
  r64 "SCH_DEPTH_BYTES" 0x118 [fRo 63 0 0],
  cnts "SCH_DEQ_CNT" 0x140 8, cnts "SCH_DEQ_OCTETS_CNT" 0x180 8,
  cnt "SCH_COLOUR_DROP_CNT" 0x1C0, cnt "SCH_REL_ABSENT_CNT" 0x1C8]

/-- WHL page (R285). -/
def whlRegs : List Reg := [
  r64 "WHL_NOW" 0x040 [fRo 63 0 0],
  r64 "WHL_STAT" 0x048 [fRo 48 32 0, fRo 16 0 0],
  r32 "WHL_NOTICE_USED" 0x050 [fRo 21 0 0],
  cnt "WHL_LATE_CNT" 0x080, cnt "WHL_EXPIRE_LATE_CNT" 0x088, cnt "WHL_CLAMP_CNT" 0x090,
  cnt "WHL_NOTICE_CNT" 0x098, cnt "WHL_INVALID_Q_CNT" 0x0A0]

/-- DOR page (R286). -/
def dorRegs : List Reg := [
  r32 "DOR_CTL" 0x040 [fRws 0 0 0],
  r32 "DOR_WINDOW" 0x044 [fRws 19 0 1000],
  r32 "DOR_ARM_SEL" 0x048 [fRw 8 0 0],
  r64 "DOR_ARM_SEC" 0x050 [fRw 47 0 0], r64 "DOR_ARM_NSF" 0x058 [fRw 47 0 0],
  r32 "DOR_ARM_CMD" 0x060 [fWos 1 1, fWos 0 0],
  r32 "DOR_ARM_STAT" 0x064 [fRo 7 4 0, fRo 0 0 0],
  cnt "DOR_RELEASE_CNT" 0x080, cnt "DOR_COPY_CNT" 0x088, cnt "DOR_LATE_CNT" 0x090, cnt "DOR_MISS_CNT" 0x098,
  cnt "DOR_MISS_DROP_CNT" 0x0A0, cnt "DOR_SHIFT_CNT" 0x0A8, cnt "DOR_TRAIL_CNT" 0x0B0,
  cnt "DOR_ARM_REJECT_CNT" 0x0B8, cnt "DOR_CANCEL_CNT" 0x0C0]

/-- TEL page (R287). -/
def telRegs : List Reg := [
  r32 "TEL_CTL" 0x040 [fRws 31 16 64, fRws 1 1 0, fRws 0 0 0],
  r32 "TEL_NEXT" 0x048 [fRo 15 0 0],
  cnt "TEL_LATE_CNT" 0x080, cnt "TEL_SAMPLE_CNT" 0x088]

/-- JRN page (R309). -/
def jrnRegs : List Reg := [
  r32 "JRN_CTL" 0x040 [fRws 23 22 0, fRws 21 21 0, fRws 20 20 0, fRws 17 17 1, fRws 16 16 1, fRws 10 0 0],
  r32 "JRN_STAT" 0x044 [fRo 31 31 0, fRo 30 30 0, fRo 16 0 0],
  r64 "JRN_SEQ_NEXT" 0x048 [fRw 63 0 0],
  r64 "JRN_CHAIN_LO" 0x050 [fRw 63 0 0], r64 "JRN_CHAIN_HI" 0x058 [fRw 63 0 0],
  r64 "JRN_SHADOW_NEXT" 0x060 [fRw 63 0 0],
  r64 "JRN_SHADOW_CHAIN_LO" 0x068 [fRw 63 0 0], r64 "JRN_SHADOW_CHAIN_HI" 0x070 [fRw 63 0 0],
  r64 "JRN_LAST_SEAL" 0x078 [fRo 63 0 0],
  cnt "JRN_FRAME_CNT" 0x100, cnt "JRN_VOID_CNT" 0x108, cnt "JRN_SEAL_CNT" 0x110, cnt "JRN_GAP_CNT" 0x118,
  cnt "JRN_LOST_CNT" 0x120, cnt "JRN_NOKEY_CNT" 0x128, cnt "JRN_TAKEOVER_CNT" 0x130, cnt "JRN_BYPASS_CNT" 0x138,
  cnt "JRN_WRITTEN_CNT" 0x140, cnt "JRN_RSV_WAIT_CNT" 0x148]

/-- SEL page (R310). -/
def selRegs : List Reg := [
  a32 "SEL_KEY_DATA" 0x040 8 4 [fWok 31 0],
  r32 "SEL_KEY_CMD" 0x060 [fWos 9 9, fWos 8 8, fRw 1 0 0],
  r32 "SEL_KEY_STAT" 0x064 [fRo 11 8 0, fRo 7 4 0, fRo 0 0 0],
  a32 "SEL_KCV" 0x070 4 4 [fRo 31 0 0],
  cnt "SEL_SEAL_CNT" 0x080, cnt "SEL_KEY_LOAD_CNT" 0x088]

/-- DMA host function table page (R341). -/
def funcRegs : List Reg := [
  r32 "DMA_CPX_EVT" 0x040 [fRws 31 31 0, fRws 26 16 0, fRws 15 15 0, fRws 10 0 0],
  a32 "DMA_CAP_ROUTE" 0x048 2 4 [fRws 31 31 0, fRws 26 16 0, fRws 15 15 0, fRws 10 0 0],
  a32 "DMA_FUNC_CTL" 0x100 64 4 [fRw 31 31 0, fRw 30 30 0, fRw 26 16 0, fRw 14 14 0, fRw 10 0 0],
  a32 "DMA_FUNC_STAT" 0x200 64 4 [fRo 31 31 1, fRo 9 0 0],
  cnt "DMA_EVT_DISCARD_CNT" 0x300, cnt "DMA_CAP_DISCARD_CNT" 0x308, cnt "DMA_APERTURE_ERR_CNT" 0x310]

/-- DMA page of a ring block (R342): eight blocks of 0x80 bytes from 0x100. -/
def dmaRegs : List Reg := [
  a64 "DMA_RING_BASE" 0x100 8 0x80 [fRws 63 12 0],
  a64 "DMA_RING_WB" 0x108 8 0x80 [fRws 63 3 0],
  a32 "DMA_RING_CFG" 0x110 8 0x80 [fRws 31 31 0, fRws 30 28 0, fRws 27 24 0, fRws 21 16 0, fRws 9 9 0, fRws 8 0 0],
  a32 "DMA_RING_PARAM" 0x114 8 0x80 [fRws 31 16 0, fRws 15 8 0],
  a32 "DMA_RING_NOTIFY" 0x118 8 0x80 [fRws 31 16 1, fRws 15 0 0],
  a32 "DMA_RING_INIT" 0x11C 8 0x80 [fRws 31 0 0],
  a64 "DMA_RING_DB" 0x120 8 0x80 [fRw 34 32 0, fRw 31 0 0],
  a32 "DMA_RING_PROD" 0x128 8 0x80 [fRo 31 0 0], a32 "DMA_RING_CONS" 0x12C 8 0x80 [fRo 31 0 0],
  a32 "DMA_RING_ACK" 0x130 8 0x80 [fRw 31 0 0],
  a32 "DMA_RING_STAT" 0x134 8 0x80 [fRo 31 30 0, fRo 5 4 0, fW1c 3 3, fW1c 2 2, fW1c 1 1, fW1c 0 0],
  a32 "DMA_RING_CMD" 0x138 8 0x80 [fWos 0 0],
  a64 "DMA_RING_DONE_CNT" 0x140 8 0x80 [fRo 63 0 0], a64 "DMA_RING_ERR_CNT" 0x148 8 0x80 [fRo 63 0 0],
  a64 "DMA_RING_DROP_CNT" 0x150 8 0x80 [fRo 63 0 0], a64 "DMA_RING_REJECT_CNT" 0x158 8 0x80 [fRo 63 0 0],
  a64 "DMA_RING_PUSH_MISS_CNT" 0x160 8 0x80 [fRo 63 0 0]]

/-- ICU page (R360). ICU_PEND, ICU_LEVEL and the target blocks' claim state are computed from the controller's
own state when read. -/
def icuRegs : List Reg := [
  a32 "ICU_PEND" 0x040 32 4 [fRo 31 0 0],
  a32 "ICU_LEVEL" 0x0C0 32 4 [fRo 31 0 0],
  a32 "ICU_HOLDOFF" 0x140 32 4 [fRw 31 16 0, fRw 15 0 0],
  a32 "ICU_TGT_CTL" 0x200 8 0x20 [fRw 0 0 0],
  a32 "ICU_TGT_CLAIM" 0x204 8 0x20 [fRo 15 0 0xFFFF],
  a32 "ICU_TGT_COMPLETE" 0x208 8 0x20 [fRw 15 0 0xFFFF],
  a32 "ICU_TGT_STAT" 0x20C 8 0x20 [fRo 31 31 0, fRo 30 30 0, fRo 29 29 0, fRo 9 0 0],
  a64 "ICU_SPURIOUS_CNT" 0x210 8 0x20 [fRo 63 0 0], a64 "ICU_FAULT_CNT" 0x218 8 0x20 [fRo 63 0 0],
  r32 "ICU_FAULT_INFO" 0x300 [fW1c 31 31, fRo 18 16 0, fRo 15 0 0],
  a32 "ICU_EN" 0x400 256 4 [fRw 31 0 0]]

/-- PIL page (R361). -/
def pilRegs : List Reg := [
  r32 "PIL_CTL" 0x040 [fRw 0 0 0],
  r32 "PIL_STAT" 0x044 [fRo 8 8 0, fRo 1 0 0],
  r32 "PIL_EVENT" 0x048 [fW1c 31 0],
  a32 "PIL_WATCH" 0x080 32 4 [fRws 31 31 0, fRws 9 0 0],
  cnt "PIL_WAKE_CNT" 0x100,
  r64 "PIL_WAKE_TIME" 0x108 [fRo 63 0 0]]

/-- CHK page (R370). -/
def chkRegs : List Reg := [
  r32 "CHK_CTL" 0x040 [fRw 31 16 0, fRw 6 5 0, fRw 4 4 0, fRw 2 2 0, fRw 1 0 0],
  r64 "CHK_SEED" 0x048 [fRw 63 0 0xFFFFFFFFFFFFFFFF],
  r64 "CHK_FOLD_BASE" 0x050 [fRw 63 0 0], r64 "CHK_EXPECT" 0x058 [fRw 63 0 0],
  r64 "CHK_SCAN_START" 0x060 [fRw 63 0 0],
  r32 "CHK_SCAN_LEN" 0x068 [fRw 31 0 0], r32 "CHK_SCAN_SPACE" 0x06C [fRw 31 31 0, fRw 5 0 0],
  r32 "CHK_CMD" 0x070 [fWos 2 2, fWos 1 1, fWos 0 0],
  r32 "CHK_STAT" 0x074 [fRo 11 8 0, fW1c 5 5, fRo 4 4 0, fRo 3 3 0, fRo 2 2 0, fRo 1 1 0, fRo 0 0 0],
  r64 "CHK_RESULT" 0x078 [fRo 63 0 0], r64 "CHK_STATE" 0x080 [fRo 63 0 0], r64 "CHK_BYTES" 0x088 [fRo 63 0 0],
  r64 "CHK_FAIL_BLOCK" 0x090 [fRo 63 0 0xFFFFFFFFFFFFFFFF], r64 "CHK_PARTIAL" 0x098 [fRo 63 0 0],
  r32 "CHK_DATA8" 0x0A0 [fRw 7 0 0], r32 "CHK_DATA16" 0x0A4 [fRw 15 0 0], r32 "CHK_DATA32" 0x0A8 [fRw 31 0 0],
  r64 "CHK_DATA64" 0x0B0 [fRw 63 0 0],
  cnt "CHK_MISMATCH_CNT" 0x100, cnt "CHK_REC_FAIL_CNT" 0x108, cnt "CHK_DROP_CNT" 0x110]

/-- SAG page (R400). -/
def sagRegs : List Reg := [
  r32 "SAG_CTL" 0x040 [fRws 24 24 0, fRws 21 20 0, fRws 18 18 0, fRws 17 17 0, fRws 8 0 0],
  r32 "SAG_PEER" 0x044 [fRws 27 16 0, fRws 11 0 0],
  r32 "SAG_WIT_PORT" 0x048 [fRws 31 31 0, fRws 30 28 0, fRws 27 16 0, fRws 8 0 0],
  r32 "SAG_ETYPE" 0x04C [fRws 31 16 0x88B6, fRws 15 0 0x88B5],
  r64 "SAG_WIT_MAC" 0x050 [fRws 47 0 0], r64 "SAG_PAIR_MAC" 0x058 [fRws 47 0 0],
  r32 "SAG_PARAM" 0x060 [fRws 31 16 4096, fRws 15 8 8, fRws 7 4 3, fRws 3 0 2],
  r32 "SAG_CMD" 0x064 [fWos 2 2, fWos 1 1, fWos 0 0],
  r32 "SAG_STAT" 0x068 [fRo 12 12 0, fRo 11 8 0, fRo 7 7 0, fRo 6 6 0, fRo 5 5 0, fRo 4 4 0, fRo 3 3 0, fRo 2 0 0],
  r32 "SAG_EPOCH" 0x06C [fRo 31 0 0],
  r64 "SAG_LEASE_END" 0x070 [fRo 63 0 0], r64 "SAG_APPLIED" 0x078 [fRo 63 0 0], r64 "SAG_CLOSED" 0x080 [fRo 63 0 0],
  r64 "SAG_PEER_CONE" 0x088 [fRo 63 0 0], a64 "SAG_SHADOW_MARK" 0x090 2 8 [fRo 63 0 0],
  cnt "SAG_HB_TX_CNT" 0x100, cnt "SAG_HB_RX_CNT" 0x108, cnt "SAG_HB_MISS_CNT" 0x110, cnt "SAG_STALE_CNT" 0x118,
  cnt "SAG_FOREIGN_CNT" 0x120, cnt "SAG_LINK_FOREIGN_CNT" 0x128, cnt "SAG_SLIP_BLOCK_CNT" 0x130,
  cnt "SAG_SLIP_APPLY_CNT" 0x138, cnt "SAG_SLIP_DISCARD_CNT" 0x140, cnt "SAG_LATE_CNT" 0x148,
  cnt "SAG_APPLY_FAIL_CNT" 0x150, cnt "SAG_TAKEOVER_CNT" 0x158, cnt "SAG_LEASE_LOST_CNT" 0x160,
  cnt "SAG_DENY_CNT" 0x168, cnt "SAG_WIT_TIMEOUT_CNT" 0x170, cnt "SAG_LANE_SHED_CNT" 0x178, cnt "SAG_DUAL_CNT" 0x180]

/-- HLT page (R421). -/
def hltRegs : List Reg := [
  r32 "HLT_CTL" 0x040 [fRws 12 8 0x1F, fRws 3 3 1, fRws 2 2 1, fRws 1 1 1, fRws 0 0 1],
  r32 "HLT_WIN_CTL" 0x044 [fRws 31 16 0, fRws 15 0 16],
  r32 "HLT_WIN_CMD" 0x048 [fWos 1 1, fWos 0 0],
  r32 "HLT_STAT" 0x04C [fW1c 4 4, fRo 3 3 0, fRo 2 2 0, fRo 1 1 1, fRo 0 0 0],
  r32 "HLT_BUS_LOC" 0x050 [fW1c 31 31, fRo 24 24 0, fRo 19 16 0, fRo 4 0 0],
  r64 "HLT_CONE" 0x058 [fRo 63 0 0], r64 "HLT_CHIP_CONE" 0x060 [fRo 63 0 0],
  cnt "HLT_CORR_CNT" 0x100, cnt "HLT_UNCORR_CNT" 0x108, cnt "HLT_BUS_UNCORR_CNT" 0x110,
  cnt "HLT_SCRUB_PASS_CNT" 0x118, cnt "HLT_REPAIR_CNT" 0x120, cnt "HLT_REPAIR_FAIL_CNT" 0x128,
  cnt "HLT_ENG_TEST_CNT" 0x130, cnt "HLT_ENG_FAIL_CNT" 0x138, cnt "HLT_ENG_ABANDON_CNT" 0x140,
  cnt "HLT_LOOP_CNT" 0x148, cnt "HLT_LOOP_FAIL_CNT" 0x150, cnt "HLT_LATE_CNT" 0x158]

/-- LOG page (R422). LOG_HEAD is the log's ENTRY count, computed when read. -/
def logRegs : List Reg := [
  r32 "LOG_CTL" 0x040 [fRw 0 0 0],
  r32 "LOG_HEAD" 0x044 [fRo 31 0 0],
  r64 "LOG_MARK" 0x048 [fRw 63 0 0],
  r32 "LOG_MARK_CMD" 0x050 [fWos 0 0],
  cnt "LOG_OVERWRITE_CNT" 0x080, cnt "LOG_DROP_CNT" 0x088, cnt "LOG_MERGE_CNT" 0x090]

/-- SWP page (R436). -/
def swpRegs : List Reg := [
  r32 "SWP_CTL" 0x040 [fRws 31 16 0, fRws 13 8 0, fRws 0 0 0],
  r32 "SWP_CMD" 0x044 [fWos 1 1, fWos 0 0],
  r64 "SWP_DST_BASE" 0x048 [fRws 63 12 0],
  r32 "SWP_DST_SIZE" 0x050 [fRws 19 0 0],
  r32 "SWP_STAT" 0x054 [fRo 8 8 0, fRo 7 4 0, fRo 1 0 0],
  r32 "SWP_BAD_DESC" 0x058 [fRo 7 0 0],
  r32 "SWP_PASS_CHUNKS" 0x05C [fRo 31 0 0],
  r64 "SWP_PASS" 0x060 [fRo 63 0 0], r64 "SWP_NEXT_CHUNK" 0x068 [fRo 63 0 0],
  r64 "SWP_LAST_DURATION" 0x070 [fRo 63 0 0],
  cnt "SWP_CHUNK_CNT" 0x100, cnt "SWP_LATE_CNT" 0x108, cnt "SWP_PASS_CNT" 0x110, cnt "SWP_UNCORR_CNT" 0x118,
  cnt "SWP_FAIL_CNT" 0x120]

/-- The registers of a page after its header. -/
def Page.ownRegs : Page → List Reg
  | .cap => capRegs
  | .tim => timRegs
  | .icu => icuRegs
  | .pil => pilRegs
  | .sag => sagRegs
  | .func => funcRegs
  | .sel => selRegs
  | .cx _ t _ =>
    match t with
    | .cpx => cpxRegs | .slc => slcRegs | .pgr => pgrRegs | .prt => prtRegs | .lne => lneRegs
    | .stp => stpRegs | .prs => prsRegs | .bsq => bsqRegs | .glz => glzRegs | .ses => sesRegs
    | .mtr => mtrRegs | .sch => schRegs | .whl => whlRegs | .dor => dorRegs | .jrn => jrnRegs
    | .dma => dmaRegs | .chk => chkRegs | .hlt => hltRegs | .log => logRegs | .swp => swpRegs
    | .tel => telRegs

/-- Every register of a page, header first. -/
def Page.regs (p : Page) : List Reg := hdrRegs ++ Page.ownRegs p

end Sys2Proof.Machine
end

