-- ==== Sys2Proof/Machine/Pages.lean ====
section
/-!
DEFINITION. Where pages lie, which pages a part has, and which register an offset of a page belongs to.
-/
namespace Sys2Proof.Machine

/-- Page type codes of R62. -/
def typeCode : CxType → Nat
  | .cpx => 0x01 | .slc => 0x02 | .pgr => 0x03 | .prt => 0x04 | .lne => 0x05 | .stp => 0x07 | .prs => 0x08
  | .bsq => 0x09 | .glz => 0x0A | .ses => 0x0B | .mtr => 0x0C | .sch => 0x0D | .whl => 0x0E | .dor => 0x0F
  | .jrn => 0x10 | .dma => 0x12 | .chk => 0x15 | .hlt => 0x17 | .log => 0x18 | .swp => 0x19 | .tel => 0x1A

/-- Type offsets of R62. -/
def typeOffset : CxType → Nat
  | .cpx => 0x000000 | .slc => 0x010000 | .pgr => 0x080000 | .prt => 0x300000 | .lne => 0x200000
  | .stp => 0x400000 | .prs => 0x020000 | .bsq => 0x0A0000 | .glz => 0x030000 | .ses => 0x050000
  | .mtr => 0x051000 | .sch => 0x500000 | .whl => 0x052000 | .dor => 0x053000 | .jrn => 0x054000
  | .dma => 0x600000 | .chk => 0x040000 | .hlt => 0x055000 | .log => 0x056000 | .swp => 0x057000
  | .tel => 0x058000

/-- Instances per complex of R62. -/
def typeCount : CxType → Nat
  | .cpx => 1 | .slc => 4 | .pgr => 32 | .prt => 256 | .lne => 256 | .stp => 256 | .prs => 4 | .bsq => 32
  | .glz => 4 | .ses => 1 | .mtr => 1 | .sch => 256 | .whl => 1 | .dor => 1 | .jrn => 1 | .dma => 256 | .chk => 4
  | .hlt => 1 | .log => 1 | .swp => 1 | .tel => 1

/-- The page types in the order of R62. -/
def allTypes : List CxType :=
  [.cpx, .slc, .pgr, .prt, .lne, .stp, .prs, .bsq, .glz, .ses, .mtr, .sch, .whl, .dor, .jrn, .dma, .chk, .hlt,
   .log, .swp, .tel]

/-- Base address of a complex's pages (R62). -/
def cxBase (c : Cx) : Nat := 0x1000000 * (c.val + 1)

/-- Window offset of a page (R61, R62). -/
def Page.base : Page → Nat
  | .cap => 0x00000
  | .tim => 0x10000
  | .icu => 0x20000
  | .pil => 0x30000
  | .sag => 0x40000
  | .func => 0x50000
  | .sel => 0x60000
  | .cx c t i => cxBase c + typeOffset t + i.val * 0x1000

/-- Page type code of a page (R62). -/
def Page.code : Page → Nat
  | .cap => 0x01
  | .tim => 0x06
  | .icu => 0x13
  | .pil => 0x14
  | .sag => 0x16
  | .func => 0x12
  | .sel => 0x11
  | .cx _ t _ => typeCode t

/-- HDR_ID bits 15:0 of a page (R61, R65). -/
def Page.instNum : Page → Nat
  | .cx c _ i => c.val * 0x4000 + i.val
  | _ => 0x8000

/-- HDR_ID (R65): type, version 0x01, instance. -/
def Page.hdrId (p : Page) : Nat := Page.code p * 0x1000000 + 0x010000 + Page.instNum p

/-- Is the page shared? -/
def Page.isShared : Page → Bool
  | .cx .. => false
  | _ => true

/-- The complex whose log and counters a page's events go to: complex 0 for a shared page (R32). -/
def Page.home : Page → Cx
  | .cx c _ _ => c
  | _ => 0

/-- CPX_CAP of a part (R1). -/
def capWord : Part → Nat
  | .t1024 => 0x02010C3C
  | .t1024e => 0x02020C10
  | .t512 => 0x0203083C

/-- Bit 2 SAGGAR, bit 3 SEAL, bit 5 DOOR, bit 10 CPX1 and bit 4 GLAZE of CPX_CAP. -/
def hasSaggar (p : Part) : Bool := bit (capWord p) 2
def hasSeal (p : Part) : Bool := bit (capWord p) 3
def hasGlaze (p : Part) : Bool := bit (capWord p) 4
def hasDoor (p : Part) : Bool := bit (capWord p) 5
def hasCx (p : Part) (c : Cx) : Bool := c.val = 0 || bit (capWord p) 10

/-- The complexes a part has. -/
def complexes (p : Part) : List Cx := if hasCx p 1 then [0, 1] else [0]

/-- Does the part have the page (R1, R3, R61, R62)? -/
def Page.present (part : Part) : Page → Bool
  | .sag => hasSaggar part
  | .sel => hasSeal part
  | .cx c t i => hasCx part c && decide (i.val < typeCount t) &&
      (match t with | .dor => hasDoor part | .glz => hasGlaze part | _ => true)
  | _ => true

/-- HDR_CAP of a page on a part (R4; each chapter's register section). -/
def Page.hdrCap (part : Part) : Page → Nat
  | .tim => if hasSaggar part then 7 else 3
  | .sag => 1
  | .cx _ .lne _ => 0x1F
  | .cx _ .stp _ => 3
  | .cx _ .ses _ => b2n (hasSaggar part)
  | .cx _ .mtr _ => b2n (hasSaggar part)
  | .cx _ .sch _ => 1
  | .cx _ .jrn _ => if hasSeal part then 3 else 0
  | .cx _ .chk _ => 7
  | _ => 0

/-- The causes of a page's HDR_IRQ_STAT: 0 to 3 on every page (R65) and the page's own (R101 to R103, R126, R154, R175,
R200 to R202, R217, R239, R254, R284 to R287, R309, R310, R341, R342, R360, R361, R370, R400, R421, R422, R436, R444). The
other bits are reserved, and NO_KEY of a journal without SEAL is absent (R4). Assumption 55 (DEDUCED, unsafe). -/
def Page.causes (part : Part) : Page → Nat
  | .cap => 0xF
  | .tim => 0x7FF0F
  | .icu => 0xF
  | .pil => 0x10F
  | .sag => 0xFF0F
  | .func => 0x10F
  | .sel => 0x30F
  | .cx _ t _ =>
    match t with
    | .cpx | .stp | .slc | .glz | .log => 0x30F
    | .lne | .pgr | .prs | .dor | .chk | .swp => 0x70F
    | .jrn => if hasSeal part then 0x70F else 0x30F
    | .mtr | .sch | .whl => 0x10F
    | .bsq | .tel => 0xF
    | .prt => 0x71F0F
    | .ses => 0xF0F
    | .dma => 0xFFFF0F
    | .hlt => 0x3F0F

/-- Does the register, or one of its repetitions, cover page offset `o`? -/
def Reg.covers (r : Reg) (o : Nat) : Bool :=
  decide (r.off ≤ o) && decide ((o - r.off) / r.stride < r.count) && decide ((o - r.off) % r.stride < r.bytes)

/-- Offset of the repetition of `r` that covers `o`. -/
def Reg.start (r : Reg) (o : Nat) : Nat := r.off + (o - r.off) / r.stride * r.stride

/-- The reset word of a register: its fields' reset values in place. -/
def Reg.reset (r : Reg) : Nat := (r.flds.map (fun f => f.rst * 2 ^ f.lo)).sum

/-- The bits of a register that carry access code `a`. -/
def Reg.mask (r : Reg) (a : Acc) : Word :=
  (r.flds.filter (fun f => decide (f.acc = a))).foldl (fun m f => m ||| maskW f.hi f.lo) 0

/-- The register of a page that covers an offset, if any. -/
def Page.regAt (p : Page) (o : Nat) : Option Reg := (Page.regs p).find? (fun r => Reg.covers r o)

/-- The reset word at a register's offset, 0 for a reserved offset. Assumption 8 (DESIGN CHOICE, unsafe). -/
def Page.resetAt (p : Page) (o : Nat) : Word :=
  match Page.regAt p o with
  | some r => BitVec.ofNat 64 (Reg.reset r)
  | none => 0

/-- Where an access lands (R60 to R64, R76). -/
inductive Place where
  /-- Register space of a page, at a page offset below 0x800. -/
  | reg (p : Page) (o : Nat)
  /-- Live view of a page: the register offset it shows (R64). -/
  | live (p : Page) (o : Nat)
  /-- A window page of a complex, at a window offset (R76). -/
  | window (c : Cx) (w : Fin 64) (o : Nat)
  /-- No page (R63). -/
  | none
deriving DecidableEq, Repr

/-- The page type of a complex whose instances cover offset `o` of the complex's range, and the instance. -/
def typeOf (o : Nat) : Option (CxType × Nat) :=
  (allTypes.find? (fun t => decide (typeOffset t ≤ o) && decide ((o - typeOffset t) / 0x1000 < typeCount t))).map
    (fun t => (t, (o - typeOffset t) / 0x1000))

/-- The page at a window offset, if the part has one there. -/
def pageAt (part : Part) (a : Nat) : Option Page :=
  let p : Option Page :=
    if a < 0x1000000 then
      match a / 0x1000 with
      | 0x00 => some .cap
      | 0x10 => some .tim
      | 0x20 => some .icu
      | 0x30 => some .pil
      | 0x40 => some .sag
      | 0x50 => some .func
      | 0x60 => some .sel
      | _ => none
    else if a < 0x3000000 then
      let c : Cx := if a < 0x2000000 then 0 else 1
      (typeOf (a % 0x1000000)).map (fun ti => .cx c ti.1 (Fin.ofNat 256 ti.2))
    else none
  p.bind (fun q => if Page.present part q then some q else none)

/-- Decode a window offset (R60 to R64, R76). -/
def placeOf (part : Part) (a : Nat) : Place :=
  if 0x3000000 ≤ a ∧ a < 0x4000000 then
    let c : Cx := if a < 0x3800000 then 0 else 1
    let o := (a - 0x3000000) % 0x800000
    if hasCx part c && decide (o < 64 * 0x1000) then .window c (Fin.ofNat 64 (o / 0x1000)) (o % 0x1000) else .none
  else
    match pageAt part a with
    | some p => if a % 0x1000 < 0x800 then .reg p (a % 0x1000) else .live p (a % 0x1000 - 0x800)
    | none => .none

/-! Numbering (R6, R7). -/

/-- The PRT page of a port, and the other pages at the same lane position. -/
def prtPage (n : Fin 512) : Page := .cx (Fin.ofNat 2 (n.val / 256)) .prt (Fin.ofNat 256 (n.val % 256))
def stpPage (n : Fin 512) : Page := .cx (Fin.ofNat 2 (n.val / 256)) .stp (Fin.ofNat 256 (n.val % 256))
def lnePage (n : Fin 512) : Page := .cx (Fin.ofNat 2 (n.val / 256)) .lne (Fin.ofNat 256 (n.val % 256))
def schPage (n : Fin 512) : Page := .cx (Fin.ofNat 2 (n.val / 256)) .sch (Fin.ofNat 256 (n.val % 256))
/-- The PGR and BSQ pages of a port group of the chip. -/
def pgrPage (g : Fin 64) : Page := .cx (Fin.ofNat 2 (g.val / 32)) .pgr (Fin.ofNat 256 (g.val % 32))
def bsqPage (g : Fin 64) : Page := .cx (Fin.ofNat 2 (g.val / 32)) .bsq (Fin.ofNat 256 (g.val % 32))
/-- The SLC, PRS and GLZ pages of a slice of the chip. -/
def slcPage (s : Fin 8) : Page := .cx (Fin.ofNat 2 (s.val / 4)) .slc (Fin.ofNat 256 (s.val % 4))
def prsPage (s : Fin 8) : Page := .cx (Fin.ofNat 2 (s.val / 4)) .prs (Fin.ofNat 256 (s.val % 4))
def glzPage (s : Fin 8) : Page := .cx (Fin.ofNat 2 (s.val / 4)) .glz (Fin.ofNat 256 (s.val % 4))
/-- The one page of a type in a complex. -/
def onePage (c : Cx) (t : CxType) : Page := .cx c t 0
/-- PG, slice and complex of a lane (R7). -/
def pgOf (n : Fin 512) : Fin 64 := Fin.ofNat 64 (n.val / 8)
def sliceOf (n : Fin 512) : Fin 8 := Fin.ofNat 8 (n.val / 64)
def cxOf (n : Fin 512) : Cx := Fin.ofNat 2 (n.val / 256)
/-- Lane number of a position in a complex. -/
def laneOf (c : Cx) (pos : Nat) : Fin 512 := Fin.ofNat 512 (c.val * 256 + pos % 256)

end Sys2Proof.Machine
end

