-- ==== Sys2Proof/Machine/Ops.lean ====
section
/-!
DEFINITION. The named operations over registers, tables, headers and logs that every meaning is made of.
-/
namespace Sys2Proof.Machine

/-! Chip time. -/

/-- The short stamp of chip time: seconds 15:0, nanoseconds, fraction (R129). -/
def shortStamp (k : Clk) : Nat := k.sec % 2 ^ 16 * 2 ^ 48 + k.ns * 2 ^ 16 + k.frac / 2 ^ 32

/-- Nanoseconds and fraction of chip time in the NSF layout: ns in 47:16, fraction in 15:0 (R129). -/
def nsf (k : Clk) : Nat := k.ns * 2 ^ 16 + k.frac / 2 ^ 32

/-- Clocks since chip reset (R23): the scale of the model's deadlines. -/
def Clk.abs (k : Clk) : Nat := k.turn * 1600 + k.clock

/-- Chip time `n` clocks later under increment `incr`, carrying from fraction to ns to seconds (R128). -/
def Clk.plus (k : Clk) (n : Nat) : Clk :=
  let f := k.frac + n * k.incr
  let ns := k.ns + f / 2 ^ 48
  { k with frac := f % 2 ^ 48, ns := ns % 1000000000, sec := (k.sec + ns / 1000000000) % 2 ^ 48 }

/-! Outcomes. -/

/-- What a command answers. -/
abbrev Out : Type := Host.Outcome State Fault Refusal

/-- The chip with the outputs of the command before this one gone. -/
def Chip.clear (c : Chip) : Chip := { c with out := [] }

/-- The command's effect is one on the chip alone: time and the queue stand. An unpowered chip takes none. -/
def State.act (s : State) (f : Clk → Chip → Chip) : Out :=
  .next { s with chip := if s.chip.off then s.chip.clear else f s.clk s.chip.clear }

/-- The command's effect is one on time and the chip: the queue stands. -/
def State.actClk (s : State) (f : Clk → Chip → Clk × Chip) : Out :=
  if s.chip.off then .next { s with chip := s.chip.clear }
  else .next { s with clk := (f s.clk s.chip.clear).1, chip := (f s.clk s.chip.clear).2 }

/-- `c` with one more output. -/
def Chip.emit (c : Chip) (o : Output) : Chip := { c with out := c.out ++ [o] }

/-! The host memory port (R47 to R49). -/

/-- A transfer of `n` bytes at `addr` in requests of at most `most` bytes, none across a 4 KiB boundary: address and length
of each (R48). The first argument bounds their number. -/
def cutReqs (most : Nat) : Nat → Nat → Nat → List (Nat × Nat)
  | 0, _, _ => []
  | m + 1, addr, n =>
    if n = 0 then []
    else
      let l := min n (min (max 1 most) (4096 - addr % 4096))
      (addr, l) :: cutReqs most m (addr + l) (n - l)

/-- Host memory writes for a function, of at most 256 bytes each, none with Relaxed Ordering (R48, R49).
Assumption 125 (DESIGN CHOICE, unsafe). -/
def hostWrite (func addr : Nat) (bs : List Byte) (c : Chip) : Chip :=
  (cutReqs (min 256 c.maxPay) bs.length addr bs.length).foldl (fun c q =>
    Chip.emit c (.hostWrite func q.1 ((bs.drop (q.1 - addr)).take q.2))) c

/-- Host memory read requests for a function, of at most 512 bytes each (R48). Each is answered in the command that carries
its data, so none is outstanding between commands. Assumption 140 (DESIGN CHOICE, safe). -/
def hostRead (func addr len : Nat) (c : Chip) : Chip :=
  (cutReqs (min 512 c.maxRead) len addr len).foldl (fun c q => Chip.emit c (.hostRead func q.1 q.2)) c

/-- `f` applied only when `b` holds. Assumption 4 (DESIGN CHOICE, unsafe). -/
def Chip.onlyIf (c : Chip) (b : Bool) (f : Chip → Chip) : Chip := if b then f c else c

/-! Registers. -/

/-- The stored value of the register at offset `o`: its own (staged) copy. -/
def Chip.get (c : Chip) (p : Page) (o : Nat) : Word := kvGet (Page.resetAt p o) c.regs (Page.base p + o)

/-- The register at offset `o` set to `v`. -/
def Chip.put (c : Chip) (p : Page) (o : Nat) (v : Word) : Chip := { c with regs := kvPut c.regs (Page.base p + o) v }

/-- The live copy of the RWS fields at offset `o` (R64, R70). -/
def Chip.getLive (c : Chip) (p : Page) (o : Nat) : Word :=
  kvGet (Page.resetAt p o) c.regs (Page.base p + 0x800 + o)

/-- The live copy at offset `o` set to `v`. -/
def Chip.putLive (c : Chip) (p : Page) (o : Nat) (v : Word) : Chip :=
  { c with regs := kvPut c.regs (Page.base p + 0x800 + o) v }

/-- Bits hi:lo of the register at offset `o`. -/
def Chip.fld (c : Chip) (p : Page) (o hi lo : Nat) : Nat := bits (Chip.get c p o).toNat hi lo

/-- Bits hi:lo of the live copy at offset `o`: the configuration frames use (R33). -/
def Chip.live (c : Chip) (p : Page) (o hi lo : Nat) : Nat := bits (Chip.getLive c p o).toNat hi lo

/-- Bit `i` of the register at offset `o`. -/
def Chip.flag (c : Chip) (p : Page) (o i : Nat) : Bool := (Chip.get c p o).toNat.testBit i

/-- Bit `i` of the live copy at offset `o`. -/
def Chip.liveFlag (c : Chip) (p : Page) (o i : Nat) : Bool := (Chip.getLive c p o).toNat.testBit i

/-- Bits hi:lo of the register at offset `o` set to the low bits of `x`. -/
def Chip.setFld (c : Chip) (p : Page) (o hi lo x : Nat) : Chip :=
  Chip.put c p o (merge (maskW hi lo) (Chip.get c p o) (BitVec.ofNat 64 (x * 2 ^ lo)))

/-- A 64-bit counter advanced by `n`, wrapping at 2^64. -/
def Chip.bumpBy (c : Chip) (p : Page) (o n : Nat) : Chip :=
  Chip.put c p o (Chip.get c p o + BitVec.ofNat 64 n)

/-- A 64-bit counter advanced by one. -/
def Chip.bump (c : Chip) (p : Page) (o : Nat) : Chip := Chip.bumpBy c p o 1

/-- Live ENABLE of a page; the chip capability page is always enabled (R61). -/
def Chip.enabled (c : Chip) (p : Page) : Bool := decide (p = .cap) || Chip.liveFlag c p 0x008 0

/-! The header: causes, LATE, FAULT and the error capture. -/

/-- Cause `b` set in HDR_IRQ_STAT. -/
def Chip.cause (c : Chip) (p : Page) (b : Nat) : Chip := Chip.setFld c p 0x010 b b 1

/-- LATE set in HDR_STAT; its 0-to-1 change latches the LATE cause (R69). -/
def Chip.setLate (c : Chip) (p : Page) : Chip :=
  if Chip.flag c p 0x00C 3 then c else Chip.cause (Chip.setFld c p 0x00C 3 3 1) p 1

/-- FAULT set in HDR_STAT; its 0-to-1 change latches the FAULT cause (R69). -/
def Chip.setFault (c : Chip) (p : Page) : Chip :=
  if Chip.flag c p 0x00C 2 then c else Chip.cause (Chip.setFld c p 0x00C 2 2 1) p 0

/-- An error captured in HDR_ERR_INFO and HDR_ERR_ADDR while VALID is clear, else MORE (R65, R75). `addr` is the
whole HDR_ERR_ADDR word. -/
def Chip.capture (c : Chip) (p : Page) (source kind addr syndrome : Nat) : Chip :=
  if Chip.flag c p 0x020 30 then Chip.setFld c p 0x020 31 31 1
  else
    let c := Chip.put c p 0x020 (BitVec.ofNat 64 (2 ^ 30 + source * 2 ^ 20 + kind * 2 ^ 16 + syndrome % 2 ^ 16))
    let c := Chip.put c p 0x024 (BitVec.ofNat 64 addr)
    Chip.cause c p 2

/-- A decode error at a window offset (R63). -/
def Chip.decodeError (c : Chip) (a : Nat) : Chip := Chip.bump (Chip.capture c .cap 0 3 (a % 2 ^ 26) 0) .cap 0x048

/-- Is the page in soft reset, in its complex's, or still initialising (R67, R448)? HDR_STAT BUSY. -/
def Chip.busy (c : Chip) (k : Clk) (p : Page) : Bool :=
  c.resetting.any (fun r => decide (r.1 = p)) ||
  (match p with
   | .cap => false
   | .cx x _ _ => decide (x ∈ c.initBusy) || c.resetting.any (fun r => decide (r.1 = onePage x .cpx))
   | _ => decide (k.turn < 16))

/-- LOCK of a page (R68). -/
def Chip.locked (c : Chip) (p : Page) : Bool := Chip.flag c p 0x008 3

/-- The unit takes new work: it is enabled and not asked to quiesce (R66). -/
def Chip.accepting (c : Chip) (p : Page) : Bool := Chip.enabled c p && !Chip.flag c p 0x008 1

/-! Tables (R78): byte `b` of row `r` of table `t` of page `p` has its own key in `mem`. -/

/-- Key of the first byte of a row. -/
def rowKey (p : Page) (t r : Nat) : Nat := ((Page.base p / 0x1000 * 256 + t) * 0x40000 + r) * 512

/-- `n` bytes of a row from byte `o`. -/
def Chip.row (c : Chip) (p : Page) (t r o n : Nat) : List Byte := memRead c.mem (rowKey p t r + o) n

/-- Little-endian value of `n` bytes of a row from byte `o`. -/
def Chip.rowNat (c : Chip) (p : Page) (t r o n : Nat) : Nat := leNat (Chip.row c p t r o n)

/-- A row's bytes from byte `o` replaced. -/
def Chip.setRow (c : Chip) (p : Page) (t r o : Nat) (bs : List Byte) : Chip :=
  { c with mem := memWrite c.mem (rowKey p t r + o) bs }

/-- `n` bytes of a row from byte `o` set to a little-endian value. -/
def Chip.setRowNat (c : Chip) (p : Page) (t r o n v : Nat) : Chip := Chip.setRow c p t r o (leBytes n v)

/-- A little-endian counter of `n` bytes in a row advanced by `a`, wrapping. -/
def Chip.bumpRow (c : Chip) (p : Page) (t r o n a : Nat) : Chip :=
  Chip.setRowNat c p t r o n (Chip.rowNat c p t r o n + a)

/-- The rows of a table that list a byte, rising, without repeats. -/
def Chip.rowsOf (c : Chip) (p : Page) (t : Nat) : List Nat :=
  let lo := rowKey p t 0
  let hi := rowKey p t 0x40000
  ((c.mem.filter (fun e => decide (lo ≤ e.1) && decide (e.1 < hi))).map (fun e => (e.1 - lo) / 512)).eraseDups

/-- The tables' bytes of key range lo ≤ key < hi dropped: those rows read zero. -/
def Chip.clearKeys (c : Chip) (lo hi : Nat) : Chip :=
  { c with mem := c.mem.filter (fun e => !(decide (lo ≤ e.1) && decide (e.1 < hi))) }

/-- A whole table cleared. -/
def Chip.clearTable (c : Chip) (p : Page) (t : Nat) : Chip := Chip.clearKeys c (rowKey p t 0) (rowKey p t 0x40000)

/-- A complex is present and powered (R355). -/
def awake (c : Chip) (x : Cx) : Bool := hasCx c.part x && !decide (x ∈ c.standby)

/-! The thermal throttle's state (R438, R441). -/

def cpxPage (x : Cx) : Page := onePage x .cpx
def Chip.thermOf (c : Chip) (x : Cx) : ThermSt := kvGet {} c.therm x.val
def setTherm (x : Cx) (t : ThermSt) (c : Chip) : Chip := { c with therm := kvPut c.therm x.val t }

/-! The crazing log (R418, R419). -/

/-- The log of a complex. -/
def Chip.logSt (c : Chip) (x : Cx) : LogSt := kvGet {} c.logs x.val

/-- Bytes of a log entry (R419). -/
def logBytes (k : Clk) (entry code ptype inst detail : Nat) : List Byte :=
  leBytes 4 entry ++ leBytes 8 (shortStamp k) ++ leBytes 4 k.turn ++ leBytes 2 code ++ leBytes 1 ptype ++ [0] ++
  leBytes 2 inst ++ leBytes 2 0 ++ leBytes 8 detail

/-- An entry written to the crazing log of complex `x`, merged into the last one, or dropped (R418). -/
def Chip.log (c : Chip) (k : Clk) (x : Cx) (code : Nat) (p : Page) (detail : Nat) : Chip :=
  let st := Chip.logSt c x
  let lp := onePage x .log
  let ptype := Page.code p
  let inst := Page.instNum p
  let frozen := Chip.flag c lp 0x040 0
  if st.last = some (k.turn, code, ptype, inst, detail) then
    let r := (st.entry + 4096 - 1) % 4096
    let n := Chip.rowNat c lp 0 r 22 2
    Chip.bump (Chip.setRowNat c lp 0 r 22 2 (satAdd 0xFFFF n 1)) lp 0x090
  else if frozen && decide (st.entry ≥ st.frozen + 4096) then
    Chip.cause (Chip.bump c lp 0x088) lp 9
  else
    let c := Chip.onlyIf c (!frozen && decide (st.entry ≥ 4096)) (fun c => Chip.bump c lp 0x080)
    let c := Chip.setRow c lp 0 (st.entry % 4096) 0 (logBytes k st.entry code ptype inst detail)
    let c := { c with logs := kvPut c.logs x.val { st with entry := st.entry + 1, last := some (k.turn, code, ptype, inst, detail) } }
    Chip.cause c lp 8

/-- PG of a port within its complex. -/
def pgKey (n : Fin 512) : Nat := n.val / 8 % 32

/-! The buses of the PGs (R21, R22, R38). -/

/-- A bus as it stands: nothing to carry where State lists none. -/
def busOf (c : Chip) (key : Nat) : BusSt := kvGet {} c.bus key

/-- Line traffic brings `n` segments to a bus: it has first claim. -/
def busLine (key n : Nat) (c : Chip) : Chip :=
  let b := busOf c key
  if n = 0 then c else { c with bus := kvPut c.bus key { b with line := b.line + n } }

/-- A segment of this clock is free for recirculation, injection or a loopback frame (R22). -/
def busFree (c : Chip) (key : Nat) : Bool :=
  let b := busOf c key
  decide (b.line + (b.owed.map (·.2)).sum < 4)

/-- `n` segments that wait for what line traffic leaves free. -/
def busExtra (key : Nat) (frame : Option Nat) (n : Nat) (c : Chip) : Chip :=
  let b := busOf c key
  { c with bus := kvPut c.bus key { b with owed := b.owed ++ [(frame, n)] } }

/-- What is still owed once `n` segments have been carried. -/
def busDrain : Nat → List (Option Nat × Nat) → List (Option Nat × Nat)
  | _, [] => []
  | n, (f, m) :: fs => if m ≤ n then busDrain (n - m) fs else (f, m - n) :: fs

/-- A bus after a clock: four segments, line traffic first. -/
def BusSt.next (b : BusSt) : BusSt := ⟨b.line - 4, busDrain (4 - b.line) b.owed⟩

/-- The re-entering frames whose segments line traffic makes wait in a clock (R212). -/
def BusSt.late (b : BusSt) : List Nat :=
  let free := busDrain 4 b.owed
  (busDrain (4 - b.line) b.owed).filterMap (fun e => if free.contains e then none else e.1)

end Sys2Proof.Machine
end

