-- ==== Sys2Proof/Machine/Modes.lean ====
section
/-!
DEFINITION. The fifteen port modes (R83) and what the mode fixes: rates, lanes, latencies and timer scales.
-/
namespace Sys2Proof.Machine

/-- A port's own state, by chip-wide port. -/
def Chip.port (c : Chip) (n : Fin 512) : PortSt := kvGet {} c.ports n.val
def setPort (n : Fin 512) (p : PortSt) (c : Chip) : Chip := { c with ports := kvPut c.ports n.val p }

/-- Port speed in Gb/s (R83). -/
def modeSpeed (m : Nat) : Nat :=
  match m with
  | 1 => 10 | 2 => 25 | 3 => 50 | 4 => 100 | 5 => 100 | 6 => 100 | 7 => 200 | 8 => 200 | 9 => 200
  | 10 => 400 | 11 => 400 | 12 => 400 | 13 => 800 | 14 => 800 | 15 => 1600 | _ => 0

/-- Lane count (R83). -/
def modeLanes (m : Nat) : Nat :=
  match m with
  | 1 => 1 | 2 => 1 | 3 => 1 | 4 => 4 | 5 => 2 | 6 => 1 | 7 => 4 | 8 => 2 | 9 => 1
  | 10 => 8 | 11 => 4 | 12 => 2 | 13 => 8 | 14 => 4 | 15 => 8 | _ => 0

/-- Line rate per lane in units of 10 kb/s (R83). -/
def modeLine (m : Nat) : Nat :=
  match m with
  | 1 => 1031250 | 2 => 2578125 | 4 => 2578125
  | 3 => 5312500 | 5 => 5312500 | 7 => 5312500 | 10 => 5312500
  | 6 => 10625000 | 8 => 10625000 | 11 => 10625000 | 13 => 10625000
  | 9 => 21250000 | 12 => 21250000 | 14 => 21250000 | 15 => 21250000
  | _ => 0

/-- Line rate code of a mode, the bit of the LNE page's HDR_CAP (R101). -/
def modeRateCode (m : Nat) : Nat :=
  match modeLine m with
  | 1031250 => 0 | 2578125 => 1 | 5312500 => 2 | 10625000 => 3 | _ => 4

/-- Bits per unit interval: 1 for NRZ, 2 for PAM4 (R83, R159). -/
def modeBits (m : Nat) : Nat := if m = 1 ∨ m = 2 ∨ m = 4 then 1 else 2

/-- Symbol rate per lane in units of 10 kBd: one UI is 100000 over it, in ns (R159). -/
def modeBaud (m : Nat) : Nat := modeLine m / modeBits m

/-- Receive latency, stages 1 to 4, in clocks (R124). -/
def rxLatency (m : Nat) (fecOff : Bool) : Nat :=
  match m with
  | 1 => 96 | 2 => if fecOff then 48 else 224 | 3 => 204 | 4 => if fecOff then 26 else 134 | 5 => 166 | 6 => 134
  | 7 => 134 | 8 => 120 | 9 => 98 | 10 => 116 | 11 => 112 | 12 => 96 | 13 => 106 | 14 => 92 | 15 => 88 | _ => 0

/-- Transmit latency, stages 3 to 7 with CUR 0, in clocks (R125). -/
def txLatency (m : Nat) (fecOff : Bool) : Nat :=
  match m with
  | 1 => 26 | 2 => if fecOff then 26 else 72 | 3 => 64 | 4 => if fecOff then 28 else 54 | 5 => 56 | 6 => 50
  | 7 => 50 | 8 => 48 | 9 => 44 | 10 => 46 | 11 => 46 | 12 => 44 | 13 => 44 | 14 => 42 | 15 => 42 | _ => 0

/-- Hold per threshold step, in clocks: 512 bytes at the port speed (R113). -/
def holdStep (m : Nat) : Nat := 6400 / modeSpeed m

/-- The transmit lead at threshold `cur`: decision to reference plane (R113, R125). -/
def txLead (m : Nat) (fecOff : Bool) (cur : Nat) : Nat := 52 + txLatency m fecOff + (if cur < 32 then cur * holdStep m else 0)

/-- `q` pause quanta of 512 bit times in clocks, rounded up (R119). -/
def quantaClocks (m q : Nat) : Nat := ceilDiv (q * 800) (modeSpeed m)

/-- Is skew (in 1/64 UI) within 250 ns (R92)? -/
def skewOk (m u : Nat) : Bool := decide (u * 100000 ≤ 250 * 64 * modeBaud m)

/-- Is the mode's bound 0.75 ns (R166)? WIDE otherwise. -/
def modeNarrow (m : Nat) : Bool := decide (modeLine m ≥ 10625000)

/-- Is a breakout value valid (R85)? Field i holds the mode of the port whose lowest lane-in-group is i. -/
def breakoutValid (v : Nat) : Bool :=
  (List.range 8).all (fun i =>
    let m := bits v (4 * i + 3) (4 * i)
    let l := modeLanes m
    decide (m = 0) ||
      (decide (i % l = 0) && (List.range l).all (fun j => decide (j = 0) || decide (bits v (4 * (i + j) + 3) (4 * (i + j)) = 0))))

/-- Mode code of the live breakout at a lane-in-group, 0 where no port starts (R85). -/
def Chip.modeAt (c : Chip) (n : Fin 512) : Nat :=
  let v := (Chip.getLive c (pgrPage (pgOf n)) 0x040).toNat
  bits v (4 * (n.val % 8) + 3) (4 * (n.val % 8))

/-- The lanes of the port whose lowest lane is `n`. -/
def portLanes (m : Nat) (n : Fin 512) : List (Fin 512) := (List.range (modeLanes m)).map (fun i => Fin.ofNat 512 (n.val + i))

/-- STATE of PRT_LINK_STAT: 0 DISABLED, 1 AN, 2 TRAIN, 3 ALIGN, 4 UP, 5 BACKOFF, 6 DORMANT, 7 WAKING. -/
def Chip.linkState (c : Chip) (n : Fin 512) : Nat := Chip.fld c (prtPage n) 0x04C 3 0

/-- The port is UP (R89). -/
def Chip.isUp (c : Chip) (n : Fin 512) : Bool := decide (Chip.linkState c n = 4)

/-- FEC_OFF in force: modes 0x2 and 0x4 only (R102). -/
def Chip.fecOff (c : Chip) (n : Fin 512) : Bool :=
  let m := Chip.modeAt c n
  (decide (m = 2) || decide (m = 4)) && Chip.liveFlag c (prtPage n) 0x040 2

/-- LPBK in force: 3 acts as 0 (R102). -/
def Chip.lpbk (c : Chip) (n : Fin 512) : Nat :=
  let v := Chip.live c (prtPage n) 0x040 9 8
  if v = 3 then 0 else v

/-- CUR, the live start threshold (R113). -/
def Chip.cur (c : Chip) (n : Fin 512) : Nat := Chip.fld c (prtPage n) 0x108 21 16

end Sys2Proof.Machine
end

