-- ==== Sys2Proof/Machine/Tables.lean ====
section
/-!
DEFINITION. The tables of the page types (R78): rows, entry sizes, where an entry holds its valid bit, which tables
refuse writes; and the named pieces of a window command (R80 to R82).
-/
namespace Sys2Proof.Machine

/-- What WRITE and INVALIDATE do to a table. -/
inductive TMode where
  /-- An entry with a valid bit: bit 0 of this byte. INVALIDATE clears it (R81). -/
  | entry (byte : Nat)
  /-- No valid bit: INVALIDATE writes zeros (R150, R196, R253, R282). -/
  | plain
  /-- WRITE and INVALIDATE complete with BAD_TABLE (R150, R284 to R286, R418, R421). -/
  | readOnly
deriving DecidableEq, Repr

/-- A table: rows, bytes of an entry, mode. -/
structure TableInfo where
  rows  : Nat
  bytes : Nat
  mode  : TMode
deriving DecidableEq, Repr

/-- The table of a page, if it has one of that number on the part. -/
def tableOf (part : Part) (p : Page) (t : Nat) : Option TableInfo :=
  match p, t with
  | .cap, 0 => some ⟨16384, 32, .entry 16⟩
  | .cap, 1 => some ⟨16384, 32, .plain⟩
  | .tim, 0 => some ⟨4096, 16, .readOnly⟩
  | .tim, 1 => some ⟨4096, 16, .plain⟩
  | .sag, 2 => some ⟨16, 32, .entry 28⟩
  | .cx _ .pgr _, 0 => some ⟨8, 272, .entry 257⟩
  | .cx _ .prs _, 0 => some ⟨1024, 64, .entry 0⟩
  | .cx _ .prs _, 1 => some ⟨1024, 64, .entry 0⟩
  | .cx _ .bsq _, 0 => some ⟨2048, 96, .entry 80⟩
  | .cx _ .bsq _, 1 => some ⟨2048, 96, .entry 80⟩
  | .cx _ .bsq _, 2 => some ⟨2048, 16, .plain⟩
  | .cx _ .bsq _, 3 => some ⟨2048, 16, .plain⟩
  | .cx _ .glz _, 0 => some ⟨8192, 192, .entry 160⟩
  | .cx _ .glz _, 1 => some ⟨8192, 192, .entry 160⟩
  | .cx _ .glz _, 2 => some ⟨8192, 16, .plain⟩
  | .cx _ .glz _, 3 => some ⟨8192, 16, .plain⟩
  | .cx _ .slc _, 0 => if hasGlaze part then none else some ⟨8192, 192, .entry 160⟩
  | .cx _ .ses _, 0 => some ⟨131072, 128, .entry 104⟩
  | .cx _ .mtr _, 0 => some ⟨65536, 48, .entry 40⟩
  | .cx _ .mtr _, 1 => some ⟨65536, 48, .plain⟩
  | .cx _ .whl _, 0 => some ⟨65536, 32, .entry 16⟩
  | .cx _ .whl _, 1 => some ⟨65536, 64, .readOnly⟩
  | .cx _ .sch _, 0 => some ⟨9, 64, .readOnly⟩
  | .cx _ .dor _, 0 => some ⟨512, 64, .readOnly⟩
  | .cx _ .tel _, 0 => some ⟨65536, 32, .plain⟩
  | .cx _ .tel _, 1 => some ⟨2048, 256, .plain⟩
  | .cx _ .hlt _, 0 => some ⟨1024, 16, .readOnly⟩
  | .cx _ .log _, 0 => some ⟨4096, 32, .readOnly⟩
  | .cx _ .swp _, 0 => some ⟨256, 16, .plain⟩
  | _, _ => none

/-- The shared pages (R61). -/
def sharedPages : List Page := [.cap, .tim, .icu, .pil, .sag, .func, .sel]

/-- The page that a page type code, SHARED and an instance name, for a window or ring of a complex (R78, R79). -/
def ownerPage (part : Part) (x : Cx) (ptype inst : Nat) (shared : Bool) : Option Page :=
  let p : Option Page :=
    if shared then sharedPages.find? (fun p => decide (Page.code p = ptype))
    else match allTypes.find? (fun t => decide (typeCode t = ptype)) with
      | some t => if inst < typeCount t then some (.cx x t (Fin.ofNat 256 inst)) else none
      | none => none
  p.bind (fun q => if Page.present part q then some q else none)

/-- A row's entry is valid. -/
def entryValid (c : Chip) (p : Page) (t r byte : Nat) : Bool := bit (Chip.rowNat c p t r byte 1) 0

/-- The valid bit of a row written to 0 (R81). -/
def clearValid (p : Page) (t r byte : Nat) (c : Chip) : Chip :=
  Chip.setRowNat c p t r byte 1 (setBits (Chip.rowNat c p t r byte 1) 0 0 0)

/-- Every byte of a row written to 0. -/
def zeroRow (p : Page) (t r n : Nat) (c : Chip) : Chip := Chip.setRow c p t r 0 (List.replicate n 0)

end Sys2Proof.Machine
end

