-- ==== Sys2Proof/Machine/Sched.lean ====
section
/-!
DEFINITION. The scheduler's nodes, shapers, credit-based shapers and wheel, the notice store, and the choice of a
parent among its children (R255 to R272).
-/
namespace Sys2Proof.Machine

def whlPage (x : Cx) : Page := onePage x .whl

def Chip.schedOf (c : Chip) (x : Cx) : SchedSt := kvGet {} c.sched x.val
def setSched (x : Cx) (s : SchedSt) (c : Chip) : Chip := { c with sched := kvPut c.sched x.val s }

/-! Nodes (R255): a queue is numbered 65536 c + queue, a service node 2^18 + 8 port + class, a port node
2^19 + port, with chip-wide ports. -/

def svcNode (n : Fin 512) (cls : Nat) : Nat := 2 ^ 18 + 8 * n.val + cls % 8
def portNode (n : Fin 512) : Nat := 2 ^ 19 + n.val

/-- The page, table and row that hold a node's state (R284, R285). -/
def nodeRow (i : Nat) : Page × Nat × Nat :=
  if i < 2 ^ 18 then (whlPage (Fin.ofNat 2 (i / 65536)), 1, i % 65536)
  else if i < 2 ^ 19 then (schPage (Fin.ofNat 512 ((i - 2 ^ 18) / 8)), 0, i % 8)
  else (schPage (Fin.ofNat 512 (i - 2 ^ 19)), 0, 8)

/-- A node's state: tokens in units of 2^-24 byte (the credit of a CBS service node in `tc`), clock of the last
refill, eligible time, DWRR deficit, ON_WHEEL and CLAMPED. -/
structure Node where
  tc      : Int
  tp      : Int
  last    : Nat
  e       : Nat
  deficit : Int
  onWheel : Bool
  clamped : Bool
deriving DecidableEq, Repr

/-- Assumption 72 (DEDUCED, unsafe). -/
def getNode (c : Chip) (i : Nat) : Node :=
  let l := nodeRow i
  let g (o n : Nat) : Nat := Chip.rowNat c l.1 l.2.1 l.2.2 o n
  ⟨signed 64 (g 0 8), signed 64 (g 8 8), g 16 8, g 24 8, signed 32 (g 36 4), bit (g 48 1) 0, bit (g 48 1) 1⟩

def setNode (i : Nat) (n : Node) (c : Chip) : Chip :=
  let l := nodeRow i
  let p (o w v : Nat) (c : Chip) : Chip := Chip.setRowNat c l.1 l.2.1 l.2.2 o w v
  p 48 1 (b2n n.onWheel + 2 * b2n n.clamped)
    (p 36 4 (unsigned 32 n.deficit) (p 24 8 n.e (p 16 8 n.last (p 8 8 (unsigned 64 n.tp) (p 0 8 (unsigned 64 n.tc) c)))))

/-- A node's shapers: rates and sizes, and CBS_EN of a service node. -/
structure NodeCfg where
  cir : Nat
  pir : Nat
  cbs : Nat
  pbs : Nat
  avb : Bool
deriving DecidableEq, Repr

/-- A rate in force (R259). -/
def rateOf (r : Nat) : Nat := if r = 0 then 0 else min (max r 671) 0x80000000

/-! Queue entries (R285). -/

def qEntry (c : Chip) (q o n : Nat) : Nat := Chip.rowNat c (whlPage (Fin.ofNat 2 (q / 65536))) 0 (q % 65536) o n
def qCtl (c : Chip) (q : Nat) : Nat := qEntry c q 16 8
def qValid (c : Chip) (q : Nat) : Bool := bit (qCtl c q) 0
/-- Chip-wide port and class that SVC of a queue names. -/
def qPort (c : Chip) (q : Nat) : Fin 512 := laneOf (Fin.ofNat 2 (q / 65536)) (bits (qCtl c q) 11 4)
def qCls (c : Chip) (q : Nat) : Nat := bits (qCtl c q) 3 1

def nodeCfg (c : Chip) (i : Nat) : NodeCfg :=
  if i < 2 ^ 18 then ⟨rateOf (qEntry c i 0 4), rateOf (qEntry c i 4 4), qEntry c i 8 3, qEntry c i 12 3, false⟩
  else
    let l := nodeRow i
    let o := 0x080 + 0x10 * l.2.2
    ⟨rateOf (Chip.live c l.1 o 31 0), rateOf (Chip.live c l.1 (o + 4) 31 0), Chip.live c l.1 (o + 8) 23 0,
     Chip.live c l.1 (o + 8) 55 32, decide (l.2.2 < 8) && Chip.liveFlag c l.1 (0x044 + 4 * l.2.2) 4⟩

/-! Notices and depths (R43, R270, R284). -/

def noticesOf (c : Chip) (q : Nat) : List Notice := kvGet [] c.notices q

def setNotices (q : Nat) (ns : List Notice) (c : Chip) : Chip :=
  { c with notices := if ns.isEmpty then kvErase c.notices q else kvPut c.notices q ns }

/-- Valid queues of a port that hold a copy. -/
def portQueues (c : Chip) (n : Fin 512) : List Nat :=
  (c.notices.map (·.1)).filter (fun q => qValid c q && decide (qPort c q = n))

/-- Those of one class. -/
def svcQueues (c : Chip) (n : Fin 512) (cls : Nat) : List Nat :=
  (portQueues c n).filter (fun q => decide (qCls c q = cls))

/-- Does a node have a waiting frame? -/
def nodeWaits (c : Chip) (i : Nat) : Bool :=
  if i < 2 ^ 18 then !(noticesOf c i).isEmpty
  else if i < 2 ^ 19 then !(svcQueues c (Fin.ofNat 512 ((i - 2 ^ 18) / 8)) (i % 8)).isEmpty
  else !(portQueues c (Fin.ofNat 512 (i - 2 ^ 19))).isEmpty

/-- SCH_DEPTH_FRAMES and SCH_DEPTH_BYTES of a port brought up to date; EMPTY as the depth reaches 0 (R284). The page at no
live port is inert (R88). -/
def depthSync (n : Fin 512) (c : Chip) : Chip :=
  if Chip.modeAt c n = 0 then c
  else
  let p := schPage n
  let ns := (portQueues c n).flatMap (fun q => noticesOf c q)
  let was := Chip.fld c p 0x110 31 0
  let c := Chip.put (Chip.put c p 0x110 (BitVec.ofNat 64 (ns.length % 2 ^ 32))) p 0x118
    (BitVec.ofNat 64 ((ns.map (·.len)).sum))
  if was ≠ 0 ∧ ns.isEmpty then Chip.cause c p 8 else c

/-- A queue's own depth in its row of WHL table 0x01. -/
def queueDepth (q : Nat) (c : Chip) : Chip :=
  let ns := noticesOf c q
  let p := whlPage (Fin.ofNat 2 (q / 65536))
  Chip.setRowNat (Chip.setRowNat c p 1 (q % 65536) 32 4 ns.length) p 1 (q % 65536) 40 8 (ns.map (·.len)).sum

/-! Pause (R119 to R121, R268). -/

/-- Does a timer map to a service class? Timer 8 is the port's (R119). -/
def timerMaps (c : Chip) (n : Fin 512) (timer cls : Nat) : Bool :=
  decide (timer = 8) || Chip.liveFlag c (prtPage n) 0x120 (8 * timer + cls)

/-- Is a class paused in a clock? -/
def pausedAt (c : Chip) (n : Fin 512) (cls now : Nat) : Bool :=
  (Chip.port c n).pause.any (fun s => decide (s.start ≤ now) && decide (now < s.stop) && timerMaps c n s.timer cls)

/-- No request for a class may be issued in a clock: one in which a timer ends is still held (R120). -/
def pauseHolds (c : Chip) (n : Fin 512) (cls now : Nat) : Bool :=
  (Chip.port c n).pause.any (fun s => decide (s.start ≤ now) && decide (now ≤ s.stop) && decide (s.start < s.stop) &&
    timerMaps c n s.timer cls)

/-- Clocks from `a` to `b` (b excluded) that no run of the list covers; the runs rise by start. -/
def uncovered : List PauseSeg → Nat → Nat → Nat
  | [], a, b => b - a
  | s :: ss, a, b => (min s.start b - a) + uncovered ss (max a (min s.stop b)) b

/-- Clocks since `a` in which the credit of a class was not frozen by a pause (R123). -/
def openClocks (c : Chip) (n : Fin 512) (cls a now : Nat) : Nat :=
  uncovered (sortBy (fun s t => decide (s.start ≤ t.start))
    ((Chip.port c n).pause.filter (fun s => timerMaps c n s.timer cls))) a now

/-- The port is UP and receives no remote fault: credits are not frozen (R123) and its node may decide (R268). -/
def linkOpen (c : Chip) (n : Fin 512) : Bool := Chip.isUp c n && !Chip.flag c (prtPage n) 0x04C 6

/-! Shapers (R259 to R263, R269, R123). -/

/-- A node brought to `now` (R260); the credit of a CBS node grows by idleSlope where it is not frozen, and is zero
while nothing waits and it would be positive (R123). -/
def refillNode (c : Chip) (i now : Nat) (n : Node) : Node :=
  let g := nodeCfg c i
  let dt : Nat := now - n.last
  let port : Fin 512 := Fin.ofNat 512 ((i - 2 ^ 18) / 8)
  let credit : Int := n.tc + (if linkOpen c port then (g.cir * openClocks c port (i % 8) n.last now : Nat) else 0)
  { n with
    tc := if g.avb then (if nodeWaits c i then credit else min credit 0)
      else if g.cir ≠ 0 then min (n.tc + (g.cir * dt : Nat)) ((g.cbs * 2 ^ 24 : Nat) : Int) else n.tc
    tp := if g.pir ≠ 0 then min (n.tp + (g.pir * dt : Nat)) ((g.pbs * 2 ^ 24 : Nat) : Int) else n.tp
    last := now }

def peakOk (g : NodeCfg) (n : Node) : Bool := decide (g.pir = 0) || decide (0 ≤ n.tp)

/-- Committed-eligible, on the stored tokens (R259, R269). -/
def commitOk (g : NodeCfg) (n : Node) : Bool := (g.avb || decide (g.cir ≠ 0)) && decide (0 ≤ n.tc) && peakOk g n

/-- Neither committed- nor peak-eligible; a CBS node is never served in the excess round (R259, R269). -/
def isShaped (g : NodeCfg) (n : Node) : Bool := !(commitOk g n) && (g.avb || !peakOk g n)

/-- The clock at which the node's state improves (R261): for a negative CBS credit, the clock at which idleSlope brings it
to zero (R269). -/
def eligibleAt (g : NodeCfg) (n : Node) (now : Nat) : Nat :=
  if g.avb ∧ n.tc < 0 then (if g.cir = 0 then now else now + ceilDiv (-n.tc).toNat g.cir)
  else if g.pir ≠ 0 ∧ n.tp < 0 then now + ceilDiv (-n.tp).toNat g.pir
  else if g.cir ≠ 0 ∧ n.tc < 0 then now + ceilDiv (-n.tc).toNat g.cir
  else now

/-! The wheel (R264 to R266). -/

/-- Complex of a node. -/
def nodeCx (i : Nat) : Cx :=
  if i < 2 ^ 18 then Fin.ofNat 2 (i / 65536)
  else if i < 2 ^ 19 then Fin.ofNat 2 ((i - 2 ^ 18) / 2048)
  else Fin.ofNat 2 ((i - 2 ^ 19) / 256)

/-- The entry of a node taken off the wheel. -/
def wheelRemove (i : Nat) (c : Chip) : Chip :=
  let n := getNode c i
  if n.onWheel then
    let x := nodeCx i
    let s := Chip.schedOf c x
    setNode i { n with onWheel := false, clamped := false }
      (setSched x { s with fine := s.fine.filter (fun e => e.2 ≠ i), coarse := s.coarse.filter (fun e => e.2 ≠ i) } c)
  else c

/-- A node placed on the wheel at `e` (R264). -/
def wheelPlace (now i e : Nat) (c : Chip) : Chip :=
  let c := wheelRemove i c
  let x := nodeCx i
  let s := Chip.schedOf c x
  let n := { getNode c i with e := e, onWheel := true }
  let f := (e + 15) / 16
  let k := f / 4096
  if f - now / 16 < 4096 then setNode i n (setSched x { s with fine := s.fine ++ [(f, i)] } c)
  else if k - now / 65536 < 4096 then setNode i n (setSched x { s with coarse := s.coarse ++ [(k, i)] } c)
  else
    Chip.bump (setNode i { n with clamped := true }
      (setSched x { s with coarse := s.coarse ++ [(now / 65536 + 4095, i)] } c)) (whlPage x) 0x090

/-- A node that is shaped goes on the wheel at its E (R261); one already there is left.
Assumption 70 (DEDUCED, unsafe). -/
def parkNode (now i : Nat) (c : Chip) : Chip :=
  let n := getNode c i
  let g := nodeCfg c i
  if n.onWheel then c
  else if isShaped g n && decide (eligibleAt g n now > now) then wheelPlace now i (eligibleAt g n now) c
  else c

/-- A node woken from empty: refilled, and placed if it is found shaped (R260, R261). -/
def wakeNode (now i : Nat) (c : Chip) : Chip :=
  let n := getNode c i
  parkNode now i (setNode i (refillNode c i now n) c)

/-- A charge taken from a node as it is served: buckets of rate 0 keep their value (R258); it is placed, or moved, if
it is shaped then (R261). -/
def chargeNode (now i ch : Nat) (c : Chip) : Chip :=
  let g := nodeCfg c i
  let n := refillNode c i now (getNode c i)
  let d : Int := ((ch * 2 ^ 24 : Nat) : Int)
  let n := { n with
    tc := if g.avb || decide (g.cir ≠ 0) then n.tc - d else n.tc
    tp := if g.pir ≠ 0 then n.tp - d else n.tp }
  let c := setNode i n c
  let e := eligibleAt g n now
  if n.onWheel then (if e > now then wheelPlace now i e c else wheelRemove i c) else parkNode now i c

/-- One wheel entry expires: refilled, and placed again for a second wait (R261, R265). -/
def expireNode (now i : Nat) (c : Chip) : Chip :=
  let n := refillNode c i now { getNode c i with onWheel := false, clamped := false }
  let c := setNode i n c
  let e := eligibleAt (nodeCfg c i) n now
  if e > now then wheelPlace now i e c else c

/-- The first entry, in slot order, whose slot has come. -/
def dueEntry (now : Nat) (fine : List (Nat × Nat)) : Option (Nat × Nat) :=
  (sortBy (fun a b => decide (a.1 ≤ b.1)) (fine.filter (fun e => decide (16 * e.1 ≤ now)))).head?

/-- Up to `m` due entries made eligible (R265). -/
def fireFrom (now : Nat) (x : Cx) : Nat → Chip → Chip
  | 0, c => c
  | m + 1, c =>
    let s := Chip.schedOf c x
    match dueEntry now s.fine with
    | none => c
    | some e =>
      let c := setSched x { s with
        fine := s.fine.filter (fun f => f.2 ≠ e.2)
        fired := (now, (if s.fired.1 = now then s.fired.2 else 0) + 1) } c
      let c := if now > 16 * e.1 + 15 then Chip.cause (Chip.bump c (whlPage x) 0x088) (whlPage x) 8 else c
      fireFrom now x m (expireNode now e.2 c)

/-- A clock's slot fires, 32 entries at most (R265). -/
def wheelFire (k : Clk) (x : Cx) (c : Chip) : Chip :=
  let s := Chip.schedOf c x
  let used := if s.fired.1 = Clk.abs k then s.fired.2 else 0
  fireFrom (Clk.abs k) x (32 - used) c

/-- May maintenance move an entry of the coarse wheel now (R266)? -/
def movable (now : Nat) (c : Chip) (e : Nat × Nat) : Bool :=
  let n := getNode c e.2
  decide (e.1 ≤ now / 65536) ||
  (decide (e.1 = now / 65536 + 1) && decide ((n.e + 15) / 16 - now / 16 < 4096))

/-- One entry moved to the fine wheel: to its slot, or to the current slot if that has passed; a clamped one is
placed afresh (R264, R266). -/
def moveOne (now : Nat) (x : Cx) (e : Nat × Nat) (c : Chip) : Chip :=
  let n := getNode c e.2
  if n.clamped && decide (n.e > now) then wheelPlace now e.2 n.e c
  else
    let s := Chip.schedOf c x
    let f := max ((n.e + 15) / 16) (now / 16)
    if f - now / 16 < 4096 then
      setNode e.2 { n with clamped := false }
        (setSched x { s with coarse := s.coarse.filter (fun a => a.2 ≠ e.2), fine := s.fine ++ [(f, e.2)] } c)
    else c

/-- The entries that maintenance may move now, by coarse slot, then in order of placement (R266). -/
def movables (now : Nat) (c : Chip) (x : Cx) : List (Nat × Nat) :=
  sortBy (fun a b => decide (a.1 ≤ b.1)) ((Chip.schedOf c x).coarse.filter (fun e => movable now c e))

/-- Entries that maintenance has moved in this turn (R24). -/
def movedIn (k : Clk) (c : Chip) (x : Cx) : Nat :=
  let s := Chip.schedOf c x
  if s.moved.1 = k.turn then s.moved.2 else 0

/-- Wheel maintenance, in clocks 0 to 1,535 of a turn: 2,048 entries a turn at most (R24, R266).
Assumption 73 (DEDUCED, unsafe). -/
def wheelMaintain (k : Clk) (x : Cx) (c : Chip) : Chip :=
  if k.clock < 1536 then
    let used := movedIn k c x
    let es := (movables (Clk.abs k) c x).take (2048 - used)
    let c := es.foldl (fun c e => moveOne (Clk.abs k) x e c) c
    setSched x { Chip.schedOf c x with moved := (k.turn, used + es.length) } c
  else c

/-- Maintenance has missed its turn: at the end of its window a movable entry remains, and the miss has not been recorded
(R25, R266). -/
def wheelLate (k : Clk) (x : Cx) (c : Chip) : Bool :=
  decide (1536 ≤ k.clock) && !(movables (Clk.abs k) c x).isEmpty && decide ((Chip.schedOf c x).missed ≠ some k.turn)

/-- A change of a node's shapers (R262): brought to the change at the old rates by `before`, then cut to the new
sizes and its wheel entry moved. -/
def reshapeNode (now i : Nat) (before : Chip) (c : Chip) : Chip :=
  let n := refillNode before i now (getNode before i)
  let g := nodeCfg c i
  let n := { n with
    tc := if g.avb then n.tc else min n.tc ((g.cbs * 2 ^ 24 : Nat) : Int)
    tp := min n.tp ((g.pbs * 2 ^ 24 : Nat) : Int) }
  let c := setNode i n c
  let e := eligibleAt g n now
  if n.onWheel then (if e > now then wheelPlace now i e c else setNode i { n with e := e, onWheel := false, clamped := false } (wheelRemove i c))
  else parkNode now i (setNode i { n with e := e } c)

/-- A node whose shapers have changed reshaped; any other kept as it is (R262). -/
def reshapeChanged (now i : Nat) (before : Chip) (c : Chip) : Chip :=
  if nodeCfg before i = nodeCfg c i then c else reshapeNode now i before c

/-- The credits of a port's classes brought to `now`, before what freezes them changes (R123). -/
def creditSync (now : Nat) (n : Fin 512) (c : Chip) : Chip :=
  (List.range 8).foldl (fun c cls =>
    let i := svcNode n cls
    if (nodeCfg c i).avb then setNode i (refillNode c i now (getNode c i)) c else c) c

/-- COMMITTED and PEAK of a node's row, on the stored tokens (R285). -/
def nodeFlags (c : Chip) (i : Nat) : Nat :=
  let n := getNode c i
  let g := nodeCfg c i
  b2n n.onWheel + 2 * b2n n.clamped + 4 * b2n (decide (g.cir ≠ 0) && decide (0 ≤ n.tc) && peakOk g n) + 8 * b2n (peakOk g n)

/-- First-use state of a node: soft reset, INVALIDATE then WRITE (R263). -/
def freshNode (now i : Nat) (c : Chip) : Chip :=
  setNode i ⟨0, 0, now, 0, 0, false, false⟩ (wheelRemove i c)

/-! The line pacer (R268). -/

/-- Pacer tokens at `now`: rate speed/1600 of 2^31 per clock, size 32 KiB, in units of 2^-24/25 byte. -/
def pacerAt (c : Chip) (n : Fin 512) (now : Nat) : Int :=
  let p := Chip.port c n
  min (p.pacer + ((modeSpeed (Chip.modeAt c n) * 2 ^ 25 * (now - p.pacerAt) : Nat) : Int)) ((25 * 32768 * 2 ^ 24 : Nat) : Int)

/-- A charge taken from the pacer. -/
def chargePacer (now : Nat) (n : Fin 512) (ch : Nat) (c : Chip) : Chip :=
  let p := Chip.port c n
  setPort n { p with pacer := pacerAt c n now - ((25 * ch * 2 ^ 24 : Nat) : Int), pacerAt := now } c

/-- Charge of a frame on a port: its length plus OVERHEAD, at least 1 (R258). -/
def portCharge (c : Chip) (n : Fin 512) (len : Nat) : Nat :=
  max 1 ((len : Int) + signed 7 (Chip.live c (schPage n) 0x040 14 8)).toNat

/-! The choice among children (R257). -/

/-- A child in one round: identity, node, PRIO, quantum, charge of its head frame. -/
structure Child where
  id     : Nat
  node   : Nat
  prio   : Nat
  quant  : Nat
  charge : Nat
deriving DecidableEq, Repr

/-- Children in ring order after `last`. -/
def ringFrom (last : Nat) (cs : List Child) : List Child :=
  let s := sortBy (fun a b => decide (a.id ≤ b.id)) cs
  s.filter (fun a => decide (a.id > last)) ++ s.filter (fun a => decide (a.id ≤ last))

/-- Strict: the lowest PRIO, round robin among equals; where the round robin starts after reset is open. -/
def pickStrict (c : Chip) (x : Cx) (parent : Nat) (cs : List Child) : Option (Child × Chip) :=
  let top := (cs.map (·.prio)).foldl min 65536
  match cs.filter (fun a => decide (a.prio = top)) with
  | [] => none
  | [a] =>
    let s := Chip.schedOf c x
    some (a, setSched x { s with rr := kvPut s.rr (8 * parent + top) a.id } c)
  | ts =>
    let s := Chip.schedOf c x
    let last := kvGet (Config.phase (16 + 8 * parent + top)) s.rr (8 * parent + top)
    match ringFrom last ts with
    | [] => none
    | a :: _ => some (a, setSched x { s with rr := kvPut s.rr (8 * parent + top) a.id } c)

/-- Deficit round robin run until a child is served: `given` says that the first one has had its quantum. -/
def dwrrRun : Nat → Bool → List Child → Chip → Option (Child × Chip)
  | 0, _, _, _ => none
  | _ + 1, _, [], _ => none
  | m + 1, given, a :: as, c =>
    let n := getNode c a.node
    let d := if given then n.deficit else n.deficit + ((max 64 a.quant : Nat) : Int)
    if d ≥ (a.charge : Int) then some (a, setNode a.node { n with deficit := d - (a.charge : Int) } c)
    else dwrrRun m false (as ++ [a]) (setNode a.node { n with deficit := d } c)

/-- DWRR among the children of a round. -/
def pickDwrr (c : Chip) (x : Cx) (parent : Nat) (cs : List Child) : Option (Child × Chip) :=
  let s := Chip.schedOf c x
  let cur := match cs with
    | [a] => kvGet a.id s.dw parent
    | _ => kvGet (Config.phase (16 + 8 * parent)) s.dw parent
  let ring := match cs with
    | [a] => [a]
    | _ =>
      let r := sortBy (fun a b => decide (a.id ≤ b.id)) cs
      r.filter (fun a => decide (a.id ≥ cur)) ++ r.filter (fun a => decide (a.id < cur))
  let given := (kvFind s.dw parent).isSome && (match ring with | a :: _ => decide (a.id = cur) | [] => false)
  match dwrrRun (300 * (cs.length + 1)) given ring c with
  | none => none
  | some (a, c) =>
    let s := Chip.schedOf c x
    some (a, setSched x { s with dw := kvPut s.dw parent a.id } c)

/-- The committed round, then the excess round (R257). -/
def pickChild (c : Chip) (x : Cx) (parent : Nat) (dwrr : Bool) (cs : List (Bool × Child)) : Option (Child × Chip) :=
  let first := (cs.filter (·.1)).map (·.2)
  let rest := (cs.filter (fun a => !a.1)).map (·.2)
  let r := if first.isEmpty then rest else first
  if dwrr then pickDwrr c x parent r else pickStrict c x parent r

end Sys2Proof.Machine
end

