-- ==== Sys2Proof/Machine/Crc.lean ====
section
/-!
DEFINITION. The cyclic checks of the spec: CRC-16 of TOD messages (R137), CRC-32 of frames, CRC-32C and CRC-64.
-/
namespace Sys2Proof.Machine

/-- One bit of a reflected division by the polynomial `poly`. -/
def crcBitR (poly s : Nat) : Nat := if s % 2 = 1 then (s / 2) ^^^ poly else s / 2

/-- One byte into a reflected check. -/
def crcByteR (poly s : Nat) (b : Byte) : Nat := Nat.repeat (crcBitR poly) 8 (s ^^^ b.toNat)

/-- One bit of an unreflected division of width `w`. -/
def crcBitN (w poly s : Nat) : Nat :=
  if s / 2 ^ (w - 1) % 2 = 1 then (s * 2 % 2 ^ w) ^^^ poly else s * 2 % 2 ^ w

/-- One byte into an unreflected check of width `w`. -/
def crcByteN (w poly s : Nat) (b : Byte) : Nat := Nat.repeat (crcBitN w poly) 8 (s ^^^ (b.toNat * 2 ^ (w - 8)))

/-- CRC-16 of R137. -/
def crc16 (bs : List Byte) : Nat := bs.foldl (crcByteN 16 0x1021) 0xFFFF

/-- CRC-32 of IEEE 802.3: the FCS. Assumption 23 (PRESUMED, unsafe). -/
def crc32 (bs : List Byte) : Nat := bs.foldl (crcByteR 0xEDB88320) 0xFFFFFFFF ^^^ 0xFFFFFFFF

/-- CRC-32C of R150. -/
def crc32c (bs : List Byte) : Nat := bs.foldl (crcByteR 0x82F63B78) 0xFFFFFFFF ^^^ 0xFFFFFFFF

/-- CRC-32C with a given initial value: the record check of R294. -/
def crc32cFrom (init : Nat) (bs : List Byte) : Nat := bs.foldl (crcByteR 0x82F63B78) init ^^^ 0xFFFFFFFF

end Sys2Proof.Machine
end

