-- ==== Sys2Proof/Machine/Time.lean ====
section
/-!
DEFINITION. Chip time, its adjustments, PPS and time of day, the time state and the calibration store.
-/
namespace Sys2Proof.Machine

/-! Stamps as counts of 2^-16 ns (R129). -/

/-- One second in units of 2^-16 ns. -/
def secUnits : Nat := 1000000000 * 65536

/-- The stamp scale wraps at 2^48 s (R129). -/
def stampWrap : Nat := 2 ^ 48 * secUnits

/-- Chip time as a stamp, in 2^-16 ns. -/
def Clk.stamp (k : Clk) : Nat := k.sec * secUnits + k.ns * 65536 + k.frac / 2 ^ 32

/-- Seconds of a stamp; nanoseconds and fraction in the NSF layout. -/
def stampSec (t : Nat) : Nat := t / secUnits
def stampNsf (t : Nat) : Nat := t % secUnits

/-- The 96-bit format of a stamp (R129). -/
def stamp96 (t : Nat) : Nat := stampSec t * 2 ^ 48 + stampNsf t

/-- The short stamp of a stamp (R129). -/
def stampShort (t : Nat) : Nat := stampSec t % 2 ^ 16 * 2 ^ 48 + stampNsf t

/-- The stamp a seconds count and an NSF value name. -/
def stampOf (sec nsfv : Nat) : Nat := sec * secUnits + nsfv

/-- A stamp moved by a signed amount, modulo 2^48 s (R129). -/
def stampAdd (t : Nat) (d : Int) : Nat := (((t : Int) + d) % (stampWrap : Int)).toNat

/-- The signed difference of two stamps: the seconds difference is read as a signed 48-bit value (R129). -/
def stampDiff (a b : Nat) : Int :=
  signed 48 ((stampSec a + 2 ^ 48 - stampSec b) % 2 ^ 48) * (secUnits : Int) + (stampNsf a : Int) - (stampNsf b : Int)

/-! Elapsed time in whole turns and clocks (R11, R90). -/

/-- Milliseconds as whole turns, rounded up (R90, R135). -/
def msTurns (ms : Nat) : Nat := ceilDiv (ms * 15625) 16

/-! Adjustments (R130 to R134). -/

/-- An increment the complex accepts (R130). -/
def incrOk (v : Nat) : Bool := decide (180053913102273 ≤ v) && decide (v ≤ 180234057087367)

/-- Chip time with an adjustment applied: STEP keeps the 32-bit extension, SET clears it (R132). -/
def Clk.adjusted (k : Clk) (a : Adjust) : Clk :=
  let k := match a.incr with | some i => { k with incr := i } | none => k
  match a.set with
  | some (s, v) => { k with sec := s % 2 ^ 48, ns := v / 65536 % 1000000000, frac := v % 65536 * 2 ^ 32 }
  | none =>
    match a.step with
    | some d =>
      let t := stampAdd (Clk.stamp k) d
      { k with sec := stampSec t, ns := stampNsf t / 65536, frac := t % 65536 * 2 ^ 32 + k.frac % 2 ^ 32 }
    | none => k

/-- Chip time as it will be in force `n` clocks from now, a pending adjustment included (R134). -/
def timeAfter (k : Clk) (t : TimeSt) (n : Nat) : Clk :=
  match t.adj with
  | some a =>
    let d := a.due * 1600 - Clk.abs k
    if d ≤ n then Clk.plus (Clk.adjusted (Clk.plus k d) a) (n - d) else Clk.plus k n
  | none => Clk.plus k n

/-- The reject count and cause of an adjustment command (R133). -/
def rejectAdjust (c : Chip) : Chip := Chip.cause (Chip.bump c .tim 0x178) .tim 15

/-- SNAP (R154). -/
def doSnap (k : Clk) (c : Chip) : Chip :=
  let c := Chip.put c .tim 0x078 (BitVec.ofNat 64 k.sec)
  let c := Chip.put c .tim 0x080 (BitVec.ofNat 64 (nsf k))
  let c := Chip.put c .tim 0x088 (BitVec.ofNat 64 k.turn)
  Chip.put c .tim 0x090 (BitVec.ofNat 64 k.clock)

/-- LOAD_INCR, STEP and SET of one TIM_CMD write on an unlocked page (R132, R133). -/
def startAdjust (k : Clk) (ld st se : Bool) (c : Chip) : Chip :=
  let inc := (Chip.get c .tim 0x058).toNat
  let snf := (Chip.get c .tim 0x070).toNat
  if (st && se) || c.time.adj.isSome || (ld && !incrOk inc) || (se && decide (snf / 65536 ≥ 1000000000)) then
    rejectAdjust c
  else
    let a : Adjust := {
      due := k.turn + 16
      incr := if ld then some inc else none
      step := if st then some (Chip.get c .tim 0x060).toInt else none
      set := if se then some ((Chip.get c .tim 0x068).toNat, snf) else none }
    Chip.setFld { c with time := { c.time with adj := some a } } .tim 0x044 5 5 1

/-- A TIM_CMD write (R132, R133, R154). On a locked page SNAP is performed and an adjustment is rejected (R68). -/
def timCmd (k : Clk) (v : Nat) (locked : Bool) (c : Chip) : Chip :=
  let c := Chip.onlyIf c (bit v 0) (doSnap k)
  if bit v 1 || bit v 2 || bit v 3 then
    if locked then rejectAdjust c else startAdjust k (bit v 1) (bit v 2) (bit v 3) c
  else c

/-- The pending adjustment applied at clock 0 of its turn (R132, R133). -/
def applyAdjust (k : Clk) (c : Chip) : Clk × Chip :=
  match c.time.adj with
  | some a =>
    if a.due ≤ k.turn then
      let c := Chip.setFld { c with time := { c.time with adj := none, before := some (Clk.abs k, k) } } .tim 0x044 5 5 0
      (Clk.adjusted k a, Chip.cause (Chip.bump c .tim 0x170) .tim 14)
    else (k, c)
  | none => (k, c)

/-! The time state (R140 to R143). -/

/-- The source in force: values 4-7, and 3 without the Saggar pair, act as 0 (R140). -/
def srcOf (part : Part) (v : Nat) : Nat := if v > 3 ∨ (v = 3 ∧ hasSaggar part = false) then 0 else v

/-- Live SRC. -/
def Chip.src (c : Chip) : Nat := srcOf c.part (Chip.live c .tim 0x040 2 0)

/-- STATE of TIM_STAT: 0 FREE_RUN, 1 ACQUIRING, 2 LOCKED, 3 HOLDOVER. -/
def Chip.timeState (c : Chip) : Nat := Chip.fld c .tim 0x044 1 0

/-- The TIME_OK pin: none while released, else high only in LOCKED (R54, R57, R143, R154). -/
def Chip.timeOkPin (c : Chip) : Option Bool :=
  if Chip.enabled c .tim && !c.off then some (decide (Chip.timeState c = 2)) else none

/-- The PPS_OUT pin: none while released (R136, R154). Assumption 103 (DESIGN CHOICE, safe). -/
def Chip.ppsOutPin (c : Chip) : Option Bool :=
  if Chip.enabled c .tim && Chip.liveFlag c .tim 0x040 5 then some c.time.ppsHigh else none

def setTimeState (c : Chip) (st good : Nat) : Chip :=
  Chip.setFld (Chip.setFld c .tim 0x044 1 0 st) .tim 0x044 15 8 good

/-- LOCK_CNT, 0 acting as 1. -/
def Chip.lockCnt (c : Chip) : Nat := max 1 (Chip.live c .tim 0x0C0 31 24)

/-- The time state after a report that leaves good count `g`: LOCKED at LOCK_CNT, else ACQUIRING (R141). -/
def acquire (c : Chip) (g : Nat) : Chip :=
  if g ≥ Chip.lockCnt c then Chip.cause (setTimeState c 2 g) .tim 9 else setTimeState c 1 g

/-- An offset report, in 2^-16 ns (R140, R141). -/
def offsetReport (k : Clk) (off : Int) (c : Chip) : Chip :=
  let inRange : Bool := decide (-(2 ^ 63 : Int) ≤ off) && decide (off < (2 ^ 63 : Int))
  let c := Chip.put c .tim 0x0B0 (if inRange then BitVec.ofInt 64 off else Config.wideOffset off)
  let c := { c with time := { c.time with lastRep := k.turn } }
  let lockThr := Chip.live c .tim 0x0C0 11 0
  let unlockThr := max lockThr (Chip.live c .tim 0x0C0 23 12)
  let good : Bool := decide (off.natAbs ≤ lockThr * 65536)
  let bad : Bool := decide (off.natAbs > unlockThr * 65536)
  let n := Chip.fld c .tim 0x044 15 8
  match Chip.timeState c with
  | 1 => if good then acquire c (n + 1) else setTimeState c 1 0
  | 2 => if bad then Chip.cause (setTimeState c 1 0) .tim 8 else c
  | _ => acquire c (b2n good)

/-- A commit of the TIM page that changed SRC (R141). -/
def srcChanged (old : Nat) (c : Chip) : Chip :=
  if Chip.src c = old then c
  else if Chip.src c = 0 then setTimeState c 0 0
  else setTimeState c 1 0

/-- Silence: LOCKED and no report for LOSS_TIMEOUT ms (R141). -/
def doSilence (k : Clk) (c : Chip) : Chip :=
  if Chip.timeState c = 2 ∧ c.time.lastRep + msTurns (max 1 (Chip.live c .tim 0x0C4 15 0)) ≤ k.turn then
    let c := Chip.cause (setTimeState c 3 (Chip.fld c .tim 0x044 15 8)) .tim 8
    Chip.bump { c with time := { c.time with holdFrom := k.turn } } .tim 0x180
  else c

/-- The holdover timer reaches HOLDOVER_LIMIT (R141). -/
def doHoldoverEnd (k : Clk) (c : Chip) : Chip :=
  if Chip.timeState c = 3 ∧ c.time.holdFrom + msTurns (1000 * Chip.live c .tim 0x0C4 31 16) ≤ k.turn then
    setTimeState c 0 (Chip.fld c .tim 0x044 15 8)
  else c

/-! PPS and time of day (R135 to R139). -/

/-- A TOD message may pair from 1 ms to 999 ms after its last stop bit, in clocks (R139). -/
def todEarliest : Nat := 1562500
def todLatest : Nat := 1560937500

/-- The message an edge at clock `now` pairs with (R139): the latest of those whose windows hold it.
Assumption 132 (DESIGN CHOICE, unsafe). -/
def todPick (now : Nat) (ws : List (Nat × Nat)) : Option Nat :=
  ((ws.filter (fun w => decide (w.2 + todEarliest ≤ now) && decide (now ≤ w.2 + todLatest))).getLast?).map (·.1)

/-- The nearest whole second to a stamp, as a stamp (R140): half way, the later one. Assumption 133 (DESIGN CHOICE,
unsafe). -/
def nearestSec (t : Nat) : Nat := stampAdd (t / secUnits * secUnits) (if t % secUnits * 2 ≥ secUnits then secUnits else 0)

/-- A rising PPS_IN edge `sub` sixteenths into this clock (R135, R139, R140). -/
def doPpsIn (k : Clk) (sub : Nat) (c : Chip) : Chip :=
  let early : Bool := match c.time.ppsLast with | some t => decide (k.turn < t + msTurns 900) | none => false
  if early then Chip.bump c .tim 0x150
  else
    let f := k.frac + k.incr * sub / 16
    let raw := (k.sec * secUnits + k.ns * 65536 + f / 2 ^ 32) % stampWrap
    let t := stampAdd raw (-(signed 32 (Chip.getLive c .tim 0x0CC).toNat))
    let seq := (Chip.fld c .tim 0x0A0 63 48 + 1) % 2 ^ 16
    let c := Chip.put c .tim 0x098 (BitVec.ofNat 64 (stampSec t))
    let c := Chip.put c .tim 0x0A0 (BitVec.ofNat 64 (seq * 2 ^ 48 + stampNsf t))
    let c := Chip.setFld c .tim 0x044 3 3 1
    let c := Chip.cause (Chip.bump c .tim 0x140) .tim 10
    let now := Clk.abs k
    let pair := todPick now c.time.todWait
    let c := match pair with
      | some s => Chip.put c .tim 0x0A8 (BitVec.ofNat 64 (2 ^ 63 + s))
      | none => Chip.setFld c .tim 0x0A8 63 63 0
    let rest := c.time.todWait.filter (fun w => !(decide (w.2 + todEarliest ≤ now) && decide (now ≤ w.2 + todLatest)))
    let c := { c with time := { c.time with ppsLast := some k.turn, missDue := k.turn + msTurns 1100, todWait := rest } }
    if Chip.src c = 1 then
      let ref := match pair with | some s => s * secUnits | none => nearestSec t
      offsetReport k (stampDiff t ref) c
    else c

/-- A second with no accepted PPS_IN edge (R135). -/
def doPpsMiss (k : Clk) (c : Chip) : Chip :=
  if c.time.ppsLast.isSome ∧ c.time.missDue ≤ k.turn then
    let c := Chip.cause (Chip.bump (Chip.setFld c .tim 0x044 3 3 0) .tim 0x148) .tim 11
    { c with time := { c.time with missDue := c.time.missDue + msTurns 1000 } }
  else c

/-- When PPS_OUT is launched for the second that chip time has just passed, in sixteenths of a clock since reset, 40 ps
each: the passage, advanced by TIM_PPS_OUT_DELAY, to the nearest sixteenth (R136). Assumption 136 (DESIGN CHOICE,
unsafe). -/
def ppsLaunch (k : Clk) (c : Chip) : Nat :=
  let since : Int := ((k.ns * 2 ^ 48 + k.frac : Nat) : Int) + signed 32 (Chip.getLive c .tim 0x0D0).toNat * 2 ^ 32
  (((16 * Clk.abs k : Nat) : Int) - (32 * since + (k.incr : Int)) / (2 * (k.incr : Int))).toNat

/-- PPS_OUT rises as chip time passes a whole second, unless it is high already (R136); it is to fall WIDTH microseconds, of
25,000 sixteenths of a clock, after its launch. -/
def doPpsOutEdge (k : Clk) (c : Chip) : Chip :=
  if Chip.ppsOutPin c = some false ∧ k.secPass = true then
    Chip.emit { c with time := { c.time with
      ppsHigh := true, ppsFall := ppsLaunch k c + 25000 * Chip.live c .tim 0x0C8 19 0 } } (.ppsOut true (ppsLaunch k c))
  else c

/-- PPS_OUT falls WIDTH microseconds of elapsed time after it rose (R136). -/
def doPpsOutFall (k : Clk) (c : Chip) : Chip :=
  if c.time.ppsHigh = true ∧ c.time.ppsFall / 16 ≤ Clk.abs k then
    let d := { c with time := { c.time with ppsHigh := false } }
    if Chip.ppsOutPin c = some true then Chip.emit d (.ppsOut false c.time.ppsFall) else d
  else c

/-- The TOD message that names second `s` (R137, R138). -/
def todMessage (c : Chip) (s : Nat) : List Byte :=
  let st := Chip.timeState c
  let flags := b2n (decide (st = 2)) + 2 * b2n (decide (st = 3)) + Chip.live c .tim 0x0D4 4 2 * 4
  let body : List Byte := [0x01, 16] ++ leBytes 6 s ++ leBytes 2 (Chip.live c .tim 0x0D4 31 16) ++ leBytes 1 flags ++
    leBytes 1 (Chip.live c .tim 0x0D4 15 8) ++ leBytes 2 (Chip.live c .tim 0x04C 11 0) ++ leBytes 2 c.time.todSeq ++ [0, 0]
  [0xA5, 0x5A] ++ body ++ leBytes 2 (crc16 body)

/-- TOD_OUT sends the message of second S + 1 as chip time passes S + 500 ms (R138); one still on the line then is cut off.
Assumption 149 (DESIGN CHOICE, unsafe). -/
def doTodOut (k : Clk) (c : Chip) : Chip :=
  if (Chip.enabled c .tim && Chip.liveFlag c .tim 0x040 6 && k.halfPass) = true then
    let msg := todMessage c ((k.sec + 1) % 2 ^ 48)
    Chip.emit { c with time := { c.time with todSeq := (c.time.todSeq + 1) % 2 ^ 16, todTx := some (Clk.abs k, msg) } }
      (.todOut msg)
  else c

/-- Is a received message valid (R137, R139)? -/
def todValid (bs : List Byte) (framed : Bool) : Bool :=
  framed && decide (bs.length = 22) && decide (slice bs 0 4 = [0xA5, 0x5A, 0x01, 16]) &&
  decide (memNat bs 20 2 = crc16 (slice bs 2 18))

/-- A message received on TOD_IN; `framed` says that every character had its stop bit and no gap passed 20 us
(R139). -/
def doTodIn (k : Clk) (bs : List Byte) (framed : Bool) (c : Chip) : Chip :=
  if Chip.liveFlag c .tim 0x040 7 then
    if todValid bs framed then
      let c := Chip.put c .tim 0x0D8 (BitVec.ofNat 64 (memNat bs 4 8))
      let c := Chip.put c .tim 0x0E0 (BitVec.ofNat 64 (memNat bs 12 8))
      let c := Chip.bump c .tim 0x158
      { c with time := { c.time with todWait := c.time.todWait ++ [(memNat bs 4 6, Clk.abs k)] } }
    else Chip.cause (Chip.bump c .tim 0x160) .tim 12
  else c

/-- Valid messages whose window ended with no edge are counted (R139). -/
def doTodWindowEnd (k : Clk) (c : Chip) : Chip :=
  let gone := c.time.todWait.filter (fun w => decide (w.2 + todLatest < Clk.abs k))
  let left := c.time.todWait.filter (fun w => !decide (w.2 + todLatest < Clk.abs k))
  Chip.bumpBy { c with time := { c.time with todWait := left } } .tim 0x168 gone.length

/-! The frequency reference (R144). -/

/-- A reference window of 2^20 turns ends with a count. -/
def doRefWindow (k : Clk) (count : Nat) (c : Chip) : Chip :=
  if Chip.live c .tim 0x0E8 1 0 ≠ 0 ∧ c.time.refFrom + 2 ^ 20 ≤ k.turn then
    let c := Chip.put c .tim 0x0F0 (BitVec.ofNat 64 (2 ^ 63 + count))
    Chip.setFld { c with time := { c.time with refFrom := k.turn } } .tim 0x044 4 4 1
  else c

/-- A turn with no reference edge. -/
def doRefLoss (k : Clk) (c : Chip) : Chip :=
  if Chip.live c .tim 0x0E8 1 0 ≠ 0 then
    let c := Chip.setFld (Chip.setFld c .tim 0x044 4 4 0) .tim 0x0F0 63 63 0
    let c := Chip.cause (Chip.bump c .tim 0x188) .tim 13
    { c with time := { c.time with refFrom := k.turn + 1, refGone := true } }
  else c

/-- A turn ends: unless it was reported to have none, the reference had edges in it and is present (R144, R154).
Assumption 110 (DEDUCED, unsafe). -/
def refTurn (c : Chip) : Chip :=
  if Chip.live c .tim 0x0E8 1 0 = 0 then c
  else if c.time.refGone then { c with time := { c.time with refGone := false } }
  else Chip.setFld c .tim 0x044 4 4 1

/-! The calibration store (R150 to R153): TIM table 0x00, staging image table 0x01. -/

/-- Number of records of a store or image table. -/
def calN (c : Chip) (t : Nat) : Nat := Chip.rowNat c .tim t 0 8 2

/-- Rows 0 to n of a table, in order. -/
def calRows (c : Chip) (t : Nat) : Nat → List Byte
  | 0 => Chip.row c .tim t 0 0 16
  | n + 1 => calRows c t n ++ Chip.row c .tim t (n + 1) 0 16

/-- Is the image of a table valid (R150, R151)? -/
def calValid (c : Chip) (t : Nat) : Bool :=
  !c.time.calTorn && decide (Chip.rowNat c .tim t 0 0 4 = 0x0000CA1B) && decide (Chip.rowNat c .tim t 0 4 2 = 1) &&
  decide (1 ≤ calN c t) && decide (calN c t ≤ 4094) &&
  decide (Chip.rowNat c .tim t (calN c t + 1) 0 4 = crc32c (calRows c t (calN c t)))

/-- Is the page one that a record may address: TIM, or a present STP page (R151)? -/
def calPage : Page → Bool
  | .tim => true
  | .cx _ .stp _ => true
  | _ => false

/-- One record: address, size, value (R150). -/
structure CalRec where
  addr : Nat
  size : Nat
  val  : Nat
deriving DecidableEq, Repr

def calRec (c : Chip) (r : Nat) : CalRec :=
  let size := Chip.rowNat c .tim 0 r 4 1
  ⟨Chip.rowNat c .tim 0 r 0 4, size, Chip.rowNat c .tim 0 r 8 (if size = 8 then 8 else 4)⟩

/-- The page, the register and its offset that a record loads, or none where it is to be skipped (R151): HDR_CTL is no
register to load, and a record whose size is not its register's is skipped. Assumption 134 (DESIGN CHOICE, unsafe). -/
def calTarget (c : Chip) (r : CalRec) : Option (Page × Reg × Nat) :=
  match placeOf c.part r.addr with
  | .reg p o =>
    match Page.regAt p o with
    | some g =>
      if calPage p && !Chip.locked c p && decide (Reg.start g o = o) && decide (r.size = g.bytes) &&
          decide (Reg.mask g .rws ≠ 0) && decide (0x040 ≤ o) then some (p, g, o) else none
    | none => none
  | _ => none

end Sys2Proof.Machine
end

