-- ==== Sys2Proof/Machine/Stamp.lean ====
section
/-!
DEFINITION. Frame timestamps (R155 to R166) and the PTP field updates at egress (R168 to R173).
-/
namespace Sys2Proof.Machine

/-- The sum of chip time, `u` sixty-fourths of a UI and a signed delay in 2^-16 ns, rounded once to the nearest
2^-16 ns with halves up, modulo 2^48 s (R159, R160). -/
def stampSum (k : Clk) (m : Nat) (u : Int) (cal : Int) : Nat :=
  let b := modeBaud m
  let d : Int := (2 ^ 32 * b : Nat)
  let base : Int := ((k.sec * secUnits + k.ns * 65536 : Nat) : Int) * d + ((k.frac * b : Nat) : Int)
  let num := base + u * ((1024 * 100000 * 2 ^ 32 : Nat) : Int) + cal * d
  (((2 * num + d) / (2 * d)) % (stampWrap : Int)).toNat

/-- Lane skew of LNE_SKEW in sixty-fourths of a UI (R92, R159). -/
def skewOf (c : Chip) (n : Fin 512) : Nat := Chip.fld c (lnePage n) 0x068 25 0

/-- Where a frame's start delimiter was captured: lane-in-port, position P in the word, unit-interval offset
(R158, R36). -/
def rxStamp (k : Clk) (c : Chip) (n : Fin 512) (lane pos off : Nat) : Nat :=
  let m := Chip.modeAt c n
  let stp := stpPage n
  let e := Chip.fld c stp 0x044 7 5
  let u : Int := (pos / modeBits m * 64 + off : Nat) - (skewOf c (Fin.ofNat 512 (n.val + lane)) : Int)
  let cal : Int := -(signed 32 (Chip.getLive c stp (0x100 + 4 * m)).toNat) - signed 32 (Chip.getLive c stp (0x180 + 4 * e)).toNat
  stampSum k m u cal

/-- The egress stamp: chip time at the predicted clock, position P_tx in its word, STP_CAL_TX (R162). `cfg` is the
configuration of the dequeue request (R164). -/
def txStamp (at_ : Clk) (cfg : Chip) (n : Fin 512) (pos : Nat) : Nat :=
  let m := Chip.modeAt cfg n
  stampSum at_ m ((pos / modeBits m * 64 : Nat) : Int) (signed 32 (Chip.getLive cfg (stpPage n) (0x140 + 4 * m)).toNat)

/-- A short stamp extended to 96 bits: the seconds within -32768 to +32767 s of chip time (R42). -/
def extendShort (k : Clk) (s : Nat) : Nat :=
  let low := s / 2 ^ 48 % 2 ^ 16
  let d := signed 16 ((low + 2 ^ 16 - k.sec % 2 ^ 16) % 2 ^ 16)
  let sec := (((k.sec : Int) + d) % (2 ^ 48 : Int)).toNat
  sec * secUnits + s % 2 ^ 48

/-! PTP field updates. -/

/-- A PTP header found in a frame: its offset, and the offset of the UDP header and whether it is IPv6, if any. -/
structure PtpAt where
  off : Nat
  udp : Option (Nat × Bool)
deriving DecidableEq, Repr

/-- Skip up to `q` 802.1Q tags and, if `r`, one R-TAG from the type field at `o`: the offset of the last type field. -/
def skipTags (bs : List Byte) : Nat → Bool → Nat → Nat
  | q, r, o =>
    let t := wireNat bs o 2
    if r && decide (t = 0xF1C1) then tags q (o + 6)
    else
      match q with
      | 0 => o
      | q + 1 => if t = 0x8100 ∨ t = 0x88A8 then skipTags bs q r (o + 4) else o
where
  /-- Up to `q` 802.1Q tags, no R-TAG. -/
  tags : Nat → Nat → Nat
    | 0, o => o
    | q + 1, o => if wireNat bs o 2 = 0x8100 ∨ wireNat bs o 2 = 0x88A8 then tags q (o + 4) else o

/-- A PTP header by the transports of R147, limited by STP_CTL bits 0 ETH_EN, 1 UDP4_EN, 2 UDP6_EN (R168). -/
def ptpTransport (ctl : Nat) (bs : List Byte) : Option PtpAt :=
  let o := skipTags bs 2 true 12
  let t := wireNat bs o 2
  if t = 0x88F7 then (if bit ctl 0 then some ⟨o + 2, none⟩ else none)
  else if t = 0x0800 then
    let ip := o + 2
    let udp := ip + wireNat bs ip 1 % 16 * 4
    if bit ctl 1 && decide (wireNat bs (ip + 9) 1 = 17) && decide (wireNat bs (udp + 2) 2 = 319)
    then some ⟨udp + 8, some (udp, false)⟩ else none
  else if t = 0x86DD then
    let ip := o + 2
    let udp := ip + 40
    if bit ctl 2 && decide (wireNat bs (ip + 6) 1 = 17) && decide (wireNat bs (udp + 2) 2 = 319)
    then some ⟨udp + 8, some (udp, true)⟩ else none
  else none

/-- The PTP header of a message of versionPTP 2, the one supported (R147, R168). -/
def findPtp (ctl : Nat) (bs : List Byte) : Option PtpAt :=
  match ptpTransport ctl bs with
  | some h => if wireNat bs (h.off + 1) 1 % 16 = 2 then some h else none
  | none => none

/-- The ones' complement sum of the 16-bit words of an even-length byte list. -/
def onesSum (bs : List Byte) : Nat :=
  let fold (x : Nat) : Nat := x % 65536 + x / 65536
  let s := ((List.range ((bs.length + 1) / 2)).map (fun i => wireNat bs (2 * i) 2)).sum
  fold (fold (fold s))

/-- The UDP checksum updated for bytes that changed from `old` to `new` (R172): not kept for UDP/IPv4 when it is 0;
a computed 0 is sent as 0xFFFF. -/
def fixChecksum (v6 : Bool) (sum : Nat) (old new : List Byte) : Nat :=
  if !v6 && decide (sum = 0) then 0
  else
    let fold (x : Nat) : Nat := x % 65536 + x / 65536
    let s := (65535 - sum) + (65535 - onesSum old) + onesSum new
    let r := 65535 - fold (fold s)
    if r = 0 then 0xFFFF else r

/-- Bytes of a frame replaced from `o`, with the UDP checksum kept right (R172). -/
def ptpPatch (h : PtpAt) (bs : List Byte) (o : Nat) (xs : List Byte) : List Byte :=
  let old := slice bs o xs.length
  let bs := patch bs o xs
  match h.udp with
  | none => bs
  | some (u, v6) => patch bs (u + 6) (beBytes 2 (fixChecksum v6 (wireNat bs (u + 6) 2) old xs))

/-- correctionField with `add` (2^-16 ns) added: the field and whether it left the signed range (R172). -/
def addCf (cf : Nat) (add : Int) : Nat × Bool :=
  if cf = 0x7FFFFFFFFFFFFFFF then (cf, false)
  else
    let r := signed 64 cf + add
    if decide (-(2 ^ 63 : Int) ≤ r) && decide (r < (2 ^ 63 : Int)) then (unsigned 64 r, false)
    else (0x7FFFFFFFFFFFFFFF, true)

/-- What the PTP update did: nothing asked, skipped, one-step, or transparent clock; with the saturation flag. -/
inductive PtpRes where
  | none | skip
  | oneStep (sat : Bool)
  | tc (sat : Bool)
deriving DecidableEq, Repr

/-- What the update needs to know of a frame (R168 to R171): its HOST flag, whether it goes straight to the port,
its reference stamp, ingress stamp and egress stamp, and the ingress port's link delay. -/
structure PtpArgs where
  ctl     : Nat
  host    : Bool
  ref     : Option Nat
  ingress : Nat
  egress  : Nat
  delay   : Nat
deriving DecidableEq, Repr

/-- correctionField of the message at `h` moved by `add`. -/
def cfUpdate (h : PtpAt) (bs : List Byte) (add : Int) : List Byte × Bool :=
  let r := addCf (wireNat bs (h.off + 8) 8) add
  (ptpPatch h bs (h.off + 8) (beBytes 8 r.1), r.2)

/-- The PTP update of one frame that carries PTP_EVENT (R168 to R172). -/
def ptpEdit (a : PtpArgs) (bs : List Byte) : List Byte × PtpRes :=
  let tcm := bits a.ctl 7 6
  if !(bit a.ctl 4 || bit a.ctl 5 || decide (tcm = 1) || decide (tcm = 2)) then (bs, .none)
  else
    match findPtp a.ctl bs with
    | none => (bs, .skip)
    | some h =>
      if h.off + 34 > 128 then (bs, .skip)
      else
        let mt := wireNat bs h.off 1 % 16
        if a.host then
          if decide (mt = 0) && bit a.ctl 4 then
            if bit (wireNat bs (h.off + 6) 1) 1 then (bs, .none)
            else
              let ts := beBytes 6 (stampSec a.egress) ++ beBytes 4 (stampNsf a.egress / 65536)
              let r := cfUpdate h (ptpPatch h bs (h.off + 34) ts) ((a.egress % 65536 : Nat) : Int)
              (r.1, .oneStep r.2)
          else if decide (mt = 3) && bit a.ctl 5 then
            match a.ref with
            | none => (bs, .skip)
            | some t =>
              let r := cfUpdate h bs (stampDiff a.egress t)
              (r.1, .oneStep r.2)
          else (bs, .skip)
        else if tcm = 1 ∧ mt ≤ 3 then
          let r := cfUpdate h bs (stampDiff a.egress a.ingress)
          (r.1, .tc r.2)
        else if tcm = 2 ∧ mt = 0 then
          let r := cfUpdate h bs (stampDiff a.egress a.ingress + (a.delay : Int))
          (r.1, .tc r.2)
        else (bs, .skip)

/-- The STP counters and causes of an update (R168, R172, R175). -/
def ptpCount (n : Fin 512) (r : PtpRes) (c : Chip) : Chip :=
  let p := stpPage n
  let sat (b : Bool) (c : Chip) : Chip := if b then Chip.cause (Chip.bump c p 0x1D0) p 8 else c
  match r with
  | .none => c
  | .skip => Chip.bump c p 0x1D8
  | .oneStep b => sat b (Chip.bump c p 0x1C0)
  | .tc b => sat b (Chip.bump c p 0x1C8)

/-- STP_STAT of a port after a change of its link, its mode, its loopback or CAL_BAD (R165, R166). A page that is the
lowest lane of no live port is inert: it keeps its values (R88, R175). -/
def stpStat (n : Fin 512) (c : Chip) : Chip :=
  let p := stpPage n
  let unb := !Chip.isUp c n || decide (Chip.lpbk c n ≠ 0) || Chip.flag c .tim 0x044 7
  if Chip.modeAt c n = 0 then c else Chip.setFld (Chip.setFld c p 0x044 1 1 (b2n unb)) p 0x044 0 0 (b2n (!modeNarrow (Chip.modeAt c n)))

end Sys2Proof.Machine
end

