-- ==== Sys2Proof/Machine/Line.lean ====
section
/-!
DEFINITION. The line: bit counters and words of the lanes (R35, R158, R455), the place of a received start (R157), legal
start positions and blackouts of the transmit side (R276, R277, R455), and where a frame's start is placed (R116, R162).
-/
namespace Sys2Proof.Machine

/-! Bit counters (R35, R455). -/

/-- Valid bits of a lane's word, in tenths of a bit a clock on average (R35). -/
def modeAvg (m : Nat) : Nat := modeLine m / 15625

/-- The chip-wide line bit counter of a mode at the start of clock `n` since chip reset (R455). -/
def lineCount (m n : Nat) : Nat := n * modeAvg m / 10

/-- Valid bits of the word of clock `n` (R35, R455). -/
def wordBits (m n : Nat) : Nat := lineCount m (n + 1) - lineCount m n

/-- The clock whose word holds a line bit, and the bit's position in the word (R158, R455). -/
def bitClock (m b : Nat) : Nat := (10 * (b + 1) - 1) / modeAvg m
def bitPos (m b : Nat) : Nat := b - lineCount m (bitClock m b)

/-- A lane's receive bit counter in a clock (R158); `m` is the mode of its port. -/
def laneCount (c : Chip) (l : Fin 512) (m now : Nat) : Nat :=
  let e := kvGet { rate := modeAvg m } c.laneCnt l.val
  e.value + (now * e.rate / 10 - e.at_ * e.rate / 10)

/-- A lane goes over from mode `old` to mode `new`: its counter stands and advances at the new rate (R35, R158).
Assumption 115 (DEDUCED, safe). -/
def laneSettle (now : Nat) (l : Fin 512) (old new : Nat) (c : Chip) : Chip :=
  { c with laneCnt := kvPut c.laneCnt l.val ⟨laneCount c l old now, now, modeAvg new⟩ }

/-! The place of a received start (R157, R158). -/

/-- May block type 0x33 start a frame in the mode (R157)? Assumption 116 (DEDUCED, unsafe). -/
def halfStarts (m : Nat) : Bool := decide (m = 1) || decide (m = 2)

/-- Start position in a 64b/66b block, its sync header being bits 0 and 1 (R157). -/
def startBit (m : Nat) (half : Bool) : Nat := if half && halfStarts m then 38 else 2

/-- Bit `b` of a control block followed into its 257-bit group (R157): five bits of header, 64 bits of payload a block,
the type of the first control block cut to four bits. Assumption 117 (PRESUMED, unsafe). -/
def transBit (block first b : Nat) : Nat :=
  let p := b - 2
  if block > first then 1 + 64 * block + p else if p < 8 then 5 + 64 * block + p else 1 + 64 * block + p

/-- Counter value of the start bit on its lane (R158). -/
def startLine (m : Nat) (r : RxCapture) : Nat :=
  let b := startBit m r.half
  match r.start with
  | .fec lcw g block first =>
    let p := 257 * g + transBit block.val first.val b
    lcw + 10 * (p / 10 / modeLanes m) + p % 10
  | .block lblk => lblk + b

/-- How many clocks ago the word with the start bit was presented, and the bit's position P in it (R158); `m` is the mode
that the port's lanes follow. -/
def startWord (c : Chip) (n : Fin 512) (m : Nat) (r : RxCapture) (now : Nat) : Nat × Nat :=
  let l : Fin 512 := Fin.ofNat 512 (n.val + r.lane)
  let b := startLine m r
  let count (t : Nat) : Nat := laneCount c l m t
  if count now ≤ b then (0, b - count now)
  else
    let i := ceilDiv (10 * (count now - b)) (modeAvg m)
    let i := ([i - 1, i, i + 1].find? (fun i => decide (count (now - i) ≤ b))).getD i
    (i, b - count (now - i))

/-- Chip time `n` clocks before `k`, under one increment. -/
def Clk.back (k : Clk) (n : Nat) : Clk :=
  let unit : Nat := 1000000000 * 2 ^ 48
  let t : Int := ((k.sec * unit + k.ns * 2 ^ 48 + k.frac : Nat) : Int) - ((n * k.incr : Nat) : Int)
  let v := (t % ((2 ^ 48 * unit : Nat) : Int)).toNat
  { k with sec := v / unit, ns := v % unit / 2 ^ 48, frac := v % 2 ^ 48 }

/-- T(C) of the clock `n` clocks ago (R158): chip time as the counter held it then. Assumption 118 (DEDUCED, safe). -/
def timeBefore (k : Clk) (t : TimeSt) (n : Nat) : Clk :=
  match t.before with
  | some (a, b) => if Clk.abs k < a + n then Clk.back b (a + n - Clk.abs k) else Clk.back k n
  | none => Clk.back k n

/-- The word of a captured start. -/
def startCapture (k : Clk) (c : Chip) (n : Fin 512) (m : Nat) (r : RxCapture) : RxWord :=
  let w := startWord c n m r (Clk.abs k)
  { lane := r.lane, pos := w.2, off := r.off, clk := timeBefore k c.time w.1 }

/-! Legal start positions and blackouts, as line bits of a port's lowest lane (R276, R277, R455). -/

/-- What fixes the positions: the mode and FEC_OFF. -/
structure LineMode where
  m   : Nat
  off : Bool
deriving DecidableEq, Repr

def Chip.line (c : Chip) (n : Fin 512) : LineMode := ⟨Chip.modeAt c n, Chip.fecOff c n⟩

/-- Symbols of an RS codeword of the lines, 514 of them data; 0 without FEC (R83). -/
def fecSyms (a : LineMode) : Nat :=
  if a.m = 1 ∨ ((a.m = 2 ∨ a.m = 4) ∧ a.off = true) then 0 else if a.m = 2 ∨ a.m = 4 then 528 else 544

/-- Codewords that a mode interleaves symbol by symbol (R158). Assumption 119 (PRESUMED, unsafe). -/
def interleave (m : Nat) : Nat := if m < 7 then 1 else if m < 13 then 2 else 4

/-- Lane bits of the codewords interleaved with one another, and the parity among them. -/
def cwBits (a : LineMode) : Nat := 10 * fecSyms a * interleave a.m / modeLanes a.m
def parityBits (a : LineMode) : Nat := 10 * (fecSyms a - 514) * interleave a.m / modeLanes a.m

/-- Lane bits from one alignment-marker group to the next; none in the modes without markers (R455).
Assumption 120 (PRESUMED, unsafe). -/
def markerSpace (a : LineMode) : Option Nat :=
  if a.m = 1 ∨ (a.m = 2 ∧ a.off = true) then none
  else some (lineCount a.m (if a.m = 2 ∨ a.m = 4 ∨ a.m = 5 ∨ a.m = 6 then 327680 else 163840))

/-- Longest blackout of a mode in tenths of a nanosecond (R277). -/
def blackoutNs (a : LineMode) : Nat :=
  match a.m with
  | 2 => if a.off then 0 else 69
  | 3 => 82 | 4 => if a.off then 128 else 142 | 5 => 91 | 6 => 91 | 7 => 74 | 8 => 74 | 9 => 74
  | 10 => 62 | 11 => 62 | 12 => 62 | 13 => 53 | 14 => 53 | 15 => 29 | _ => 0

/-- Lane bits of an alignment-marker group: with the parity sent before it, it is the mode's longest blackout (R277).
Assumption 121 (DEDUCED, unsafe). -/
def blackoutBits (a : LineMode) : Nat := blackoutNs a * modeLine a.m / 1000000 - parityBits a

/-- Largest start spacing of a mode in picoseconds (R277). -/
def startSpacing (m : Nat) : Nat :=
  match m with
  | 1 => 3300 | 2 => 1320 | 3 => 1360 | 4 => 660 | 5 => 680 | 6 => 680 | 7 => 340 | 8 => 340 | 9 => 340
  | 10 => 170 | 11 => 170 | 12 => 170 | 13 => 85 | 14 => 85 | 15 => 43 | _ => 0

/-- First lane bit after the blackout that holds bit `b`, and the last bit before it; none outside a blackout. -/
def blackoutEnd (a : LineMode) (b : Nat) : Option Nat :=
  match markerSpace a with
  | some s => if b % s < blackoutBits a then some (b - b % s + blackoutBits a) else none
  | none => none

def blackoutStart (a : LineMode) (b : Nat) : Nat :=
  match markerSpace a with
  | some s => b - b % s
  | none => b

/-- Lane bit of bit `s` of block number `j` since counter value 0 (R455): with FEC followed into its 257-bit group, behind whose
first block, a control block, a start comes, and into the codeword's symbols and lanes as on receive (R158); without FEC
block after block. -/
def blockLine (a : LineMode) (s j : Nat) : Nat :=
  let l := modeLanes a.m
  if fecSyms a = 0 then (66 * j + s) / l
  else
    let per := 80 * interleave a.m
    let p := 257 * (j % per / 4) + transBit (j % 4) 0 s
    j / per * cwBits a + 10 * (p / 10 / l) + p % 10

/-- The block at lane bit `b`, or near it. -/
def blockAt (a : LineMode) (b : Nat) : Nat :=
  let l := modeLanes a.m
  if fecSyms a = 0 then b * l / 66
  else
    let per := 80 * interleave a.m
    b / cwBits a * per + min per (b % cwBits a * l * 4 / 257)

/-- Starts of the blocks around lane bit `b`, rising. -/
def blockStarts (a : LineMode) (b : Nat) : List Nat :=
  let i := blockAt a b
  sortBy (fun x y => decide (x ≤ y)) ((List.range 8).flatMap (fun j =>
    (if halfStarts a.m then [2, 38] else [2]).map (fun s => blockLine a s (i + j - 3))))

/-- The first legal start at or after a lane bit; `n` bounds the blackouts passed. -/
def nextStart (a : LineMode) : Nat → Nat → Nat
  | 0, b => b
  | n + 1, b =>
    match blackoutEnd a b with
    | some e => nextStart a n e
    | none =>
      match (blockStarts a b).find? (fun s => decide (b ≤ s)) with
      | some s => if (blackoutEnd a s).isSome then nextStart a n s else s
      | none => b

/-- The last legal start at or before a lane bit. -/
def prevStart (a : LineMode) : Nat → Nat → Nat
  | 0, b => b
  | n + 1, b =>
    match blackoutEnd a b with
    | some _ => prevStart a n (blackoutStart a b - 1)
    | none =>
      match (blockStarts a b).reverse.find? (fun s => decide (s ≤ b)) with
      | some s => if (blackoutEnd a s).isSome then prevStart a n s else s
      | none => b

/-- When a lane bit is in its word, and the first bit at or after a time, in 1/3200 clock. -/
def bitTime (m b : Nat) : Nat := b * 32000 / modeAvg m
def bitAt (m t : Nat) : Nat := ceilDiv (t * modeAvg m) 32000

/-! Where a frame's start is placed (R116, R117, R162). -/

/-- The wire time of `bytes` at a port's MAC rate, in 1/3200 clock (R117). -/
def wireTime (m bytes : Nat) : Nat := bytes * 40000 / modeSpeed m

/-- Average gap of a port (R116). -/
def portIpg (c : Chip) (n : Fin 512) : Nat := Chip.live c (prtPage n) 0x10C 4 0

/-- A placed start: its line bit on the lowest lane, and the port's line after the frame. -/
structure Launch where
  bit     : Nat
  lineEnd : Nat
  deficit : Nat
deriving DecidableEq, Repr

/-- The start of a frame of `len` bytes that reaches the transmit words at clock `ready` at the earliest: the first
legal position behind the frame ahead and its gap, which the deficit idle count may cut by up to 3 bytes in all, and not
before `goal` (R116, R117, R162). `q` holds the frame's configuration. Assumption 122 (DEDUCED, unsafe). -/
def place (q : Chip) (p : PortSt) (n : Fin 512) (ready len goal : Nat) : Launch :=
  let a := Chip.line q n
  let full := p.lineEnd + wireTime a.m (portIpg q n)
  let least := if p.lineEnd = 0 then 0 else full - (wireTime a.m 3 - p.deficit)
  let b := nextStart a 8 (max (bitAt a.m (max (ready * 3200) least)) goal)
  let t := bitTime a.m b
  { bit := b, lineEnd := t + wireTime a.m (len + 8)
    deficit := if p.lineEnd = 0 then 0 else if t < full then p.deficit + (full - t) else p.deficit - (t - full) }

/-- Clock C_tx and position P_tx of a placed start (R162). -/
def Launch.clock (l : Launch) (m : Nat) : Nat := bitClock m l.bit
def Launch.pos (l : Launch) (m : Nat) : Nat := bitPos m l.bit

/-- The egress stamp of a start placed at a line bit (R162). -/
def bitStamp (k : Clk) (t : TimeSt) (q : Chip) (n : Fin 512) (b : Nat) : Nat :=
  let m := Chip.modeAt q n
  txStamp (timeAfter k t (bitClock m b - Clk.abs k)) q n (bitPos m b)

/-- The port's line after a placed frame. -/
def setLaunch (n : Fin 512) (l : Launch) (c : Chip) : Chip :=
  setPort n { Chip.port c n with lineEnd := l.lineEnd, deficit := l.deficit } c

end Sys2Proof.Machine
end

