-- ==== Sys2Proof/Machine/Aes.lean ====
section
/-!
DEFINITION. AES-256 (FIPS 197) and AES-256-CMAC (NIST SP 800-38B), which the seals use (R302, R305).
-/
namespace Sys2Proof.Machine

/-- Multiplication by x in GF(2^8). -/
def gfDouble (a : Nat) : Nat := if a ≥ 128 then (a * 2 % 256) ^^^ 0x1B else a * 2

/-- The S-box: FIPS 197 gives it as a table, a row here for each first hexadecimal digit of the byte, its column 0 first. -/
def sboxRows : List Nat := [
  0x637c777bf26b6fc53001672bfed7ab76, 0xca82c97dfa5947f0add4a2af9ca472c0,
  0xb7fd9326363ff7cc34a5e5f171d83115, 0x04c723c31896059a071280e2eb27b275,
  0x09832c1a1b6e5aa0523bd6b329e32f84, 0x53d100ed20fcb15b6acbbe394a4c58cf,
  0xd0efaafb434d338545f9027f503c9fa8, 0x51a3408f929d38f5bcb6da2110fff3d2,
  0xcd0c13ec5f974417c4a77e3d645d1973, 0x60814fdc222a908846eeb814de5e0bdb,
  0xe0323a0a4906245cc2d3ac629195e479, 0xe7c8376d8dd54ea96c56f4ea657aae08,
  0xba78252e1ca6b4c6e8dd741f4bbd8b8a, 0x703eb5664803f60e613557b986c11d9e,
  0xe1f8981169d98e949b1e87e9ce5528df, 0x8ca1890dbfe6426841992d0fb054bb16]

/-- The S-box of a byte. -/
def sbox (a : Nat) : Nat := sboxRows.getD (a / 16) 0 / 2 ^ (8 * (15 - a % 16)) % 256

def xorL (a b : List Nat) : List Nat := (a.zip b).map (fun x => x.1 ^^^ x.2)

/-- Key words of the schedule after the first eight, latest first: `n` more words; `i` is the next word's number. -/
def keyWords : Nat → Nat → Nat → List (List Nat) → List (List Nat)
  | 0, _, _, ws => ws
  | n + 1, i, rcon, ws =>
    let t := ws.headD []
    let u := if i % 8 = 0 then
        xorL ((t.drop 1 ++ t.take 1).map sbox) [rcon, 0, 0, 0]
      else if i % 8 = 4 then t.map sbox else t
    keyWords n (i + 1) (if i % 8 = 0 then gfDouble rcon else rcon) (xorL (ws.getD 7 []) u :: ws)

/-- Lists of four. -/
def fours : Nat → List Nat → List (List Nat)
  | 0, _ => []
  | n + 1, xs => xs.take 4 :: fours n (xs.drop 4)

/-- The fifteen round keys of a 32-byte key. -/
def roundKeys (key : List Nat) : List (List Nat) :=
  let ws := (keyWords 52 8 1 (fours 8 key).reverse).reverse
  (List.range 15).map (fun r => ((ws.drop (4 * r)).take 4).flatten)

/-- SubBytes and ShiftRows. -/
def subShift (s : List Nat) : List Nat := (List.range 16).map (fun i => sbox (s.getD ((i + 4 * (i % 4)) % 16) 0))

/-- MixColumns of one column. -/
def mixCol (c : List Nat) : List Nat :=
  (List.range 4).map (fun i =>
    gfDouble (c.getD i 0) ^^^ gfDouble (c.getD ((i + 1) % 4) 0) ^^^ c.getD ((i + 1) % 4) 0 ^^^
    c.getD ((i + 2) % 4) 0 ^^^ c.getD ((i + 3) % 4) 0)

def mixCols (s : List Nat) : List Nat := ((fours 4 s).map mixCol).flatten

/-- One block under the round keys. -/
def aesRounds (rks : List (List Nat)) (block : List Nat) : List Nat :=
  let s := xorL block (rks.headD [])
  let s := ((rks.drop 1).take 13).foldl (fun s rk => xorL (mixCols (subShift s)) rk) s
  xorL (subShift s) (rks.getD 14 [])

/-- AES-256 of one block. -/
def aes256 (key block : List Byte) : List Byte :=
  (aesRounds (roundKeys (key.map (·.toNat))) (block.map (·.toNat))).map (BitVec.ofNat 8)

/-- Doubling in GF(2^128), for the CMAC subkey. -/
def cmacDouble (b : List Byte) : List Byte :=
  let v := beNat b
  beBytes 16 (if v ≥ 2 ^ 127 then (v * 2 % 2 ^ 128) ^^^ 0x87 else v * 2)

def xorB (a b : List Byte) : List Byte := (a.zip b).map (fun x => x.1 ^^^ x.2)

/-- Blocks of sixteen bytes. -/
def blocks16 : Nat → List Byte → List (List Byte)
  | 0, _ => []
  | n + 1, bs => bs.take 16 :: blocks16 n (bs.drop 16)

/-- AES-256-CMAC of a message: a last block that is whole is masked with the first subkey, any other is padded with a bit
1 and zeros and masked with the second. -/
def cmac (key msg : List Byte) : List Byte :=
  let rks := roundKeys (key.map (·.toNat))
  let enc (b : List Byte) : List Byte := (aesRounds rks (b.map (·.toNat))).map (BitVec.ofNat 8)
  let k1 := cmacDouble (enc (List.replicate 16 0))
  let n := (max 1 msg.length + 15) / 16
  let bs := blocks16 n msg
  let x := (bs.take (n - 1)).foldl (fun x b => enc (xorB x b)) (List.replicate 16 0)
  let b := bs.getD (n - 1) []
  let y := if b.length = 16 then xorB b k1 else xorB (b ++ [0x80] ++ List.replicate (15 - b.length) 0) (cmacDouble k1)
  enc (xorB x y)

end Sys2Proof.Machine
end

