-- ==== Sys2Proof/Machine/Journal.lean ====
section
/-!
DEFINITION. The Sherd journal and the Renzu seals (R288 to R308) and the key slots (R305).
-/
namespace Sys2Proof.Machine

def jrnPage (x : Cx) : Page := onePage x .jrn

/-- The journal state of a complex. -/
def Chip.jrnOf (c : Chip) (x : Cx) : JrnSt := kvGet {} c.jrn x.val

/-- The journal state of a complex set, with BUF_USED and GAP_OPEN of JRN_STAT (R309). -/
def setJrn (x : Cx) (j : JrnSt) (c : Chip) : Chip :=
  let c := Chip.setFld { c with jrn := kvPut c.jrn x.val j } (jrnPage x) 0x044 16 0 j.buf.length
  Chip.setFld c (jrnPage x) 0x044 30 30 (b2n j.lost.isSome)

/-- The complex journals in shadow mode (R296). -/
def Chip.inShadow (c : Chip) (x : Cx) : Bool := Chip.flag c (jrnPage x) 0x044 31

/-- Offset of the counter, and of the low half of the chain head, of a journal (R309). -/
def seqOff (sh : Bool) : Nat := if sh then 0x060 else 0x048
def chainOff (sh : Bool) : Nat := if sh then 0x068 else 0x050

/-- Next sequence of a journal. -/
def jrnNext (c : Chip) (x : Cx) (sh : Bool) : Nat := (Chip.get c (jrnPage x) (seqOff sh)).toNat

/-- The chain head of a journal, 16 bytes. -/
def jrnChain (c : Chip) (x : Cx) (sh : Bool) : List Byte :=
  leBytes 8 (Chip.get c (jrnPage x) (chainOff sh)).toNat ++ leBytes 8 (Chip.get c (jrnPage x) (chainOff sh + 8)).toNat

def setChain (x : Cx) (sh : Bool) (tag : List Byte) (c : Chip) : Chip :=
  Chip.put (Chip.put c (jrnPage x) (chainOff sh) (BitVec.ofNat 64 (memNat tag 0 8))) (jrnPage x) (chainOff sh + 8)
    (BitVec.ofNat 64 (memNat tag 8 8))

/-- The ID word (R300). -/
def idWord (c : Chip) (x : Cx) (slot : Nat) (sh : Bool) : Nat :=
  Chip.live c .tim 0x04C 11 0 + 2 ^ 12 * x.val + 2 ^ 13 * slot + 2 ^ 15 * b2n sh

/-- The open range of a journal. -/
def JrnSt.range (j : JrnSt) (sh : Bool) : Option JRange := if sh then j.shad else j.main

def JrnSt.setRange (j : JrnSt) (sh : Bool) (r : Option JRange) : JrnSt :=
  if sh then { j with shad := r } else { j with main := r }

/-- Live SEAL_EN, on a part with the seal engine (R308). -/
def sealOn (c : Chip) (x : Cx) : Bool := hasSeal c.part && Chip.liveFlag c (jrnPage x) 0x040 20

/-- The buffer is full: every reserved place holds a record (R297, R298). Assumption 78 (DEDUCED, unsafe). -/
def jrnFull (j : JrnSt) : Bool := decide (j.buf.length ≥ 65536)

/-- The open range of a journal closed (R301): its key slot is looked at now (R304). Assumption 79 (DEDUCED, unsafe). -/
def closeRange (x : Cx) (sh : Bool) (c : Chip) : Chip :=
  let j := Chip.jrnOf c x
  match JrnSt.range j sh with
  | none => c
  | some r =>
    let cl : JClosed := ⟨sh, r.first, jrnNext c x sh - r.first, r.slot, (kvFind c.keys r.slot).isSome, r.recs.reverse, j.now⟩
    setJrn x { JrnSt.setRange j sh none with closed := j.closed ++ [cl] } c

/-- The open range has reached SPAN 1,024 (R301). -/
def spanDue (c : Chip) (x : Cx) (sh : Bool) : Bool :=
  match JrnSt.range (Chip.jrnOf c x) sh with
  | some r => decide (jrnNext c x sh ≥ r.first + 1024)
  | none => false

/-- The range closes in the clock in which its SPAN reaches 1,024, or waits for a place behind what waits already (R298,
R301). -/
def closeSpan (x : Cx) (sh : Bool) (c : Chip) : Chip :=
  let j := Chip.jrnOf c x
  if !spanDue c x sh then c
  else if !jrnFull j then closeRange x sh c
  else if j.events.contains (.close sh) then c
  else setJrn x { j with events := j.events ++ [.close sh] } c

/-- The next sequence number taken: it opens a range where none is open, and counts in its clock (R291, R301, R304). -/
def takeSeq (x : Cx) (sh : Bool) (c : Chip) : Chip × Nat :=
  let p := jrnPage x
  let n := jrnNext c x sh
  let j := Chip.jrnOf c x
  let j := if (JrnSt.range j sh).isNone && sealOn c x
    then JrnSt.setRange j sh (some { first := n, slot := Chip.live c p 0x040 23 22 }) else j
  let j := { j with clock := j.now, formed := if j.clock = j.now then j.formed + 1 else 1 }
  (Chip.put (setJrn x j c) p (seqOff sh) (BitVec.ofNat 64 (n + 1)), n)

/-- The kind word (R292). -/
def kindWord (flags colour cls kind dir port : Nat) : Nat :=
  flags % 4096 * 2 ^ 20 + colour % 4 * 2 ^ 18 + cls % 16 * 2 ^ 14 + kind * 2 ^ 10 + dir * 2 ^ 9 + port % 512

/-- A record with its check (R293, R294): `a` is bytes 8-19 and `b` bytes 24-43. -/
def recordBytes (seq kw : Nat) (a b : List Byte) : List Byte :=
  let r := leBytes 8 seq ++ slice a 0 12 ++ leBytes 4 kw ++ slice b 0 20
  r ++ leBytes 4 (crc32cFrom (0xFFFFFFFF ^^^ (seq % 2 ^ 32) ^^^ (seq / 2 ^ 32 % 2 ^ 32)) r)

/-- KIND of a record's bytes. -/
def recKind (r : List Byte) : Nat := bits (memNat r 20 4) 13 10

/-- A record kept: it enters the buffer, and the seal engine takes it in (R297, R302). -/
def keepRecord (x : Cx) (sh : Bool) (r : List Byte) (c : Chip) : Chip :=
  let j := Chip.jrnOf c x
  let j := match JrnSt.range j sh with
    | some g => JrnSt.setRange j sh (some { g with recs := r :: g.recs, other := g.other || decide (recKind r ≠ 2) })
    | none => j
  let j := { j with buf := j.buf ++ [r] }
  let c := setJrn x j c
  if j.buf.length = 32768 then Chip.cause c (jrnPage x) 9 else c

/-- A record other than FRAME and VOID formed; a place is free (R298). -/
def formOther (x : Cx) (sh : Bool) (kind flags : Nat) (a b : List Byte) (c : Chip) : Chip :=
  let s := takeSeq x sh c
  closeSpan x sh (keepRecord x sh (recordBytes s.2 (kindWord (flags + 128 * b2n sh) 0 0 kind 0 0) a b) s.1)

/-- The lost run closed by a GAP record (R299): a GAP that waits for the slip epoch's sake is owed no more. -/
def formGap (x : Cx) (c : Chip) : Chip :=
  let j := Chip.jrnOf c x
  match j.lost with
  | none => c
  | some l =>
    let c := setJrn x { j with lost := none, events := j.events.filter (· ≠ .gap) } c
    let c := formOther x (Chip.inShadow c x) 3 0 (leBytes 8 l.first ++ leBytes 4 (l.last + 1 - l.first))
      (leBytes 4 l.count ++ leBytes 8 l.stampF ++ leBytes 8 l.stampL) c
    Chip.cause (Chip.bump c (jrnPage x) 0x118) (jrnPage x) 8

/-- Bytes 8-43 of START and STOP records (R293). -/
def timeBody (k : Clk) (c : Chip) (x : Cx) (sh : Bool) : List Byte × List Byte :=
  (leBytes 12 (stamp96 (Clk.stamp k)), leBytes 2 (idWord c x 0 sh) ++ [0, 0] ++ leBytes 8 k.turn)

def formStart (k : Clk) (x : Cx) (cause : Nat) (c : Chip) : Chip :=
  let sh := Chip.inShadow c x
  let b := timeBody k c x sh
  let c := formOther x sh 5 (cause * 256) b.1 b.2 c
  setJrn x { Chip.jrnOf c x with running := true, stopped := false } c

/-- STOP, and the close of its range (R306). -/
def formStop (k : Clk) (x : Cx) (cause : Nat) (c : Chip) : Chip :=
  let sh := Chip.inShadow c x
  let b := timeBody k c x sh
  let c := formOther x sh 6 (cause * 256) b.1 b.2 c
  closeRange x sh (setJrn x { Chip.jrnOf c x with running := false, stopped := true } c)

/-- The seal of the oldest closed range (R302 to R304): its SEAL record stands in the range's own journal. -/
def formSeal (x : Cx) (c : Chip) : Chip :=
  let j := Chip.jrnOf c x
  match j.closed with
  | [] => c
  | r :: rest =>
    let p := jrnPage x
    let c := setJrn x { j with closed := rest } c
    let key := if r.keyed && Chip.enabled c .sel then kvFind c.keys r.slot else none
    let id := idWord c x r.slot r.shadow
    let present := r.recs.length
    let seq := jrnNext c x r.shadow
    let trailer := jrnChain c x r.shadow ++ leBytes 8 r.first ++ leBytes 4 r.span ++ leBytes 2 id ++ leBytes 2 present ++
      leBytes 8 seq ++ leBytes 8 0
    let tag := match key with | some kk => cmac kk (r.recs.flatten ++ trailer) | none => List.replicate 16 0
    let c := formOther x r.shadow 2 (b2n key.isNone) (leBytes 8 r.first ++ leBytes 4 r.span)
      (leBytes 2 id ++ leBytes 2 present ++ tag) c
    let c := Chip.bump (setChain x r.shadow tag c) p 0x110
    let c := if r.shadow then c else
      let j := Chip.jrnOf c x
      let turn := j.now / 1600 * 1600
      let late := j.sealed.takeWhile (fun e => decide (turn < e.1))
      setJrn x { j with
        sealed := (r.closeC, r.first + r.span - 1, tag, id) :: (late ++ (j.sealed.drop late.length).take 1) } c
    match key with
    | some _ => Chip.bump c .sel 0x080
    | none => Chip.cause (Chip.bump c p 0x128) p 10

/-- Entry to shadow mode, after STOP (R296). -/
def setShadow (x : Cx) (on : Bool) (c : Chip) : Chip := Chip.setFld c (jrnPage x) 0x044 31 31 (b2n on)

/-- The main journal taken over after AGREED, and its TAKEOVER record (R307). -/
def formTakeover (x : Cx) (t : JTake) (c : Chip) : Chip :=
  let p := jrnPage x
  let c := setShadow x false c
  let c := setJrn x { JrnSt.setRange (Chip.jrnOf c x) false none with running := true, stopped := false } c
  let c := setChain x false t.tag (Chip.put c p 0x048 (BitVec.ofNat 64 (t.agreed + 1)))
  let c := formOther x false 4 (b2n t.unsync) (leBytes 8 t.agreed ++ leBytes 4 t.oldEp)
    (leBytes 4 t.newEp ++ leBytes 8 t.sFrom ++ leBytes 8 (Chip.jrnOf c x).sTo) c
  Chip.bump c p 0x130

/-- The events that wait, set. -/
def setEvents (x : Cx) (es : List JEvent) (c : Chip) : Chip := setJrn x { Chip.jrnOf c x with events := es } c

/-- The event `e` at the head of those that wait performed, `es` being those behind it (R298). Each needs one place: a STOP
that owes a GAP forms that first, and the final seals follow one by one (R299, R306). -/
def jrnEvent (k : Clk) (x : Cx) (e : JEvent) (es : List JEvent) (c : Chip) : Chip :=
  let d := setEvents x es c
  match e with
  | .gap => formGap x d
  | .start cause => formStart k x cause d
  | .stop cause => if (Chip.jrnOf c x).lost.isSome then formGap x c else formStop k x cause d
  | .close sh => closeRange x sh d
  | .sealOne => formSeal x d
  | .seal => setEvents x ((Chip.jrnOf c x).closed.map (fun _ => .sealOne) ++ es) c
  | .toShadow => setShadow x true d
  | .toMain => setShadow x false d
  | .mark => setJrn x { Chip.jrnOf d x with sTo := jrnNext d x true - 1 } d
  | .takeover t => formTakeover x t d

/-- Waiting events performed in order while places are free, at most `n` of them. -/
def jrnRun (k : Clk) (x : Cx) : Nat → Chip → Chip
  | 0, c => c
  | n + 1, c =>
    let j := Chip.jrnOf c x
    match j.events with
    | [] => c
    | e :: es => if jrnFull j then c else jrnRun k x n (jrnEvent k x e es c)

/-- Everything that waits for a place and can go (R298). -/
def jrnDrain (k : Clk) (x : Cx) (c : Chip) : Chip :=
  let j := Chip.jrnOf c x
  jrnRun k x (j.closed.length + 4 * j.events.length) (setJrn x { j with now := Clk.abs k } c)

/-- Events that happen now: performed, or left waiting (R298). -/
def jrnRaise (k : Clk) (x : Cx) (es : List JEvent) (c : Chip) : Chip :=
  let j := Chip.jrnOf c x
  jrnDrain k x (setJrn x { j with events := j.events ++ es } c)

/-- A record or a close waits for a reserved place: each such clock counts (R298). -/
def jrnWaits (c : Chip) (x : Cx) : Bool :=
  let j := Chip.jrnOf c x
  jrnFull j && !j.events.isEmpty

/-- A FRAME or VOID record formed at clock `k`: kept, or lost (R291, R297, R299). The record's sequence is answered. -/
def formData (k : Clk) (x : Cx) (r : JPend) (c : Chip) : Chip × Nat :=
  let c := jrnDrain k x c
  let p := jrnPage x
  let sh := Chip.inShadow c x
  let j := Chip.jrnOf c x
  let n := (if j.clock = Clk.abs k then j.formed + 1 else 1) + b2n j.lost.isSome
  if n > 64 ∨ j.buf.length ≥ 65472 then
    let s := takeSeq x sh c
    let j := Chip.jrnOf s.1 x
    let l : JLost := match j.lost with
      | some l => { l with last := s.2, count := l.count + 1, stampL := r.stamp }
      | none => ⟨s.2, s.2, 1, r.stamp, r.stamp⟩
    (closeSpan x sh (Chip.bump (setJrn x { j with lost := some l } s.1) p 0x120), s.2)
  else
    let s := takeSeq x sh (formGap x c)
    (closeSpan x sh (Chip.bump (keepRecord x sh (recordBytes s.2 (r.kw + 128 * b2n sh * 2 ^ 20) r.a r.b) s.1) p r.cnt), s.2)

/-- A data record's place among those of its clock: after those that are not behind it in R291's order. -/
def pendInsert (r : JPend) : List JPend → List JPend
  | [] => [r]
  | q :: qs => if r.ord < q.ord then r :: q :: qs else q :: pendInsert r qs

/-- A data record is to be formed in this clock. -/
def pendData (x : Cx) (r : JPend) (c : Chip) : Chip :=
  let j := Chip.jrnOf c x
  setJrn x { j with pend := pendInsert r j.pend } c

/-- The sequence of a record, `ids` being those of this clock's egress records. -/
def RecRef.find (ids : List (Nat × Nat)) (r : RecRef) : Option Nat :=
  match r with
  | .seq n => some n
  | .id i => kvFind ids i

/-- A copy learns the sequence of its egress record. -/
def setRecSeq (port i n : Nat) (c : Chip) : Chip :=
  let q : Fin 512 := Fin.ofNat 512 port
  let p := Chip.port c q
  if p.tx.any (fun f => decide (f.seq = some (.id i)))
  then setPort q { p with tx := p.tx.map (fun f => if f.seq = some (.id i) then { f with seq := some (.seq n) } else f) } c
  else c

/-- One data record of the clock formed. A frame that would be journalled in a stopped journal is counted (R306), and a VOID
record of a record that was not formed is none. -/
def flushOne (k : Clk) (x : Cx) (a : Chip × List (Nat × Nat)) (r : JPend) : Chip × List (Nat × Nat) :=
  let j := Chip.jrnOf a.1 x
  if !j.running then (if j.stopped && r.voids.isNone then Chip.bump a.1 (jrnPage x) 0x138 else a.1, a.2)
  else
    match r.voids, r.voids.bind (RecRef.find a.2) with
    | some _, none => a
    | some _, some n => ((formData k x { r with a := leBytes 8 n ++ r.a } a.1).1, a.2)
    | none, _ =>
      let s := formData k x r a.1
      match r.mark with
      | some m => (setRecSeq m.1 m.2 s.2 s.1, kvPut a.2 m.2 s.2)
      | none => (s.1, a.2)

/-- The clock is over: its data records are formed, in R291's order. -/
def jrnFlush (k : Clk) (x : Cx) (c : Chip) : Chip :=
  let j := Chip.jrnOf c x
  if j.pend.isEmpty then c
  else (j.pend.foldl (flushOne k x) (setJrn x { j with pend := [] } c, [])).1

/-- What a FRAME record says (R292, R293, R295). -/
structure FrameRec where
  flags   : Nat
  colour  : Nat
  cls     : Nat
  dir     : Nat
  port    : Nat
  stamp   : Nat
  session : Nat
  appSeq  : Nat
  len     : Nat
  gen     : Nat
  head    : List Byte
deriving DecidableEq, Repr

/-- A FRAME record of this clock (R289, R290), where the complex journals such records in the frame's configuration `cfg`
(R33, R288). It is formed as the clock passes, and its number among the clock's data records is answered. -/
def formFrame (x : Cx) (cfg : List (Nat × Word)) (r : FrameRec) (c : Chip) : Chip × Option RecRef :=
  if !Chip.liveFlag { c with regs := cfg } (jrnPage x) 0x040 (16 + r.dir) then (c, none)
  else
    let i := (Chip.jrnOf c x).pend.length
    (pendData x
      { ord := 512 * r.dir + r.port, kw := kindWord r.flags r.colour r.cls 1 r.dir r.port, cnt := 0x100
        stamp := stampShort r.stamp, a := leBytes 12 (stamp96 r.stamp)
        b := leBytes 4 (r.session % 2 ^ 18) ++ leBytes 8 r.appSeq ++ leBytes 2 (r.len % 2 ^ 14) ++ leBytes 2 r.gen ++
          leBytes 4 (crc32c (r.head.take 256))
        mark := if r.dir = 1 then some (r.port, i) else none } c,
     some (.id i))

/-- A VOID record of this clock for the egress record `rec` (R290). -/
def formVoid (k : Clk) (x : Cx) (cause port : Nat) (rec : RecRef) (sent : Nat) (c : Chip) : Chip :=
  pendData x { ord := 1024, kw := kindWord (cause * 256) 0 0 7 1 port, cnt := 0x108, stamp := shortStamp k
               a := leBytes 4 (sent % 2 ^ 14), b := [], voids := some rec } c

/-- FATE of a forwarded frame (R289): 4 where its end-of-frame word says FCS_BAD, TRUNC or STOMP. -/
def forwardFate (f : Frame) : Nat := if f.fcsBad || f.trunc || f.stomp then 4 else 0

/-- The ingress record of a frame whose end has been received and whose fate is known (R288, R289). -/
def ingressRecord (f : Frame) (c : Chip) : Chip × Frame :=
  match f.fate with
  | none => (c, f)
  | some fate =>
    if !(f.ended && f.sesValid && f.jrn && !f.recorded) then (c, f)
    else
      let x : Cx := Fin.ofNat 2 (f.pg / 32)
      let port := match f.host with | some h => h.2 | none => f.port
      let flags := b2n f.unlocked + 2 * b2n f.gap + 4 * b2n f.dup + 8 * b2n f.resync + 16 * b2n f.two +
        32 * b2n f.host.isSome + 256 * (if fate = 0 then forwardFate f else fate)
      let r := formFrame x f.cfg ⟨flags, f.colour, f.cls, 0, port, f.stamp, f.session, f.appSeq, f.bytes.length, f.gen,
        f.bytes⟩ c
      (r.1, { f with recorded := true })

/-- A slip epoch begins (R299, R301): the lost run is declared and the range closes. -/
def jrnEpoch (k : Clk) (x : Cx) (c : Chip) : Chip :=
  let j := Chip.jrnOf c x
  if !j.running then c
  else
    let sh := Chip.inShadow c x
    let gap : List JEvent := if j.lost.isSome && !j.events.contains .gap then [.gap] else []
    let due := match JrnSt.range j sh with
      | some r => r.other || j.lost.isSome || Chip.liveFlag c (jrnPage x) 0x040 21
      | none => j.lost.isSome && sealOn c x
    let es := gap ++ (if due && !j.events.contains (.close sh) then [.close sh] else [])
    if es.isEmpty then c
    else if gap.isEmpty then setJrn x { j with events := j.events ++ es } c else jrnRaise k x es c

/-- The journal has nothing left to write or to form: QUIESCED may set (R306). -/
def jrnIdle (c : Chip) (x : Cx) : Bool :=
  let j := Chip.jrnOf c x
  !j.running && j.buf.isEmpty && j.closed.isEmpty && j.events.isEmpty && j.pend.isEmpty

/-! Key slots (R305, R310). -/

/-- Is the slot named by the live KEY_SLOT of an enabled journal with SEAL_EN? -/
def slotInUse (c : Chip) (s : Nat) : Bool :=
  (complexes c.part).any (fun x => Chip.enabled c (jrnPage x) && Chip.liveFlag c (jrnPage x) 0x040 20 &&
    decide (Chip.live c (jrnPage x) 0x040 23 22 = s))

/-- The slot cleared with its VALID and KCV; ranges that wait for their seal lose the key (R304, R305). -/
def zeroizeSlot (s : Nat) (c : Chip) : Chip :=
  let c := { c with
    keys := kvErase c.keys s
    jrn := c.jrn.map (fun e => (e.1, { e.2 with
      closed := e.2.closed.map (fun r => if r.slot = s then { r with keyed := false } else r) })) }
  Chip.put (Chip.setFld c .sel 0x064 (8 + s) (8 + s) 0) .sel (0x070 + 4 * s) 0

/-- All four slots zeroised: soft reset of the SEL page, chip reset (R305). -/
def zeroizeAll (c : Chip) : Chip := [0, 1, 2, 3].foldl (fun c s => zeroizeSlot s c) c

/-- Status of a key command that runs no LOAD: KEY_DONE, or KEY_REJECT where it is not OK. -/
def keyStatus (st : Nat) (c : Chip) : Chip :=
  let c := Chip.setFld (Chip.setFld c .sel 0x064 0 0 0) .sel 0x064 7 4 st
  Chip.cause c .sel (if st = 0 then 8 else 9)

/-- A SEL_KEY_CMD write with LOAD or ZEROIZE (R305): SLOT is already stored. With both bits set the slot is zeroised
before it is loaded. Assumption 80 (DEDUCED, unsafe). -/
def keyCmd (slot : Nat) (load zero : Bool) (c : Chip) : Chip :=
  match c.keyLoad with
  | some (s, kk, _) => if load || zero then { c with keyLoad := some (s, kk, true) } else c
  | none =>
    if Chip.locked c .sel then (if load || zero then keyStatus 4 c else c)
    else
      let c := if zero then (fun c => if load then c else keyStatus 0 c) (zeroizeSlot slot c) else c
      if !load then c
      else if slotInUse c slot then keyStatus 1 c
      else
        let kk := ((List.range 8).map (fun i => leBytes 4 (Chip.get c .sel (0x040 + 4 * i)).toNat)).flatten
        Chip.setFld { c with keyLoad := some (slot, kk, false) } .sel 0x064 0 0 1

/-- A LOAD completes (R305). Assumption 141 (DEDUCED, unsafe). -/
def keyDone (c : Chip) : Chip :=
  match c.keyLoad with
  | none => c
  | some (s, kk, again) =>
    let c := (List.range 8).foldl (fun c i => Chip.put c .sel (0x040 + 4 * i) 0)
      { c with keyLoad := none, keys := kvPut c.keys s kk }
    let c := Chip.setFld c .sel 0x064 (8 + s) (8 + s) 1
    let c := Chip.put c .sel (0x070 + 4 * s) (BitVec.ofNat 64 (memNat (aes256 kk (List.replicate 16 0)) 0 4))
    Chip.cause (keyStatus (if again then 5 else 0) (Chip.bump c .sel 0x088)) .sel 8

end Sys2Proof.Machine
end

