-- ==== Sys2Proof/Machine/Rings.lean ====
section
/-!
DEFINITION. Descriptor rings and host functions (R311 to R340): indices, entries, completions, events, the posted
buffers of RX, CAP and JRN rings.
-/
namespace Sys2Proof.Machine

/-- Indices are modulo 2^32 (R317). -/
def ix (a : Nat) : Nat := a % 2 ^ 32
def ixSub (a b : Nat) : Nat := (a + 2 ^ 32 - b % 2 ^ 32) % 2 ^ 32

/-- DMA page of a chip-wide ring, and offset of its register block (R314, R342). -/
def dmaPage (r : Nat) : Page := .cx (Fin.ofNat 2 (r / 2048)) .dma (Fin.ofNat 256 (r % 2048 / 8))
def ringOff (r : Nat) : Nat := 0x100 + 0x80 * (r % 8)

/-- Complex of a chip-wide ring. -/
def ringCx (r : Nat) : Cx := Fin.ofNat 2 (r / 2048)

/-- Chip-wide number of ring `r` of a complex. -/
def ringKey (x : Cx) (r : Nat) : Nat := 2048 * x.val + r % 2048

def Chip.ring (c : Chip) (r : Nat) : Option Ring := kvFind c.rings r
def setRing (r : Nat) (g : Ring) (c : Chip) : Chip := { c with rings := kvPut c.rings r g }

/-- P, C and ACK. -/
def ringP (c : Chip) (r : Nat) : Nat := Chip.fld c (dmaPage r) (ringOff r + 0x28) 31 0
def ringC (c : Chip) (r : Nat) : Nat := Chip.fld c (dmaPage r) (ringOff r + 0x2C) 31 0
def ringAck (c : Chip) (r : Nat) : Nat := Chip.fld c (dmaPage r) (ringOff r + 0x30) 31 0
def setP (r v : Nat) (c : Chip) : Chip := Chip.put c (dmaPage r) (ringOff r + 0x28) (BitVec.ofNat 64 (ix v))
def setC (r v : Nat) (c : Chip) : Chip := Chip.put c (dmaPage r) (ringOff r + 0x2C) (BitVec.ofNat 64 (ix v))

/-- Age of a ring's ACK. -/
def ackOf (c : Chip) (r : Nat) : AckAge := kvGet {} c.acks r

/-- ACK set: its age starts again when it changes (R319). -/
def setAck (k : Clk) (r v : Nat) (c : Chip) : Chip :=
  let c' := Chip.put c (dmaPage r) (ringOff r + 0x30) (BitVec.ofNat 64 (ix v))
  if ix v = ringAck c r then c else { c' with acks := kvPut c'.acks r { at_ := k.turn } }

/-- ACK set as a ring starts: its age starts too. -/
def startAck (k : Clk) (r v : Nat) (c : Chip) : Chip :=
  { Chip.put c (dmaPage r) (ringOff r + 0x30) (BitVec.ofNat 64 (ix v)) with acks := kvPut c.acks r { at_ := k.turn } }

/-- STATE of DMA_RING_STAT: 0 DISABLED, 1 RUNNING, 2 STOPPING. -/
def ringState (c : Chip) (r : Nat) : Nat := Chip.fld c (dmaPage r) (ringOff r + 0x34) 31 30
def setRingState (r v : Nat) (c : Chip) : Chip := Chip.setFld c (dmaPage r) (ringOff r + 0x34) 31 30 v

/-- One counter of a ring advanced: 0x40 DONE, 0x48 ERR, 0x50 DROP, 0x58 REJECT, 0x60 PUSH_MISS. -/
def ringBump (r o n : Nat) (c : Chip) : Chip := Chip.bumpBy c (dmaPage r) (ringOff r + o) n

/-- The ring is RUNNING and of a kind. Assumption 65 (DEDUCED, unsafe). -/
def ringRuns (c : Chip) (r kind : Nat) : Bool :=
  decide (ringState c r = 1) && (match Chip.ring c r with | some g => decide (g.kind = kind) | none => false)

/-- Writeback of the completion index (R320). -/
def writeBack (r : Nat) (g : Ring) (c : Chip) : Chip :=
  if g.wb = 0 then c else hostWrite g.owner g.wb (leBytes 4 (if g.kind = 5 then ringP c r else ringC c r)) c

/-- The control word of a completion (R321). -/
def ctrlWord (first last lost : Bool) (status : Nat) : List Byte :=
  leBytes 4 (2 ^ 31 + 2 ^ 30 * b2n first + 2 ^ 29 * b2n last + 2 ^ 28 * b2n lost + status)

/-- Address of the slot of an index (R316). -/
def slotAddr (g : Ring) (i : Nat) : Nat := g.base + 32 * (i % 2 ^ g.size)

/-! Events (R337 to R339). -/

/-- Payload of part `p` of an event of `n` entries, at index `i`. -/
def eventEntry (code n i p : Nat) (lost : Bool) (payload : List Byte) : List Byte :=
  leBytes 4 (ix i) ++ leBytes 2 code ++ leBytes 2 p ++ slice payload (20 * p) 20 ++
  ctrlWord (decide (p = 0)) (decide (p + 1 = n)) lost 0

/-- Whole events discarded from C until `n` entries fit (R339). -/
def evMake (r n : Nat) : List Nat → Chip → Chip × List Nat × Nat
  | [], c => (c, [], 0)
  | e :: es, c =>
    match Chip.ring c r with
    | none => (c, e :: es, 0)
    | some g =>
      if 2 ^ g.size - ixSub (ringP c r) (ringC c r) ≥ n then (c, e :: es, 0)
      else
        let s := evMake r n es (setC r e c)
        (s.1, s.2.1, s.2.2 + 1)

/-- An event of `n` entries written to a running EVT ring (R337, R339). -/
def eventTo (k : Clk) (r code n : Nat) (payload : List Byte) (c : Chip) : Chip :=
  match Chip.ring c r with
  | none => c
  | some g =>
    let m := evMake r n g.evs c
    let c := ringBump r 0x50 m.2.2 m.1
    let lost := decide (m.2.2 > 0)
    let c := if lost then Chip.setFld c (dmaPage r) (ringOff r + 0x34) 2 2 1 else c
    let p := ringP c r
    let c := (List.range n).foldl (fun c i =>
      hostWrite g.owner (slotAddr g (ix (p + i))) (eventEntry code n (p + i) i (lost && decide (i = 0)) payload) c) c
    let c := ringBump r 0x40 n (setP r (p + n) (setRing r { g with evs := m.2.1 ++ [ix (p + n)] } c))
    let c := if lost then setAck k r (ringC c r) c else c
    writeBack r g c

/-- An event sent to the EVT ring named by an enable and a number, or discarded (R337). -/
def sendEvent (k : Clk) (x : Cx) (en : Bool) (ring code n : Nat) (payload : List Byte) (c : Chip) : Chip :=
  let r := ringKey x ring
  if en && ringRuns c r 5 then eventTo k r code n payload c else Chip.bump c .func 0x300

/-- An event of the complex as a whole (R337). -/
def cpxEvent (k : Clk) (x : Cx) (code n : Nat) (payload : List Byte) (c : Chip) : Chip :=
  if x.val = 0 then sendEvent k x (Chip.liveFlag c .func 0x040 31) (Chip.live c .func 0x040 26 16) code n payload c
  else sendEvent k x (Chip.liveFlag c .func 0x040 15) (Chip.live c .func 0x040 10 0) code n payload c

/-- An event about a ring, to the ring that its owner names (R337). -/
def ringEvent (k : Clk) (r owner code : Nat) (payload : List Byte) (c : Chip) : Chip :=
  let o := 0x100 + 4 * owner
  if r / 2048 = 0 then sendEvent k 0 (Chip.flag c .func o 14) (Chip.fld c .func o 10 0) code 1 payload c
  else sendEvent k 1 (Chip.flag c .func o 30) (Chip.fld c .func o 26 16) code 1 payload c

/-! Completions (R324). -/

/-- The completions of one job written, in ring order (R324). -/
def writeDone (r : Nat) (g : Ring) (es : List (List Byte)) (c : Chip) : Chip :=
  let i := ringC c r
  let c := (es.zipIdx).foldl (fun c e => hostWrite g.owner (slotAddr g (ix (i + e.2))) e.1 c) c
  let bad := (es.filter (fun e => decide (memNat e 28 1 ≠ 0) && decide (memNat e 28 1 ≠ 8))).length
  let dma := es.any (fun e => decide (memNat e 28 1 = 6))
  let c := ringBump r 0x48 bad (ringBump r 0x40 es.length (setC r (i + es.length) c))
  if dma then
    let c := Chip.cause (Chip.setFld c (dmaPage r) (ringOff r + 0x34) 1 1 1) (dmaPage r) (16 + r % 8)
    c
  else c

/-- Done jobs at the head of a ring completed, and the index written back (R320, R324). -/
def settleFrom (r : Nat) : Nat → Chip → Chip
  | 0, c => c
  | n + 1, c =>
    match Chip.ring c r with
    | none => c
    | some g =>
      match g.jobs with
      | ⟨_, _, m, _, some es, _⟩ :: js =>
        let c := writeDone r g es (setRing r { g with jobs := js, ents := g.ents.drop m } c)
        settleFrom r n c
      | _ => c

/-- Every job that is done completed at the head of a ring; the index is written back where it moved. -/
def settle (r : Nat) (c : Chip) : Chip :=
  match Chip.ring c r with
  | none => c
  | some g =>
    let c' := settleFrom r g.jobs.length c
    if ringC c' r = ringC c r then c' else writeBack r g c'

/-- Entries covered by jobs. -/
def jobEnts (g : Ring) : Nat := (g.jobs.map (·.n)).sum

/-- A completion with a status and nothing else but USER of a TX or CMD entry, and its FIRST and LAST (R321). -/
def plainDone (g : Ring) (e : Option (List Byte)) (status : Nat) : List Byte :=
  let bs := e.getD []
  let cw := memNat bs 28 4
  if g.kind = 0 ∨ g.kind = 4 then
    List.replicate 24 0 ++ slice bs 24 4 ++ ctrlWord (bit cw 30) (bit cw 29) false status
  else List.replicate 28 0 ++ ctrlWord false false false status

/-- The next `n` free entries completed with a status, in ring order. -/
def pushDone (r n status : Nat) (c : Chip) : Chip :=
  match Chip.ring c r with
  | none => c
  | some g =>
    let o := jobEnts g
    let es := (g.ents.drop o).take n
    setRing r { g with
      jobs := g.jobs ++ [⟨g.jobNo, ix (ringC c r + o), n, 0, some (es.map (fun e => plainDone g e status)), false⟩]
      jobNo := g.jobNo + 1 } c

/-- The BAD_ENTRY event of a job whose first entry has index `i` (R323, R338). -/
def badEvent (k : Clk) (r owner i : Nat) (c : Chip) : Chip :=
  ringEvent k r owner 4 (leBytes 2 r ++ [0, 0] ++ leBytes 4 (ix i)) c

/-- A malformed job: its entries BAD_ENTRY and one event (R323). -/
def pushBad (k : Clk) (r n : Nat) (c : Chip) : Chip :=
  match Chip.ring c r with
  | none => c
  | some g => badEvent k r g.owner (ringC c r + jobEnts g) (pushDone r n 2 c)

/-- A job of a ring done with its completion entries. -/
def jobDone (r id : Nat) (es : List (List Byte)) (c : Chip) : Chip :=
  match Chip.ring c r with
  | none => c
  | some g =>
    settle r (setRing r { g with
      jobs := g.jobs.map (fun j => if j.id = id && !j.lost then { j with res := some es, held := 0 } else j) } c)

/-! Jobs of TX and CMD rings (R321 to R323). -/

/-- How the entries ahead can be read as a job: `err` where an entry of it was lost to a read error (R50). An
entry so lost stands in the ring as the empty list. -/
inductive JobRead where
  | wait
  | bad (n : Nat)
  | err (n : Nat)
  | good (n : Nat)
deriving DecidableEq, Repr

/-- Entries after FIRST: `i` seen so far. -/
def readChain (i : Nat) : List (Option (List Byte)) → JobRead
  | [] => .wait
  | none :: _ => .wait
  | some e :: es =>
    let cw := memNat e 28 4
    if e.isEmpty then .err (i + 1)
    else if bit cw 30 then .bad i
    else if bit cw 29 then .good (i + 1)
    else readChain (i + 1) es

/-- The job at the head of a list of entries, by the chain rules; `limit` entries at most and `size` slots. -/
def readJob (limit size : Nat) (es : List (Option (List Byte))) : JobRead :=
  match es with
  | [] => .wait
  | none :: _ => .wait
  | some e :: rest =>
    let cw := memNat e 28 4
    if e.isEmpty then .err 1
    else if !bit cw 30 then .bad 1
    else if bit cw 29 then .good 1
    else
      match readChain 1 rest with
      | .good n => if n > limit then .bad n else .good n
      | .wait => if decide (es.length ≥ size) && es.all (·.isSome) then .bad es.length else .wait
      | b => b

/-- Every byte from `o`, `n` of them, is zero. -/
def zeros (e : List Byte) (o n : Nat) : Bool := decide (memNat e o n = 0)

/-- The control word as a host writes it: nothing but FIRST and LAST (R321, R323). -/
def ctrlOk (e : List Byte) : Bool := decide (memNat e 28 4 % 2 ^ 29 = 0) && !bit (memNat e 28 4) 31

/-- Does a TX destination name a configured port, or a PG, of the ring's complex (R327)? -/
def destOk (c : Chip) (x : Cx) (d : Nat) : Bool :=
  if bit d 15 then decide (d % 2 ^ 15 < 64) && decide (d % 2 ^ 15 / 32 = x.val)
  else decide (d < 512) && decide (d / 256 = x.val) && decide (Chip.modeAt c (Fin.ofNat 512 d) ≠ 0)

/-- Is a TX entry well formed (R323, R327)? -/
def txEntryOk (c : Chip) (x : Cx) (first : Bool) (e : List Byte) : Bool :=
  let opt := memNat e 15 1
  ctrlOk e && decide (1 ≤ memNat e 8 2) && decide (memNat e 8 2 ≤ 16379) && zeros e 10 2 &&
  (if first then
    destOk c x (memNat e 12 2) && decide (memNat e 14 1 < 8) && decide (opt < 4) && (bit opt 1 || zeros e 16 8)
   else zeros e 12 12)

/-- Is a CMD entry well formed (R323, R334, R335)? A bad table or row, or a DATA_LEN that is not the data's, is found when
the entry runs (R336). Assumption 67 (DEDUCED, unsafe). -/
def cmdEntryOk (e : List Byte) : Bool :=
  let op := memNat e 22 1
  let count := memNat e 20 2
  let len := memNat e 8 4
  ctrlOk e && decide (1 ≤ op) && decide (op ≤ 8) && !bit (memNat e 15 1) 6 && decide (memNat e 23 1 < 2) &&
  (if op = 8 then decide (count = 0) && decide (memNat e 16 4 / 2 ^ 10 % 2 ^ 6 = 0)
   else zeros e 19 1 &&
    (if op ≥ 4 then decide (count = 1)
     else decide (1 ≤ count) && decide (count ≤ 4096) && (decide (op ≠ 2) || decide (len = 0))))

/-- Is a posted buffer well formed (R323, R330, R333)? -/
def bufOk (kind : Nat) (e : List Byte) : Bool :=
  let n := memNat e 8 2
  decide (memNat e 28 4 = 0) && zeros e 10 18 &&
  (if kind = 3 then decide (48 ≤ n) && decide (n ≤ 16368) && decide (n % 48 = 0)
   else decide (64 ≤ n) && decide (n ≤ 16384))

/-- Entries after those covered by jobs. -/
def freeEnts (g : Ring) : List (Option (List Byte)) := g.ents.drop (jobEnts g)

/-- The entry is a session operation (R335). -/
def sesEntry (e : List Byte) : Bool := decide (4 ≤ memNat e 22 1) && decide (memNat e 22 1 ≤ 7)

/-- A job runs: all its entries are well formed, or it is a CMD job with a session batch, whose malformed entries complete
one by one (R237, R323, R336). Assumption 67 (DEDUCED, unsafe). -/
def jobOk (c : Chip) (r : Nat) (g : Ring) (n : Nat) : Bool :=
  let es := ((freeEnts g).take n).map (·.getD [])
  if g.kind = 0 then
    (es.zipIdx).all (fun e => txEntryOk c (ringCx r) (decide (e.2 = 0)) e.1) &&
    decide ((es.map (fun e => memNat e 8 2)).sum ≤ 16379)
  else es.all cmdEntryOk || (es.any sesEntry && es.any cmdEntryOk)

/-- Malformed jobs and lost entries at the head completed, and the next CMD job opened (R322, R323), at most `n`
times. -/
def scanFrom (k : Clk) (r : Nat) : Nat → Chip → Chip
  | 0, c => c
  | n + 1, c =>
    match Chip.ring c r with
    | none => c
    | some g =>
      if ringState c r ≠ 1 ∨ g.kind = 5 then c
      else if g.kind = 0 ∨ g.kind = 4 then
        if g.kind = 4 ∧ g.jobs.any (fun j => j.res.isNone) then c
        else
          match readJob (if g.kind = 0 then 32 else 2 ^ g.size) (2 ^ g.size) (freeEnts g) with
          | .wait => c
          | .bad m => scanFrom k r n (settle r (pushBad k r m c))
          | .err m => scanFrom k r n (settle r (pushDone r m 6 c))
          | .good m =>
            if !jobOk c r g m then scanFrom k r n (settle r (pushBad k r m c))
            else if g.kind = 4 ∧ Chip.accepting c (dmaPage r) = true then
              setRing r { g with
                jobs := g.jobs ++ [⟨g.jobNo, ix (ringC c r + jobEnts g), m, 0, none, false⟩]
                jobNo := g.jobNo + 1, done := [], batch := 0, fail := 0 } c
            else c
      else
        match freeEnts g with
        | some e :: _ =>
          if e.isEmpty then scanFrom k r n (settle r (pushDone r 1 6 c))
          else if bufOk g.kind e then c
          else scanFrom k r n (settle r (pushBad k r 1 c))
        | _ => c

def ringScan (k : Clk) (r : Nat) (c : Chip) : Chip :=
  match Chip.ring c r with
  | none => c
  | some g => scanFrom k r g.ents.length c

/-! Fetching and doorbells (R316 to R319, R325, R326). -/

/-- Fetched entries stored in the first places not yet fetched. -/
def fillEnts : List (Option (List Byte)) → List (List Byte) → List (Option (List Byte))
  | es, [] => es
  | [], _ => []
  | none :: es, x :: xs => some x :: fillEnts es xs
  | some e :: es, xs => some e :: fillEnts es xs

/-- Consecutive slots in one read: address and length of each (R316). -/
def joinSlots : List Nat → List (Nat × Nat)
  | [] => []
  | a :: as =>
    match joinSlots as with
    | (b, n) :: rs => if b = a + 32 then (a, n + 32) :: rs else (a, 32) :: (b, n) :: rs
    | [] => [(a, 32)]

/-- The reads of a fetch of `n` entries, at most sixteen, of those not yet fetched. -/
def fetchReads (r n : Nat) (g : Ring) (c : Chip) : Chip :=
  let want := (g.ents.zipIdx.filter (fun e => e.1.isNone)).take (min n 16)
  (joinSlots (want.map (fun e => slotAddr g (ix (ringC c r + e.2))))).foldl (fun c q => hostRead g.owner q.1 q.2 c) c

/-- A ring that is RUNNING has entries to fetch. -/
def toFetch (c : Chip) (e : Nat × Ring) : Bool := decide (ringState c e.1 = 1) && e.2.ents.any (·.isNone)

/-- The ring of a complex whose turn it is to fetch: the next, in rotating order, of those with entries to fetch (R316).
Where the rotation starts is free. Assumption 26 (DESIGN CHOICE, safe). -/
def fetchTurn (c : Chip) (x : Cx) : Option Nat :=
  let rs := ((c.rings.filter (fun e => decide (ringCx e.1 = x) && toFetch c e)).map (·.1))
  let at_ := kvGet (2048 * x.val + Config.phase (10 + x.val) % 2048) c.fetchAt x.val
  match rs with
  | [r] => some r
  | _ => match rs.find? (fun r => decide (at_ ≤ r)) with
    | some r => some r
    | none => rs.head?

/-- The rotation after a fetch of a ring: it passes on once the read has brought a job's last entry, any entry of a posted
ring, or all there was to fetch (R316). -/
def fetchPass (r : Nat) (g : Ring) (xs : List (List Byte)) (c : Chip) : Chip :=
  let x := ringCx r
  let left := ((Chip.ring c r).map (fun h => h.ents.any (·.isNone))).getD false
  let ended := decide (g.kind ≠ 0 ∧ g.kind ≠ 4) || !left || xs.any (fun e => bit (memNat e 28 4) 29)
  { c with fetchAt := kvPut c.fetchAt x.val (if ended then r + 1 else r) }

/-- A fetch of up to sixteen entries completes, for the ring whose turn it is (R316). Assumption 142 (DESIGN CHOICE, safe). -/
def entryFetch (k : Clk) (r : Nat) (xs : List (List Byte)) (c : Chip) : Chip :=
  match Chip.ring c r with
  | none => c
  | some g =>
    if ringState c r ≠ 1 ∨ fetchTurn c (ringCx r) ≠ some r then c
    else
      let c := fetchReads r xs.length g c
      fetchPass r g xs <| ringScan k r (setRing r { g with ents := fillEnts g.ents ((xs.take 16).map (fun e => slice e 0 32)) } c)

/-- A push window entry is loaded once all its 32 bytes are written (R326). -/
def pushEntry (w : List (Nat × Byte)) (i : Nat) : Option (List Byte) :=
  let bs := (List.range 32).map (fun j => kvFind w (32 * i + j))
  if bs.all (·.isSome) then some (bs.map (·.getD 0)) else none

/-- A rejected doorbell (R318). -/
def rejectDb (k : Clk) (r : Nat) (g : Ring) (reason v : Nat) (c : Chip) : Chip :=
  let o := ringOff r + 0x34
  let c := Chip.setFld (Chip.setFld c (dmaPage r) o 5 4 reason) (dmaPage r) o 0 0 1
  let c := ringBump r 0x58 1 (Chip.cause c (dmaPage r) (8 + r % 8))
  ringEvent k r g.owner 1 (leBytes 2 r ++ leBytes 1 reason ++ [0] ++ leBytes 4 v ++ leBytes 4 (ringP c r) ++
    leBytes 4 (ringC c r)) c

/-- The push window of a ring unloaded. -/
def unloadPush (r : Nat) (c : Chip) : Chip := { c with push := kvErase c.push r }

/-- A doorbell of a posted ring (R318, R326). -/
def postDoorbell (k : Clk) (r : Nat) (g : Ring) (v : Word) (c : Chip) : Chip :=
  let p' := v.toNat % 2 ^ 32
  let p := ringP c r
  let occNew := ixSub p' (ringC c r)
  let occOld := ixSub p (ringC c r)
  if occNew > 2 ^ g.size then unloadPush r (rejectDb k r g 1 p' c)
  else if occNew < occOld then unloadPush r (rejectDb k r g 2 p' c)
  else
    let n := occNew - occOld
    let m := if g.kind = 0 ∨ g.kind = 4 then min (min (bits v.toNat 34 32) 4) n else 0
    let w := kvGet [] c.push r
    let new := (List.range n).map (fun i => if i < m then pushEntry w i else none)
    let miss := (List.range m).countP (fun i => (pushEntry w i).isNone)
    let c := setRing r { g with ents := g.ents ++ new } (unloadPush r c)
    let c := ringBump r 0x60 miss (Chip.put (setP r p' c) (dmaPage r) (ringOff r + 0x20) (v &&& maskW 34 0))
    ringScan k r c

/-- The consumer doorbell of an EVT ring (R339). -/
def evtDoorbell (k : Clk) (r : Nat) (g : Ring) (v : Word) (c : Chip) : Chip :=
  let c' := v.toNat % 2 ^ 32
  let cc := ringC c r
  if ixSub c' cc ≤ ixSub (ringP c r) cc then
    let c := setRing r { g with evs := g.evs.filter (fun e => decide (ixSub e cc > ixSub c' cc)) } c
    setAck k r c' (setC r c' (Chip.put c (dmaPage r) (ringOff r + 0x20) (v &&& maskW 34 0)))
  else if ixSub cc c' ≤ 2 ^ g.size then c
  else rejectDb k r g 1 c' c

/-- A write of DMA_RING_DB (R318, R339). A doorbell to a ring that is not RUNNING is discarded and counted.
Assumption 54 (DEDUCED, unsafe). -/
def doorbell (k : Clk) (r : Nat) (v : Word) (c : Chip) : Chip :=
  match Chip.ring c r with
  | some g =>
    if ringState c r ≠ 1 then unloadPush r (ringBump r 0x58 1 c)
    else if g.kind = 5 then evtDoorbell k r g v c
    else postDoorbell k r g v c
  | none => unloadPush r (ringBump r 0x58 1 c)

/-- A write of DMA_RING_ACK (R319). -/
def ackWrite (k : Clk) (r v : Nat) (c : Chip) : Chip :=
  let evt := match Chip.ring c r with | some g => decide (g.kind = 5) | none => false
  if evt then c
  else if ixSub v (ringAck c r) ≤ ixSub (ringC c r) (ringAck c r) then setAck k r v c
  else ringBump r 0x58 1 c

/-- A read at the push aperture returns all-ones (R325). -/
def pushRead (n : Nat) (c : Chip) : Chip := Chip.emit c (.readData (BitVec.ofNat 64 (2 ^ (8 * min n 8) - 1)))

/-- A write at the push aperture (R325). -/
def pushWrite (a : Nat) (bs : List Byte) (c : Chip) : Chip :=
  let n := bs.length
  let r := a / 0x80
  if 4 ≤ n ∧ n % 4 = 0 ∧ a % 4 = 0 ∧ a % 0x80 + n ≤ 0x80 ∧ r < 4096 ∧ hasCx c.part (ringCx r) = true then
    let w := (bs.zipIdx).foldl (fun w b => kvPut w (a % 0x80 + b.2) b.1) (kvGet [] c.push r)
    { c with push := kvPut c.push r w }
  else Chip.bump c .func 0x310

/-! Notify (R319). -/

/-- Completions the host has not yet processed. -/
def unacked (c : Chip) (r : Nat) : Nat :=
  match Chip.ring c r with
  | some g => ixSub (if g.kind = 5 then ringP c r else ringC c r) (ringAck c r)
  | none => ixSub (ringC c r) (ringAck c r)

/-- Live AGE of a ring. -/
def ringAge (c : Chip) (r : Nat) : Nat := Chip.live c (dmaPage r) (ringOff r + 0x18) 15 0

/-- The notify condition of a ring holds. -/
def notifyHolds (c : Chip) (r : Nat) : Bool :=
  let thr := max 1 (Chip.live c (dmaPage r) (ringOff r + 0x18) 31 16)
  let u := unacked c r
  Chip.liveFlag c (dmaPage r) (ringOff r + 0x10) 9 &&
  (decide (u ≥ thr) || (decide (u ≥ 1) && decide (ringAge c r ≠ 0) && (ackOf c r).aged))

/-- AGE turn boundaries have passed since ACK changed (R319). -/
def notifyAge (k : Clk) (r : Nat) (c : Chip) : Chip :=
  let a := ackOf c r
  if ringAge c r ≠ 0 ∧ a.at_ + ringAge c r ≤ k.turn then { c with acks := kvPut c.acks r { a with aged := true } } else c

/-- A commit that raises AGE: the boundaries passed since ACK changed may no longer suffice (R315, R319). -/
def ageCommit (k : Clk) (r : Nat) (c : Chip) : Chip :=
  let a := ackOf c r
  if a.aged && decide (k.turn < a.at_ + ringAge c r) then { c with acks := kvPut c.acks r { a with aged := false } } else c

/-- The ring whose live CFG a register address is (R342). -/
def ringOfCfg (a : Nat) : Option Nat :=
  let o := a % 0x1000000
  let b := o % 0x1000
  if 0x1000000 ≤ a ∧ a < 0x3000000 ∧ 0x600000 ≤ o ∧ o < 0x700000 ∧ 0x910 ≤ b ∧ b < 0xD10 ∧ (b - 0x910) % 0x80 = 0 then
    some (2048 * (a / 0x1000000 - 1) + 8 * ((o - 0x600000) / 0x1000) + (b - 0x910) / 0x80)
  else none

/-- Entry `bs` with some bytes replaced, for completions. -/
def doneEntry (body : List Byte) (first last : Bool) (status : Nat) : List Byte :=
  slice body 0 28 ++ ctrlWord first last false status

/-- The entries of a job, as fetched. -/
def jobEntries (g : Ring) (id : Nat) : List (List Byte) :=
  let before := ((g.jobs.takeWhile (fun j => decide (j.id ≠ id))).map (·.n)).sum
  match g.jobs.find? (fun j => j.id = id) with
  | some j => ((g.ents.drop before).take j.n).map (·.getD [])
  | none => []

/-- Completion entries of a TX job: USER kept, the stamp in the LAST entry when asked for and the status is OK
(R329). -/
def txDone (es : List (List Byte)) (status stamp : Nat) : List (List Byte) :=
  let ask := match es with | e :: _ => bit (memNat e 15 1) 0 | [] => false
  (es.zipIdx).map (fun e =>
    let last := decide (e.2 + 1 = es.length)
    (if last && ask && decide (status = 0) then leBytes 12 (stamp96 stamp) else List.replicate 12 0) ++
    List.replicate 12 0 ++ slice e.1 24 4 ++ ctrlWord (decide (e.2 = 0)) last false status)

/-- A TX job's frame has ended (R329). -/
def txComplete (h : HostFrame) (status stamp : Nat) (c : Chip) : Chip :=
  match Chip.ring c h.ring with
  | none => c
  | some g => jobDone h.ring h.job (txDone (jobEntries g h.job) status stamp) c

/-- A TX job's frame is malformed for its port (R323): BAD_ENTRY and one event. -/
def txBad (k : Clk) (h : HostFrame) (c : Chip) : Chip :=
  match Chip.ring c h.ring with
  | none => c
  | some g =>
    let c := txComplete h 2 0 c
    match g.jobs.find? (fun j => decide (j.id = h.job)) with
    | some j => badEvent k h.ring g.owner j.idx c
    | none => c

/-! Posted buffers (R330 to R333). -/

/-- What becomes of a posted entry that a frame takes or passes: so many bytes put there, malformed, lost to a read error. -/
inductive BufUse where
  | put (n : Nat)
  | bad
  | lost
deriving DecidableEq, Repr

/-- The entry takes bytes of the frame. -/
def BufUse.takes : BufUse → Bool
  | .put _ => true
  | _ => false

/-- The entries that a frame of so many bytes takes or passes, or none where those posted do not suffice yet (R331).
Assumption 68 (DEDUCED, unsafe). -/
def takeBufs (kind : Nat) : Nat → List (Option (List Byte)) → Option (List BufUse)
  | 0, _ => some []
  | _ + 1, [] => none
  | _ + 1, none :: _ => none
  | n + 1, some e :: es =>
    if e.isEmpty then (takeBufs kind (n + 1) es).map (fun l => .lost :: l)
    else if !bufOk kind e then (takeBufs kind (n + 1) es).map (fun l => .bad :: l)
    else
      let m := min (n + 1) (memNat e 8 2)
      (takeBufs kind (n + 1 - m) es).map (fun l => .put m :: l)

/-- Bytes that a frame's first buffer starts with: stamp, then per buffer its count, then length and metadata. -/
structure BufMeta where
  stamp : Nat
  len   : Nat
  tail  : List Byte
  status : Nat
deriving DecidableEq, Repr

/-- The completions of a frame's buffers: metadata in the first (R330). -/
def bufDone (m : BufMeta) : Bool → List BufUse → List (List Byte)
  | _, [] => []
  | first, .bad :: us => doneEntry [] false false 2 :: bufDone m first us
  | first, .lost :: us => doneEntry [] false false 6 :: bufDone m first us
  | first, .put n :: us =>
    let body := if first then leBytes 12 m.stamp ++ leBytes 2 n ++ leBytes 2 m.len ++ m.tail
      else List.replicate 12 0 ++ leBytes 2 n
    doneEntry body first (!us.any BufUse.takes) m.status :: bufDone m false us

/-- Host writes of a frame's bytes into its buffers. -/
def bufWrite (owner : Nat) : List (Option (List Byte)) → List BufUse → List Byte → Chip → Chip
  | some e :: es, .put n :: us, bs, c =>
    bufWrite owner es us (bs.drop n) (hostWrite owner (memNat e 0 8) (bs.take n) c)
  | _ :: es, _ :: us, bs, c => bufWrite owner es us bs c
  | _, _, _, c => c

/-- One BAD_ENTRY event for each malformed entry passed, from index `i` on (R323). -/
def bufEvents (k : Clk) (r owner : Nat) : Nat → List BufUse → Chip → Chip
  | _, [], c => c
  | i, .bad :: us, c => bufEvents k r owner (i + 1) us (badEvent k r owner i c)
  | i, _ :: us, c => bufEvents k r owner (i + 1) us c

/-- Receive staging store of a complex in use, in bytes (R331). -/
def rxStaged (c : Chip) (x : Cx) : Nat :=
  ((c.rings.filter (fun e => decide (e.1 / 2048 = x.val))).map
    (fun e => (e.2.rxq.map (fun i => i.bytes.length)).sum)).sum

/-- The frame at the head of an RX ring's queue can be written (R331). -/
def rxFits (c : Chip) (r : Nat) (g : Ring) (n : Nat) : Option (List BufUse) :=
  if ringState c r = 1 ∧ Chip.accepting c (dmaPage r) = true then takeBufs 1 n (freeEnts g) else none

/-- Every slot is posted and fetched, and yet too short for a frame (R331). -/
def rxNever (g : Ring) (n : Nat) : Bool :=
  decide (g.ents.length ≥ 2 ^ g.size) && g.jobs.isEmpty && g.ents.all (·.isSome) && (takeBufs 1 n g.ents).isNone

/-- A slow-path frame becomes ready for a ring: it waits in the staging store, or is dropped (R331). -/
def rxReady (r : Nat) (i : RxItem) (c : Chip) : Chip :=
  match Chip.ring c r with
  | none => ringBump r 0x50 1 c
  | some g =>
    if ringRuns c r 1 = false ∨ rxStaged c (ringCx r) + i.bytes.length > 2097152 ∨ rxNever g i.bytes.length = true then
      ringBump r 0x50 1 c
    else if Chip.live c (dmaPage r) (ringOff r + 0x14) 31 16 = 0 ∧
        (g.rxq.isEmpty && (rxFits c r g i.bytes.length).isSome) = false then ringBump r 0x50 1 c
    else setRing r { g with rxq := g.rxq ++ [i] } c

/-- The frame at the head of an RX ring's queue written to posted entries (R330, R331). -/
def rxWrite (k : Clk) (r : Nat) (c : Chip) : Chip :=
  match Chip.ring c r with
  | none => c
  | some g =>
    match g.rxq with
    | [] => c
    | i :: q =>
      if rxNever g i.bytes.length then ringBump r 0x50 1 (setRing r { g with rxq := q } c)
      else
        match rxFits c r g i.bytes.length with
        | none => c
        | some us =>
          let m : BufMeta := ⟨stamp96 i.stamp, i.bytes.length,
            leBytes 2 i.port ++ leBytes 1 i.reason ++ leBytes 1 i.tag ++ leBytes 2 i.gen, 0⟩
          let at0 := ringC c r + jobEnts g
          let c := bufWrite g.owner (freeEnts g) us i.bytes c
          let c := settle r (setRing r { g with
            rxq := q
            jobs := g.jobs ++ [⟨g.jobNo, ix at0, us.length, 0, some (bufDone m true us), false⟩]
            jobNo := g.jobNo + 1 } c)
          ringScan k r (bufEvents k r g.owner at0 us c)

/-- HOLD turn boundaries have passed for the frames at the head of an RX ring's queue (R331). -/
def rxExpire (k : Clk) (r : Nat) (c : Chip) : Chip :=
  match Chip.ring c r with
  | none => c
  | some g =>
    let hold := Chip.live c (dmaPage r) (ringOff r + 0x14) 31 16
    let keep := g.rxq.filter (fun i => decide (k.turn < i.ready + hold))
    ringBump r 0x50 (g.rxq.length - keep.length) (setRing r { g with rxq := keep } c)

/-- A captured copy of `bs`, offered to the route of a direction (R332). `done` says that its frame has left: an
egress copy's entries complete later. The job number of a copy written is answered. Assumption 104 (DEDUCED, unsafe). -/
def capture (k : Clk) (x : Cx) (dir port stamp gen : Nat) (bs : List Byte) (status : Option Nat) (c : Chip) :
    Chip × Option (Nat × Nat) :=
  let o := 0x048 + 4 * x.val
  let en := Chip.liveFlag c .func o (if dir = 0 then 31 else 15)
  let r := ringKey x (if dir = 0 then Chip.live c .func o 26 16 else Chip.live c .func o 10 0)
  if !(en && ringRuns c r 2) then (Chip.bump c .func 0x308, none)
  else
    match Chip.ring c r with
    | none => (Chip.bump c .func 0x308, none)
    | some g =>
      let snap := Chip.live c (dmaPage r) (ringOff r + 0x14) 15 8 * 64
      let cut := if snap = 0 then bs else bs.take snap
      let fits := if Chip.accepting c (dmaPage r) && decide (rxStaged c x + cut.length ≤ 2097152)
        then takeBufs 2 cut.length (freeEnts g) else none
      match fits with
      | none => (ringBump r 0x50 1 c, none)
      | some us =>
        let word := port % 512 + 2 ^ 14 * b2n (decide (cut.length < bs.length)) + 2 ^ 15 * dir
        let m : BufMeta := ⟨stamp96 stamp, bs.length, leBytes 2 word ++ [0, 0] ++ leBytes 2 gen, status.getD 0⟩
        let c := bufWrite g.owner (freeEnts g) us cut c
        let res := bufDone m true us
        let job : RJob := ⟨g.jobNo, ix (ringC c r + jobEnts g), us.length, 0, if status.isSome then some res else none, false⟩
        let g1 : Ring := { g with
          jobs := g.jobs ++ [job]
          jobNo := g.jobNo + 1
          capWait := if status.isSome then g.capWait else g.capWait ++ [(g.jobNo, res)] }
        (ringScan k r (bufEvents k r g.owner job.idx us (settle r (setRing r g1 c))), some (r, g.jobNo))

/-- An egress copy's frame has left the port: its entries complete, with FCS_BAD if it was stomped (R332). -/
def captureEnd (r id : Nat) (stomped : Bool) (c : Chip) : Chip :=
  match Chip.ring c r with
  | none => c
  | some g =>
    match g.capWait.find? (fun e => e.1 = id) with
    | none => c
    | some e =>
      let es := e.2.map (fun b => if stomped && decide (memNat b 28 1 = 0) then patch b 28 [4] else b)
      jobDone r id es (setRing r { g with capWait := g.capWait.filter (fun e => e.1 ≠ id) } c)

/-! JRN rings (R300, R333). -/

/-- The ring that holds record `i` of a journal buffer in a buffer not yet completed (R300). -/
def recHolder (j : JrnSt) (i : Nat) : Option Nat := (j.out[i]?).join

/-- The next record to write: the oldest that no ring holds (R300). -/
def nextRec (j : JrnSt) : Nat := (j.out.findIdx? (·.isNone)).getD j.out.length

/-- Record `i` taken by a ring. -/
def takeRec (i r : Nat) (j : JrnSt) : JrnSt :=
  { j with out := if i < j.out.length then j.out.set i (some r) else j.out ++ [some r] }

/-- The records that a ring holds leave the buffer (R300). -/
def dropRecs (r : Nat) (j : JrnSt) : JrnSt :=
  { j with
    buf := ((j.buf.zipIdx).filter (fun e => decide (recHolder j e.2 ≠ some r))).map (·.1)
    out := j.out.filter (· ≠ some r) }

/-- The records that a ring holds are to be written again (R300, R340). -/
def freeRecs (r : Nat) (j : JrnSt) : JrnSt := { j with out := j.out.map (fun h => if h = some r then none else h) }

/-- The RUNNING JRN ring of a journal, if its live RING names one. -/
def jrnRing (c : Chip) (x : Cx) : Option (Nat × Ring) :=
  let r := ringKey x (Chip.live c (jrnPage x) 0x040 10 0)
  match Chip.ring c r with
  | some g => if ringRuns c r 3 then some (r, g) else none
  | none => none

/-- The buffer being filled completes: its records leave the journal buffer (R300, R333). -/
def jrnClose (k : Clk) (x : Cx) (r : Nat) (c : Chip) : Chip :=
  match Chip.ring c r with
  | none => c
  | some g =>
    match g.jobs.find? (fun j => j.res.isNone && !j.lost) with
    | none => c
    | some j =>
      let e := doneEntry (leBytes 8 g.first ++ leBytes 2 g.fill) true true (if g.gap then 8 else 0)
      let c := setJrn x (dropRecs r (Chip.jrnOf c x)) c
      ringScan k r (jobDone r j.id [e] (setRing r { g with fill := 0, gap := false } c))

/-- The next record of the journal buffer written to the ring, at most `n` of them (R300, R333). -/
def jrnWriteFrom (k : Clk) (x : Cx) : Nat → Chip → Chip
  | 0, c => c
  | n + 1, c =>
    let js := Chip.jrnOf c x
    match jrnRing c x, js.buf[nextRec js]? with
    | some (r, g), some rec =>
      let opened : Option (Chip × Ring) :=
        if g.fill > 0 then some (c, g)
        else if !Chip.accepting c (dmaPage r) then none
        else
          match (freeEnts g).head? with
          | some (some e) =>
            if e.isEmpty || !bufOk 3 e then none
            else
              let g' := { g with
                jobs := g.jobs ++ [⟨g.jobNo, ix (ringC c r + jobEnts g), 1, 0, none, false⟩]
                jobNo := g.jobNo + 1, first := memNat rec 0 8, fillT := k.turn }
              some (setRing r g' c, g')
          | _ => none
      match opened with
      | none => c
      | some (c, g) =>
        let e := ((g.ents.drop (jobEnts g - 1)).head?.getD none).getD []
        let c := hostWrite g.owner (memNat e 0 8 + 48 * g.fill) rec c
        let c := setRing r { g with fill := g.fill + 1, gap := g.gap || decide (recKind rec = 3) } c
        let c := Chip.bump (setJrn x (takeRec (nextRec js) r js) c) (jrnPage x) 0x140
        let c := if recKind rec = 2 && !bit (memNat rec 20 4) 27
          then Chip.put c (jrnPage x) 0x078 (BitVec.ofNat 64 (memNat rec 0 8)) else c
        let c := if (g.fill + 1) * 48 ≥ memNat e 8 2 then jrnClose k x r c else c
        jrnWriteFrom k x n c
    | _, _ => c

end Sys2Proof.Machine
end

