-- ==== Sys2Proof/Machine/Door.lean ====
section
/-!
DEFINITION. Dequeue requests and decisions (R44, R268 to R272, R95), and door release (R273 to R281).
-/
namespace Sys2Proof.Machine

/-! Request limits (R44, R272) and requests. -/

/-- Requests of this clock of a complex, by PG. -/
def reqsNow (k : Clk) (s : SchedSt) : List (Nat × Nat) := if s.clock = Clk.abs k then s.reqs else []

/-- A further request of the port fits within the limits of its clock, besides `own` of its PG and `all` of its complex (R44). -/
def reqFits (k : Clk) (c : Chip) (n : Fin 512) (own all : Nat) : Bool :=
  let r := reqsNow k (Chip.schedOf c (cxOf n))
  decide (kvGet 0 r (pgKey n) + own < 8) && decide ((r.map (·.2)).sum + all < 256)

/-- A request counted in its clock; its TAG is answered. -/
def takeReq (k : Clk) (n : Fin 512) (c : Chip) : Chip × Nat :=
  let x := cxOf n
  let s := Chip.schedOf c x
  let r := reqsNow k s
  (setSched x { s with
    clock := Clk.abs k
    reqs := kvPut r (pgKey n) (kvGet 0 r (pgKey n) + 1)
    nextTag := (s.nextTag + 1) % 1024 } c, s.nextTag)

/-- Port numbers in a complex. -/
def portPos (n : Fin 512) : Nat := n.val % 256

/-- Deficits and positive credit of a node that has become empty (R257, R123). -/
def emptied (i : Nat) (c : Chip) : Chip :=
  if nodeWaits c i then c
  else
    let n := getNode c i
    setNode i { n with deficit := 0, tc := if (nodeCfg c i).avb then min n.tc 0 else n.tc } c

/-- A queue's head copy taken out of its depth; nodes that it leaves empty are emptied (R256, R257). -/
def takeHead (q : Nat) (c : Chip) : Chip :=
  let c := queueDepth q (setNotices q ((noticesOf c q).drop 1) c)
  emptied (svcNode (qPort c q) (qCls c q)) (emptied q c)

/-- The head copy of a queue freed with DROP_HEAD (R44): the request leaves 4 clocks later. -/
def dropHead (k : Clk) (q : Nat) (c : Chip) : Chip :=
  let n := qPort c q
  let t := takeReq k n c
  let c := { t.1 with drops := t.1.drops ++ [(Clk.abs k + 4, q / 65536, q % 65536, portPos n, t.2)] }
  depthSync n (takeHead q c)

/-- The transmit lead of a port at its live threshold (R113, R125). -/
def portLead (c : Chip) (n : Fin 512) : Nat := txLead (Chip.modeAt c n) (Chip.fecOff c n) (Chip.cur c n)

/-- When a frame of `len` bytes decided now would start and have left with its gap, in 1/3200 clock. -/
def wireSlot (k : Clk) (c : Chip) (n : Fin 512) (len : Nat) : Nat × Nat :=
  let start := max ((Clk.abs k + portLead c n) * 3200) (Chip.port c n).free
  (start, start + wireTime (Chip.modeAt c n) (len + 8 + portIpg c n))

/-- A decided frame joins its port's transmit path and takes its time on the wire. -/
def txAdd (k : Clk) (n : Fin 512) (f : TxFrame) (c : Chip) : Chip :=
  let p := Chip.port c n
  setPort n { p with tx := p.tx ++ [f], free := (wireSlot k c n f.len).2 } c

/-! Release groups (R273): numbered chip-wide, group `g` owned by complex g / 512. -/

def dorPage (x : Cx) : Page := onePage x .dor
def groupCx (g : Nat) : Cx := Fin.ofNat 2 (g / 512)

/-- Does the group exist on the part? -/
def groupExists (part : Part) (g : Nat) : Bool := hasDoor part && decide (g < 1024) && hasCx part (groupCx g)

/-- The group a queue is a member of. -/
def qGroup (c : Chip) (q : Nat) : Option Nat :=
  let g := bits (qCtl c q) 41 32
  if bit (qCtl c q) 15 && groupExists c.part g then some g else none

/-- The queue is release-bound where door release, or its group, is absent (R5, R273). -/
def qAbsent (c : Chip) (q : Nat) : Bool := bit (qCtl c q) 15 && (qGroup c q).isNone

/-- The member queues of a group, in number order. -/
def members (c : Chip) (g : Nat) : List Nat :=
  (complexes c.part).flatMap (fun x =>
    ((Chip.rowsOf c (whlPage x) 0).map (fun r => 65536 * x.val + r)).filter
      (fun q => qValid c q && decide (qGroup c q = some g)))

/-- `n` bytes of a group's state row (R286). -/
def grp (c : Chip) (g o n : Nat) : Nat := Chip.rowNat c (dorPage (groupCx g)) 0 (g % 512) o n
def setGrp (g o n v : Nat) (c : Chip) : Chip := Chip.setRowNat c (dorPage (groupCx g)) 0 (g % 512) o n v

/-- STATE of a group: 0 IDLE, 1 ARMED, 2 RELEASING. -/
def grpState (c : Chip) (g : Nat) : Nat := grp c g 44 1
def grpFlag (c : Chip) (g i : Nat) : Bool := bit (grp c g 45 1) i
def setGrpFlag (g i : Nat) (b : Bool) (c : Chip) : Chip := setGrp g 45 1 (setBits (grp c g 45 1) i i (b2n b)) c

/-- A 96-bit stamp of a group's row as a stamp. -/
def grpStamp (c : Chip) (g o : Nat) : Nat := stampOf (grp c g o 12 / 2 ^ 48) (grp c g o 12 % 2 ^ 48)

/-- The release instant: CUR, unless it has been moved (R275, R276). -/
def instant (c : Chip) (g : Nat) : Nat := if grpFlag c g 1 then grpStamp c g 32 else grpStamp c g 0

def Chip.door (c : Chip) (g : Nat) : DoorSt := kvGet {} c.doors g
def setDoor (g : Nat) (d : DoorSt) (c : Chip) : Chip := { c with doors := kvPut c.doors g d }

/-! Due clocks (R275 to R277, R279). Stamps are in units of 2^-16 ns. -/

/-- Whole clocks from now until chip time stands at, or has last stood before, `d` units after now's, under one increment.
-/
def incrClocks (incr d : Nat) : Nat := d * 2 ^ 32 / max 1 incr

/-- Clocks from now to the last one in which chip time has not passed stamp `t`, pending adjustments included (R134); none
where it has passed already. -/
def clocksTo (k : Clk) (c : Chip) (t : Nat) : Option Nat :=
  let d := stampDiff t (Clk.stamp k)
  if d < 0 then none
  else
    match c.time.adj with
    | none => some (incrClocks k.incr d.toNat)
    | some a =>
      let w := a.due * 1600 - Clk.abs k
      let u := timeAfter k c.time w
      let e := stampDiff t (Clk.stamp u)
      some (if e < 0 then min w (incrClocks k.incr d.toNat) else w + incrClocks u.incr e.toNat)

/-- The line bit of a port's lowest lane that would carry egress stamp `t` (R162, R275). -/
def bitNear (k : Clk) (c : Chip) (n : Fin 512) (t : Nat) : Option Nat :=
  let m := Chip.modeAt c n
  let t := stampAdd t (-(signed 32 (Chip.getLive c (stpPage n) (0x140 + 4 * m)).toNat))
  (clocksTo k c t).map (fun w =>
    let r := (stampDiff t (Clk.stamp (timeAfter k c.time w))).toNat
    lineCount m (Clk.abs k + w) + r * modeLine m / 6553600000)

/-- How far a legal start's egress stamp lies from stamp `t`. -/
def startMiss (k : Clk) (c : Chip) (n : Fin 512) (t b : Nat) : Nat := (stampDiff (bitStamp k c.time c n b) t).natAbs

/-- The legal start of a port whose egress stamp is nearest stamp `t`, the later one of two equally near (R275). -/
def nearStart (k : Clk) (c : Chip) (n : Fin 512) (t : Nat) : Option Nat :=
  (bitNear k c n t).map (fun x =>
    let a := Chip.line c n
    let lo := prevStart a 8 x
    let hi := nextStart a 8 x
    [lo, hi, nextStart a 8 (hi + 1)].foldl
      (fun b s => if startMiss k c n t s ≤ startMiss k c n t b then s else b) (prevStart a 8 (lo - 1)))

/-- The clock that decides a frame whose first symbol is placed at line bit `b` (R275). -/
def dueClock (c : Chip) (n : Fin 512) (b : Nat) : Nat := bitClock (Chip.modeAt c n) b + 3 - portLead c n

/-- Where a member stands now: before its due clock, in it, with the line bit of its release position, or past it. -/
inductive Due where
  | early | past
  | now (goal : Nat)
deriving DecidableEq, Repr

/-- Member queues of the group on the port of `q`, before it in number, that have been decided or can be (R279). -/
def aheadOf (ready : Nat → Bool) (c : Chip) (g q : Nat) : List Nat :=
  (members c g).filter (fun r => decide (r < q) && decide (qPort c r = qPort c q) &&
    ((Chip.door c g).done.contains r || ready r))

/-- A member's due clock: that of its port's release position, one clock later for each copy that goes before it there
(R275, R279). Assumption 74 (DEDUCED, unsafe). -/
def memberDue (ready : Nat → Bool) (k : Clk) (c : Chip) (g q : Nat) : Due :=
  let n := qPort c q
  match nearStart k c n (instant c g) with
  | none => .past
  | some b =>
    let d := dueClock c n b + (aheadOf ready c g q).length
    if Clk.abs k < d then .early else if Clk.abs k = d then .now b else .past

/-- R278: a frame that would not have left its port before a member's release position waits, and so does one in the clock
of a release decision. `finish` is when it has left with its gap, `but` a group whose own copy it is. -/
def doorBlocks (k : Clk) (c : Chip) (n : Fin 512) (but : Option Nat) (finish : Nat) : Bool :=
  decide ((Chip.port c n).relAt = some (Clk.abs k)) ||
  c.doors.any (fun e =>
    decide (grpState c e.1 ≠ 0) && decide (but ≠ some e.1) &&
    (members c e.1).any (fun q => decide (qPort c q = n) && !e.2.done.contains q && !e.2.late.contains q) &&
    (match nearStart k c n (instant c e.1) with
     | some b => decide (finish > bitTime (Chip.modeAt c n) b + 9600)
     | none => true))

/-- A flow-control frame started now would come after a release copy's request: a member's decision less the wire time of a
64-byte frame has come, or the copy is on its way to the line (R122, R278). -/
def fcBehind (k : Clk) (c : Chip) (n : Fin 512) : Bool :=
  let wire := wireTime (Chip.modeAt c n) (72 + portIpg c n)
  (Chip.port c n).tx.any (fun f => f.group.isSome && !f.edited && !f.dead) ||
  c.doors.any (fun e =>
    decide (grpState c e.1 ≠ 0) &&
    (members c e.1).any (fun q => decide (qPort c q = n) && !e.2.done.contains q && !e.2.late.contains q) &&
    (match nearStart k c n (instant c e.1) with
     | some b => decide (3200 * dueClock c n b ≤ 3200 * Clk.abs k + wire)
     | none => true))

/-! What holds a port back (R268). -/

/-- QUIESCE_REQ of the port or of its PG (R97). -/
def portQuiesce (c : Chip) (n : Fin 512) : Bool := Chip.flag c (prtPage n) 0x008 1 || Chip.flag c (pgrPage (pgOf n)) 0x008 1

/-- The port that the pair link runs on (R375): four lanes at 212.5 Gb/s, and SAG enabled. -/
def Chip.pairPort (c : Chip) : Option (Fin 512) :=
  let n : Fin 512 := Fin.ofNat 512 (Chip.live c .sag 0x040 8 0)
  if hasSaggar c.part && Chip.enabled c .sag && hasCx c.part (cxOf n) && decide (Chip.modeAt c n = 0xE) then some n else none

def isPair (c : Chip) (n : Fin 512) : Bool := decide (Chip.pairPort c = some n)

/-- Bytes of requested frames not yet transmitted. -/
def txPending (c : Chip) (n : Fin 512) : Nat := ((Chip.port c n).tx.map (·.len)).sum

/-- The unit of a page serves: enabled and not asked to quiesce. -/
def portHeld (c : Chip) (n : Fin 512) : Bool :=
  !linkOpen c n || !Chip.accepting c (schPage n) || !Chip.accepting c (whlPage (cxOf n)) || portQuiesce c n ||
  isPair c n || decide (Chip.lpbk c n = 2) || decide (txPending c n ≥ 65536)

/-- The port node's own shaper and its line pacer allow a decision (R268). -/
def portMay (k : Clk) (c : Chip) (n : Fin 512) : Bool :=
  let i := portNode n
  peakOk (nodeCfg c i) (getNode c i) && decide (0 ≤ pacerAt c n (Clk.abs k))

/-! Issuing a copy (R258, R272). -/

/-- The head copy of a queue requested from the buffer. A release copy names its group, and its release position where it
has one. -/
def issueCopy (k : Clk) (q : Nat) (group goal : Option Nat) (late : Bool) (c : Chip) : Chip :=
  match noticesOf c q with
  | [] => c
  | h :: _ =>
    let n := qPort c q
    let cls := qCls c q
    let now := Clk.abs k
    let ch := portCharge c n h.len
    let p := schPage n
    let t := takeReq k n c
    let c := chargePacer now n ch (chargeNode now (portNode n) ch (chargeNode now (svcNode n cls) ch (chargeNode now q ch t.1)))
    let c := takeHead q c
    let c := Chip.bumpBy (Chip.bump c p (0x140 + 8 * cls)) p (0x180 + 8 * cls) h.len
    let c := if qAbsent c q then Chip.bump c p 0x1C8 else c
    depthSync n (txAdd k n { kind := .queue q, tag := t.2, cls := cls, len := h.len, reqAt := now + 4, group := group, goal := goal, late := late } c)

/-! Release decisions (R275, R279). -/

/-- A copy of the group on the same port, of a lower-numbered queue, has gone before (R279). -/
def trails (c : Chip) (g q : Nat) : Bool :=
  (Chip.door c g).done.any (fun r => decide (r < q) && decide (qPort c r = qPort c q))

/-- A member's copy can be decided: a copy waits, unmarked, its class is not paused and its port not held. -/
def memberReady (k : Clk) (c : Chip) (q : Nat) : Bool :=
  let n := qPort c q
  (match noticesOf c q with | h :: _ => !h.marked | [] => false) &&
  !pauseHolds c n (qCls c q) (Clk.abs k + 4) && !portHeld c n

/-- The ports of release copies that are due in this clock and not yet decided, other than `but`'s (R272). -/
def duePorts (k : Clk) (c : Chip) (but : Option Nat) : List (Fin 512) :=
  c.doors.flatMap (fun e =>
    if grpState c e.1 = 0 then []
    else ((members c e.1).filter (fun q => decide (but ≠ some q) && !e.2.done.contains q && !e.2.late.contains q &&
      memberReady k c q && (match memberDue (memberReady k c) k c e.1 q with | .now _ => true | _ => false))).map (qPort c))

/-- A further request of the port, for a copy other than one due now, fits within the limits of its clock beside the copies that
are: these are decided first and always have theirs (R44, R272). -/
def reqRoom (k : Clk) (c : Chip) (n : Fin 512) : Bool :=
  let ds := (duePorts k c none).filter (fun m => decide (cxOf m = cxOf n))
  reqFits k c n (ds.countP (fun m => decide (pgKey m = pgKey n))) ds.length

/-- LATE_REL, its count and the group's LATE (R279, R286). -/
def countLate (q : Nat) (group : Nat) (c : Chip) : Chip :=
  let p := dorPage (Fin.ofNat 2 (q / 65536))
  setGrpFlag group 2 true (Chip.cause (Chip.bump c p 0x090) p 8)

/-- A member's copy decided (R275, R279, R280): `goal` is its release position where it is not late. -/
def decideMember (k : Clk) (g q : Nat) (goal : Option Nat) (late : Bool) (c : Chip) : Chip :=
  let p := dorPage (Fin.ofNat 2 (q / 65536))
  let n := qPort c q
  let trail := trails c g q
  let c := issueCopy k q (some g) (if trail then none else goal) late c
  let c := setPort n { Chip.port c n with relAt := some (Clk.abs k) } c
  let c := if late then countLate q g c else if trail then c else Chip.bump c p 0x088
  let c := if trail then Chip.bump c p 0x0B0 else c
  let c := if grpState c g = 1 then
      setGrp g 44 1 2 (if grpFlag c g 1 then c else setGrp g 32 12 (stamp96 (grpStamp c g 0)) c)
    else c
  let d := Chip.door c g
  setGrp g 28 4 (grp c g 28 4 + 1) (setDoor g { d with done := d.done ++ [q] } c)

/-- Half the start spacing of a mode, in 2^-16 ns (R276, R277). -/
def halfSpacing (m : Nat) : Nat := startSpacing m * 65536 / 2000

/-- The first instant after `t` at which the port of a member has a legal start within half its spacing, where it has none
there now (R276). A mode without a blackout moves nothing. -/
def memberShift (k : Clk) (c : Chip) (t q : Nat) : Option Nat :=
  let n := qPort c q
  let h := halfSpacing (Chip.modeAt c n)
  match nearStart k c n t, bitNear k c n t with
  | some b, some x =>
    if blackoutNs (Chip.line c n) = 0 ∨ startMiss k c n t b ≤ h then none
    else some (stampAdd (bitStamp k c.time c n (nextStart (Chip.line c n) 8 x)) (-(h : Int)))
  | _, _ => none

/-- The instant moved until every member port has a legal start within half its spacing (R276): `n` bounds the moves. -/
def clearInstant (k : Clk) (c : Chip) (g : Nat) : Nat → Nat → Nat
  | 0, t => t
  | n + 1, t =>
    match (members c g).findSome? (memberShift k c t) with
    | some u => clearInstant k c g n u
    | none => t

/-- The owner moves the release instant past the blackouts that hold it (R276): once, before the first member decision. -/
def shiftInstant (k : Clk) (g : Nat) (c : Chip) : Chip :=
  let t := grpStamp c g 0
  let u := clearInstant k c g 32 t
  if u ≠ t ∧ grpState c g = 1 ∧ grpFlag c g 1 = false then
    let p := dorPage (groupCx g)
    setGrpFlag g 1 true (setGrp g 32 12 (stamp96 u) (Chip.cause (Chip.bump c p 0x0A8) p 10))
  else c

/-- A member queue's release decision (R275, R276, R279, R280). One due that finds no request left, or another group's copy in
its way, is late (R44, R278). -/
def releaseDecision (k : Clk) (q : Nat) (c : Chip) : Chip :=
  match qGroup c q with
  | none => c
  | some g =>
    let d := Chip.door c g
    let due (c : Chip) : Due := memberDue (memberReady k c) k c g q
    if qValid c q = false ∨ grpState c g = 0 ∨ d.done.contains q = true ∨ d.late.contains q = true ∨ due c = .early then c
    else
      let c := shiftInstant k g c
      match due c with
      | .early => c
      | .now b =>
        let n := qPort c q
        if memberReady k c q && reqFits k c n 0 0 &&
            !doorBlocks k c n (some g) (wireSlot k c n ((noticesOf c q).headD ⟨0, 0, false⟩).len).2 then decideMember k g q (some b) (decide (Chip.cur c (qPort c q) ≥ 32)) c
        else setDoor g { d with late := d.late ++ [q] } c
      | .past =>
        let n := qPort c q
        if memberReady k c q && reqRoom k c n &&
            !doorBlocks k c n (some g) (wireSlot k c n ((noticesOf c q).headD ⟨0, 0, false⟩).len).2
        then decideMember k g q none true c
        else setDoor g { d with late := d.late ++ [q] } c

/-- Late members of a port that can be decided now, in queue order (R278, R279). -/
def lateMember (k : Clk) (c : Chip) (n : Fin 512) : Option (Nat × Nat) :=
  c.doors.findSome? (fun e =>
    if grpState c e.1 = 0 then none
    else ((members c e.1).find? (fun q => decide (qPort c q = n) && e.2.late.contains q && !e.2.done.contains q &&
      memberReady k c q && !doorBlocks k c n (some e.1) (wireSlot k c n ((noticesOf c q).headD ⟨0, 0, false⟩).len).2)).map
      (fun q => (e.1, q)))

/-! Owed heads (R280). -/

/-- An owed head of a queue freed under MISS_ACT 0, where its clock has room for the request (R272, R280). -/
def payOwed (k : Clk) (q : Nat) (c : Chip) : Chip :=
  let n := kvGet 0 c.owed q
  if n = 0 ∨ (noticesOf c q).isEmpty = true ∨ reqRoom k c (qPort c q) = false then c
  else
    let c := { c with owed := if n = 1 then kvErase c.owed q else kvPut c.owed q (n - 1) }
    Chip.bump (dropHead k q c) (dorPage (Fin.ofNat 2 (q / 65536))) 0x0A0

/-- A queue of the port with an owed head that waits for its request (R272). -/
def owedQueue (c : Chip) (n : Fin 512) : Option Nat :=
  (portQueues c n).find? (fun q => decide (kvGet 0 c.owed q ≠ 0))

/-! The port node's decision (R257, R268, R271, R272, R328). -/

/-- A queue with a marked copy at its head (R271). -/
def markedQueue (c : Chip) (n : Fin 512) : Option Nat :=
  (portQueues c n).find? (fun q => match noticesOf c q with | h :: _ => h.marked | [] => false)

/-- A frame of a port's queues may be decided: not a marked or release-bound head, and clear of every release. -/
def queueMay (k : Clk) (c : Chip) (n : Fin 512) (q : Nat) : Bool :=
  match noticesOf c q with
  | h :: _ => !h.marked && (qGroup c q).isNone && !doorBlocks k c n none (wireSlot k c n h.len).2
  | [] => false

/-- The child a node makes for its parent's round: committed or excess; none where it is shaped or, being a CBS node,
waits on the wheel. -/
def childOf (c : Chip) (i id prio quant charge : Nat) : Option (Bool × Child) :=
  let n := getNode c i
  let g := nodeCfg c i
  if g.avb && n.onWheel then none
  else if isShaped g n then none
  else some (commitOk g n, ⟨id, i, prio, quant, charge⟩)

/-- The queue that a service node would serve, with the scheduler as it stands after that choice. -/
def svcPick (k : Clk) (c : Chip) (n : Fin 512) (cls : Nat) : Option (Child × Chip) :=
  let cs := ((svcQueues c n cls).filter (fun q => queueMay k c n q)).filterMap (fun q =>
    childOf c q (q % 65536) (bits (qCtl c q) 14 12) (bits (qCtl c q) 31 16)
      (portCharge c n ((noticesOf c q).headD ⟨0, 0, false⟩).len))
  if cs.isEmpty then none
  else pickChild c (cxOf n) (svcNode n cls) (Chip.liveFlag c (schPage n) (0x044 + 4 * cls) 3) cs

/-- The port node's choice: the queue, with the state after both choices (R257). -/
def portPick (k : Clk) (c : Chip) (n : Fin 512) : Option (Nat × Chip) :=
  let p := schPage n
  let cs := (List.range 8).filterMap (fun cls =>
    if pauseHolds c n cls (Clk.abs k + 4) then none
    else match svcPick k c n cls with
      | none => none
      | some r => childOf c (svcNode n cls) cls (Chip.live c p (0x044 + 4 * cls) 2 0)
          (Chip.live c p (0x044 + 4 * cls) 31 16) r.1.charge)
  if cs.isEmpty then none
  else
    match pickChild c (cxOf n) (portNode n) (Chip.liveFlag c p 0x040 0) cs with
    | none => none
    | some (a, c) => (svcPick k c n a.id).map (fun r => (r.1.node, r.2))

/-- Frames of a down port freed under DOWN_FLUSH, within the clock's request limits (R95). -/
def downFlush (k : Clk) (n : Fin 512) : Nat → Chip → Chip
  | 0, c => c
  | m + 1, c =>
    if !Chip.liveFlag c (prtPage n) 0x040 3 || decide (Chip.modeAt c n = 0) || decide (Chip.linkState c n ∈ [4, 6, 7]) ||
        !reqRoom k c n then c
    else
      match portQueues c n with
      | [] => c
      | q :: _ => downFlush k n m (Chip.bump (dropHead k q c) (prtPage n) 0x090)

/-- The length of a host frame on the wire, padded where PAD_EN is live (R111). -/
def hostLen (c : Chip) (n : Fin 512) (h : HostFrame) : Nat :=
  if Chip.liveFlag c (prtPage n) 0x100 2 then max 64 (h.bytes.length + 4) else h.bytes.length + 4

/-- A host frame taken from its port's queue (R328). -/
def takeHost (k : Clk) (n : Fin 512) (h : HostFrame) (rest : List HostFrame) (c : Chip) : Chip :=
  let len := hostLen c n h
  let now := Clk.abs k
  let c := chargePacer now n (portCharge c n len) { c with hostQ := kvPut c.hostQ n.val rest }
  txAdd k n { kind := .host h, tag := 0, cls := h.cls, len := len, reqAt := now + 4, arrived := some now, bytes := h.bytes } c

/-- The host frame that the port may take now: class not paused, clear of every release (R328, R278). -/
def hostHead (k : Clk) (c : Chip) (n : Fin 512) : Option (HostFrame × List HostFrame) :=
  match kvGet [] c.hostQ n.val with
  | h :: hs =>
    if pauseHolds c n h.cls (Clk.abs k + 4) || doorBlocks k c n none (wireSlot k c n (hostLen c n h)).2 then none
    else some (h, hs)
  | [] => none

/-- One decision of a port's scheduler (R268 to R272). -/
def decide1 (k : Clk) (n : Fin 512) (c : Chip) : Chip :=
  if Chip.modeAt c n = 0 then c
  else if !Chip.isUp c n then downFlush k n 8 c
  else if !reqRoom k c n then c
  else
    match owedQueue c n with
    | some q => payOwed k q c
    | none =>
      if portHeld c n then c
      else
        match lateMember k c n with
        | some (g, q) => decideMember k g q none true c
        | none =>
          if !portMay k c n then c
          else
            match markedQueue c n with
            | some q => Chip.bump (dropHead k q c) (schPage n) 0x1C0
            | none =>
              match hostHead k c n with
              | some (h, hs) => takeHost k n h hs c
              | none =>
                match portPick k c n with
                | some (q, c) => issueCopy k q none none false c
                | none => c

/-! Notices (R43, R256, R270, R271). -/

/-- An enqueue notice. -/
def enqueue (k : Clk) (x : Cx) (queue : Fin 65536) (len colour : Nat) (c : Chip) : Chip :=
  let q := 65536 * x.val + queue.val
  let w := whlPage x
  let now := Clk.abs k
  let c := Chip.bump c w 0x098
  let ns := noticesOf c q
  let depth := (ns.map (·.len)).sum
  let thr (o : Nat) : Bool := decide (qEntry c q o 2 ≠ 0) && decide (depth ≥ qEntry c q o 2 * 256)
  let valid := qValid c q
  let marked := (decide (colour = 1) && thr 24) || (decide (colour = 2) && thr 26)
  let n := qPort c q
  let wasS := nodeWaits c (svcNode n (qCls c q))
  let wasP := nodeWaits c (portNode n)
  let c := if valid && !wasS then wakeNode now (svcNode n (qCls c q)) c else c
  let c := if valid && !wasP then wakeNode now (portNode n) c else c
  let c := if valid && ns.isEmpty then wakeNode now q c else c
  let c := queueDepth q (setNotices q (ns ++ [⟨len, colour, marked⟩]) c)
  if valid then payOwed k q (depthSync n c) else Chip.bump c w 0x0A0

/-! The end of a release and the ARM commands (R274, R280, R281). -/

/-- A time becomes CUR: the group is ARMED, nothing decided. -/
def makeCurrent (g t96 : Nat) (c : Chip) : Chip :=
  let c := setGrpFlag g 2 false (setGrpFlag g 1 false c)
  setDoor g {} (setGrp g 28 4 0 (setGrp g 44 1 1 (setGrp g 0 12 t96 c)))

/-- The release of CUR is over (R280). -/
def releaseOver (k : Clk) (c : Chip) (g : Nat) : Bool :=
  let w := Chip.live c (dorPage (groupCx g)) 0x044 19 0
  let n := (members c g).length
  decide (grpState c g ≠ 0) && ((decide (0 < n) && decide (grp c g 28 4 ≥ n)) ||
    decide (Clk.stamp k ≥ stampAdd (instant c g) ((w * 1000 * 65536 : Nat) : Int)))

/-- A member that the window left undecided (R280). -/
def missMember (k : Clk) (g q : Nat) (c : Chip) : Chip :=
  let p := dorPage (Fin.ofNat 2 (q / 65536))
  let c := Chip.cause (Chip.bump c p 0x098) p 9
  if Chip.liveFlag c (dorPage (groupCx g)) 0x040 0 then c
  else payOwed k q { c with owed := kvPut c.owed q (kvGet 0 c.owed q + 1) }

/-- A release ends (R280). Assumption 76 (DEDUCED, unsafe). -/
def releaseEnd (k : Clk) (g : Nat) (c : Chip) : Chip :=
  if !releaseOver k c g then c
  else
    let d := Chip.door c g
    let c := ((members c g).filter (fun q => !d.done.contains q)).foldl (fun c q => missMember k g q c) c
    let c := setGrp g 32 12 (stamp96 (instant c g)) c
    let c := setGrp g 48 8 (grp c g 48 8 + 1) (Chip.bump c (dorPage (groupCx g)) 0x080)
    if grpFlag c g 0 then
      makeCurrent g (grp c g 12 12) (setGrp g 12 12 0 (setGrpFlag g 0 false c))
    else setDoor g {} (setGrp g 44 1 0 c)

/-- Status of a DOR_ARM_CMD command. -/
def armStatus (x : Cx) (st : Nat) (busy : Bool) (c : Chip) : Chip :=
  let p := dorPage x
  Chip.setFld (Chip.setFld c p 0x064 7 4 st) p 0x064 0 0 (b2n busy)

/-- The group selected for a command. -/
def armGroup (c : Chip) (x : Cx) : Nat := 512 * x.val + Chip.fld c (dorPage x) 0x048 8 0

/-- ARM (R274). Assumption 75 (DEDUCED, unsafe). -/
def arm (x : Cx) (c : Chip) : Chip :=
  let p := dorPage x
  let g := armGroup c x
  let nsfv := Chip.fld c p 0x058 47 0
  let t96 := Chip.fld c p 0x050 47 0 * 2 ^ 48 + nsfv
  let reject (st : Nat) : Chip := armStatus x st false (Chip.bump c p 0x0B8)
  if Chip.locked c p then reject 4
  else if nsfv / 65536 ≥ 1000000000 then reject 2
  else if grpState c g = 0 then armStatus x 0 true (makeCurrent g t96 c)
  else if grpFlag c g 0 then reject 1
  else armStatus x 0 true (setGrpFlag g 0 true (setGrp g 12 12 t96 c))

/-- CANCEL (R281). -/
def cancel (x : Cx) (c : Chip) : Chip :=
  let p := dorPage x
  let g := armGroup c x
  if Chip.locked c p then armStatus x 4 false c
  else
    let c := setGrp g 12 12 0 (setGrpFlag g 0 false (Chip.bump c p 0x0C0))
    let c := if grpState c g = 1 ∧ (Chip.door c g).done.isEmpty = true then setDoor g {} (setGrp g 0 12 0 (setGrp g 44 1 0 c)) else c
    armStatus x 0 true c

/-- Both complexes have the command (R274, R286). -/
def armReached (x : Cx) (c : Chip) : Chip := Chip.setFld c (dorPage x) 0x064 0 0 0

end Sys2Proof.Machine
end

