-- ==== Sys2Proof/Machine/Ecc.lean ====
section
/-!
DEFINITION. The 144/128 code (R401 to R403) and what an error does (R75, R404).
-/
namespace Sys2Proof.Machine

/-- Multiplication by alpha in GF(16) with x^4 + x + 1 (R401). -/
def gf16Double (a : Nat) : Nat := if a ≥ 8 then (a * 2 % 16) ^^^ 3 else a * 2

/-- Multiplication in GF(16), `n` bits of `b`. -/
def gf16MulFrom : Nat → Nat → Nat → Nat
  | 0, _, _ => 0
  | n + 1, a, b => (if b % 2 = 1 then a else 0) ^^^ gf16MulFrom n (gf16Double a) (b / 2)

def gf16Mul (a b : Nat) : Nat := gf16MulFrom 4 a b

/-- The columns h_j of R402, h_0j in the most significant digit. -/
def eccColumns : List Nat := [
  0x1111, 0x1912, 0x1E13, 0x1D14, 0x1B15, 0x1716, 0x1617, 0x1F18, 0x1219,
  0x1C1A, 0x151B, 0x1A1C, 0x141D, 0x131E, 0x181F, 0x0121, 0x0112, 0x0173,
  0x01B4, 0x01E5, 0x0186, 0x0137, 0x0168, 0x01C9, 0x01DA, 0x014B, 0x019C,
  0x01AD, 0x015E, 0x1102, 0x1C03, 0x1F04, 0x1000, 0x0100, 0x0010, 0x0001]

/-- Component h_rj of a column. -/
def colAt (h r : Nat) : Nat := h / 16 ^ (3 - r) % 16

/-- Symbol r of the syndrome over the nibbles of a word, lowest first (R402). -/
def eccSymbol (r : Nat) (word : Nat) : Nat :=
  (eccColumns.zipIdx).foldl (fun s h => s ^^^ gf16Mul (colAt h.1 r) (word / 16 ^ h.2 % 16)) 0

/-- The 16-bit syndrome of a 144-bit word: S_r in bits 4r + 3 to 4r (R402). -/
def eccSyndrome (word : Nat) : Nat :=
  eccSymbol 0 word + 16 * eccSymbol 1 word + 256 * eccSymbol 2 word + 4096 * eccSymbol 3 word

/-- The codeword of 128 data bits (R401, R402). -/
def eccEncode (data : Nat) : Nat := data % 2 ^ 128 + eccSyndrome (data % 2 ^ 128) * 2 ^ 128

/-- What the decoder finds (R403): clean, an error `e` in nibble `j`, or an uncorrectable error. -/
inductive EccRes where
  | clean
  | correct (j e : Nat)
  | uncorrectable
deriving DecidableEq, Repr

/-- The decoder on a syndrome (R403). -/
def eccDecode (s : Nat) : EccRes :=
  let sym (r : Nat) : Nat := s / 16 ^ r % 16
  match [0, 1, 2, 3].find? (fun r => decide (sym r ≠ 0)) with
  | none => .clean
  | some m =>
    let e := sym m
    match (eccColumns.zipIdx).find? (fun h =>
        [0, 1, 2, 3].all (fun r => decide (gf16Mul e (colAt h.1 r) = sym r))) with
    | some h => .correct h.2 e
    | none => .uncorrectable

/-- Symbol r of a syndrome (R402). -/
def eccSym (s r : Nat) : Nat := s / 16 ^ r % 16

/-- A stored word as the decoder returns it: none where the error is uncorrectable (R403). -/
def eccFix (word : Nat) : Option Nat :=
  match eccDecode (eccSyndrome word) with
  | .clean => some word
  | .correct j e => some (word ^^^ e * 16 ^ j)
  | .uncorrectable => none

/-- The error met in a word, if its syndrome is one (R403). -/
def eccMet (e : Option EccErr) : Option EccErr := e.filter (fun e => decide (eccDecode e.synd ≠ .clean))

/-- The data bytes of a word that cannot be corrected, as read (R403). -/
def eccLost (e : EccErr) : Option (List Byte) := if eccDecode e.synd = .uncorrectable then some e.raw else none

def hltPage (x : Cx) : Page := onePage x .hlt
def Chip.hltOf (c : Chip) (x : Cx) : HltSt := kvGet {} c.hlt x.val
def setHlt (x : Cx) (h : HltSt) (c : Chip) : Chip := { c with hlt := kvPut c.hlt x.val h }

/-- A correctable error of a complex counted (R404). -/
def countCorr (x : Cx) (c : Chip) : Chip :=
  let h := Chip.hltOf c x
  Chip.bump (setHlt x { h with corr := h.corr + 1 } c) (hltPage x) 0x100

/-- An uncorrectable table, state or counter word counted (R404). -/
def countUncorr (x : Cx) (c : Chip) : Chip :=
  let h := Chip.hltOf c x
  Chip.bump (setHlt x { h with uncorr := h.uncorr + 1 } c) (hltPage x) 0x108

/-- HDR_ERR_ADDR of a table location (R65). -/
def tableAddr (t r : Nat) : Nat := 2 ^ 31 + t % 256 * 2 ^ 18 + r % 2 ^ 18

/-- A correctable error in a table word: counted, and captured by the owner (R75, R404, R407). -/
def tableCorr (p : Page) (t r synd source : Nat) (c : Chip) : Chip :=
  Chip.capture (countCorr (Page.home p) c) p source 1 (tableAddr t r) synd

/-- The repair unit of a row: 4,096 rows of a table (R408). -/
def repairUnit (p : Page) (t r : Nat) : Nat := (Page.base p / 0x1000 * 256 + t) * 64 + r / 4096

/-- The key of a word of a row. -/
def wordKey (p : Page) (t r w : Nat) : Nat := rowKey p t r + 16 * w

/-- Has the word been found uncorrectable in this clock (R405)? -/
def foundNow (k : Clk) (h : HltSt) (key : Nat) : Bool := decide (h.found.1 = Clk.abs k) && h.found.2.contains key

/-- An uncorrectable error makes its word's row a repair candidate; one in a unit without a free spare is remembered
(R408, R417). -/
def suspectWord (k : Clk) (p : Page) (t r w : Nat) (c : Chip) : Chip :=
  let x := Page.home p
  let h := Chip.hltOf c x
  let key := wordKey p t r w
  setHlt x { h with
    suspect := if h.suspect.contains key then h.suspect else key :: h.suspect
    found := (Clk.abs k, key :: (if h.found.1 = Clk.abs k then h.found.2 else []))
    noSpare := h.noSpare || decide (kvGet 0 h.spares (repairUnit p t r) ≥ 4) } c

/-- Tables of software's words that have no valid bit: invalidating a row writes zeros (R81, R150, R422). The others
without one hold counters and state. -/
def isStaging (p : Page) (t : Nat) : Bool :=
  match p, t with
  | .tim, 1 => true
  | .cx _ .swp _, 0 => true
  | _, _ => false

/-- The item of a word that cannot be corrected, in a table that no entry is written to: a node or a release group returns to
its first-use state, any other word restarts from zero (R404, R449). -/
def itemFresh (k : Clk) (p : Page) (t r w : Nat) (c : Chip) : Chip :=
  match p, t with
  | .cx x .whl _, 1 => queueDepth (65536 * x.val + r) (freshNode (Clk.abs k) (65536 * x.val + r) c)
  | .cx x .sch i, 0 =>
    freshNode (Clk.abs k) (if r < 8 then svcNode (laneOf x i.val) r else portNode (laneOf x i.val)) c
  | .cx x .dor _, 0 => zeroRow p t r 64 { c with doors := kvErase c.doors (512 * x.val + r) }
  | _, _ => Chip.setRow c p t r (16 * w) (List.replicate 16 0)

/-- An uncorrectable error in word `w` of a row: an entry is invalidated, the word zeroed, and captured; any other item starts
afresh, captured where a table command read it; FAULT, the count and the log entry (R75, R82, R404, R408). -/
def tableUncorr (k : Clk) (p : Page) (t r w synd source : Nat) (c : Chip) : Chip :=
  let x := Page.home p
  let c := suspectWord k p t r w (countUncorr x (Chip.setFault c p))
  match tableOf c.part p t with
  | some ⟨_, _, .entry b⟩ =>
    let c := Chip.setRow (clearValid p t r b c) p t r (16 * w) (List.replicate 16 0)
    let c := Chip.capture c p source 2 (tableAddr t r) synd
    Chip.log c k x 0x10 p (r % 2 ^ 24 + t * 2 ^ 24 + synd * 2 ^ 32 + source * 2 ^ 48)
  | some i =>
    if isStaging p t then
      let c := Chip.capture (zeroRow p t r i.bytes c) p source 2 (tableAddr t r) synd
      Chip.log c k x 0x10 p (r % 2 ^ 24 + t * 2 ^ 24 + synd * 2 ^ 32 + source * 2 ^ 48)
    else
    let c := if source = 1 then Chip.capture c p source 2 (tableAddr t r) synd else c
    Chip.log (itemFresh k p t r w c) k x 0x11 p (r % 2 ^ 24 + t * 2 ^ 24 + synd * 2 ^ 32)
  | none => c

/-- An ECC error met by a lookup, source 3, or a command, source 1 (R220, R404): it finds the row corrected, or not valid. -/
def lookupErr (k : Clk) (source : Nat) (e : LookupErr) (c : Chip) : Chip :=
  match eccMet (some e.err) with
  | none => c
  | some m =>
    match eccLost m with
    | none => tableCorr e.page e.table e.row m.synd source c
    | some _ => tableUncorr k e.page e.table e.row m.word m.synd source c

/-- The errors that stand in rows as they are read, each met once (R75, R404). Assumption 16 (DESIGN CHOICE, unsafe). -/
def meet (k : Clk) (source : Nat) (reads : LookupErr → Bool) (c : Chip) : Chip :=
  (c.latent.filter reads).foldl (fun c e => lookupErr k source e c)
    { c with latent := c.latent.filter (fun e => !reads e) }

/-- Is the error's row one of these of a table? -/
def LookupErr.inRows (p : Page) (t : Nat) (rows : List Nat) (e : LookupErr) : Bool :=
  decide (e.page = p) && decide (e.table = t) && rows.contains e.row

/-- Is the error's row one of these tables of a page? -/
def LookupErr.inTables (p : Page) (ts : List Nat) (e : LookupErr) : Bool := decide (e.page = p) && ts.contains e.table

/-- Rows of a table read. -/
def meetRows (k : Clk) (source : Nat) (p : Page) (t : Nat) (rows : List Nat) (c : Chip) : Chip :=
  meet k source (LookupErr.inRows p t rows) c

/-- The error that stands in a row, or in its word `w`, if any, and the chip without it. -/
def standing (p : Page) (t r : Nat) (w : Option Nat) (c : Chip) : Option EccErr × Chip :=
  let mine (e : LookupErr) : Bool := LookupErr.inRows p t [r] e && (match w with | some w => decide (e.err.word = w) | none => true)
  match c.latent.find? mine with
  | some e => (some e.err, { c with latent := c.latent.filter (fun g => !decide (g = e)) })
  | none => (none, c)

/-- What a notice reads: its queue's entry and state (R43). -/
def noticeReads (x : Cx) (q : Nat) (e : LookupErr) : Bool :=
  LookupErr.inRows (whlPage x) 0 [q] e || LookupErr.inRows (whlPage x) 1 [q] e

/-- What a decision reads: the entries and state of the complex's queues, and the port's nodes (R272). -/
def decisionReads (n : Fin 512) (e : LookupErr) : Bool :=
  LookupErr.inTables (whlPage (cxOf n)) [0, 1] e || LookupErr.inTables (schPage n) [0] e

/-- What a release decision reads: also its group (R275). -/
def releaseReads (x : Cx) (q g : Nat) (e : LookupErr) : Bool :=
  noticeReads x q e || LookupErr.inRows (onePage (Fin.ofNat 2 (g / 512)) .dor) 0 [g % 512] e

/-- A row written anew carries fresh check bits (R405). -/
def rewritten (p : Page) (t r : Nat) (c : Chip) : Chip :=
  { c with latent := c.latent.filter (fun e => !LookupErr.inRows p t [r] e) }

/-- An uncorrectable bus word (R404, R420, R421): PG in the complex, stage, direction (1 transmit). -/
def busUncorr (k : Clk) (x : Cx) (pg stage dir synd : Nat) (c : Chip) : Chip :=
  let h := Chip.hltOf c x
  let p := hltPage x
  let c := Chip.bump (setHlt x { h with bus := h.bus + 1 } c) p 0x110
  let c := if Chip.flag c p 0x050 31 then c
    else Chip.put c p 0x050 (BitVec.ofNat 64 (2 ^ 31 + dir * 2 ^ 24 + stage % 16 * 2 ^ 16 + pg % 32))
  let c := Chip.capture c p 4 2 0 synd
  Chip.log c k x 0x12 p (pg % 32 + stage % 16 * 2 ^ 8 + dir * 2 ^ 12 + synd * 2 ^ 32)

/-- What the stage boundaries of a port's bus find: `corr` words corrected, and one that is not correctable (R404). -/
def busMet (k : Clk) (n : Fin 512) (dir corr : Nat) (e : Option BusErr) (c : Chip) : Chip :=
  let c := (List.range corr).foldl (fun c _ => countCorr (cxOf n) c) c
  match e with
  | some b => busUncorr k (cxOf n) (pgKey n) b.stage.val dir b.synd c
  | none => c

end Sys2Proof.Machine
end

