-- ==== Sys2Proof/Machine/Egress.lean ====
section
/-!
DEFINITION. The transmit path (R19, R44 to R46, R95, R110 to R114, R162 to R174, R283, R290, R329, R332, R373): requests
issued, responses, stage 3, the end of a frame, and queue telemetry (R282).
-/
namespace Sys2Proof.Machine

/-! Requests (R44). -/

/-- Requests of one port whose clock has come: configuration and threshold are taken (R33, R114). -/
def issuePort (now n : Nat) (c : Chip) : Chip :=
  let port : Fin 512 := Fin.ofNat 512 n
  let p := Chip.port c port
  let due (f : TxFrame) : Bool := f.cfg.isNone && decide (f.reqAt ≤ now)
  if p.tx.any due then
    let es := p.tx.filter due
    let regs := c.regs
    let cur := Chip.cur c port
    let c := setPort port { p with tx := p.tx.map (fun f => if due f then { f with cfg := some regs, cur := cur } else f) } c
    es.foldl (fun c f => match f.kind with
      | .queue q => Chip.emit c (.dequeue (q / 65536) (q % 65536) (n % 256) 0 f.tag)
      | _ => c) c
  else c

/-- Requests whose clock has come leave for the buffer, DROP_HEADs among them. -/
def issueDue (now : Nat) (c : Chip) : Chip :=
  let ds := c.drops.filter (fun d => decide (d.1 ≤ now))
  let c := if ds.isEmpty then c else { c with drops := c.drops.filter (fun d => decide (d.1 > now)) }
  let c := ds.foldl (fun c d => Chip.emit c (.dequeue d.2.1 d.2.2.1 d.2.2.2.1 1 d.2.2.2.2)) c
  (c.ports.map (·.1)).foldl (fun c n => issuePort now n c) c

/-! Responses (R45, R46). -/

/-- The port and frame of a complex that a TAG names. -/
def findTag (c : Chip) (x : Cx) (tag : Nat) : Option (Fin 512 × TxFrame) :=
  c.ports.findSome? (fun e =>
    if e.1 / 256 = x.val then
      (e.2.tx.find? (fun f => decide (f.tag = tag) && f.arrived.isNone && f.cfg.isSome &&
        (match f.kind with | .queue _ => true | _ => false))).map (fun f => (Fin.ofNat 512 e.1, f))
    else none)

/-- Replace the first frame of a port that satisfies a test. -/
def txMap (n : Fin 512) (test : TxFrame → Bool) (g : TxFrame → Option TxFrame) (c : Chip) : Chip :=
  let p := Chip.port c n
  let rec go : List TxFrame → List TxFrame
    | [] => []
    | f :: fs => if test f then (match g f with | some h => h :: fs | none => fs) else f :: go fs
  setPort n { p with tx := go p.tx } c

def TxFrame.isTag (tag : Nat) (f : TxFrame) : Bool :=
  decide (f.tag = tag) && f.arrived.isNone && f.cfg.isSome && (match f.kind with | .queue _ => true | _ => false)

/-- Number of the queue of a frame, 0 for one of no queue. -/
def TxFrame.qnum (f : TxFrame) : Nat := match f.kind with | .queue q => q | _ => 0

/-- A release copy counted late once (R46, R279). -/
def lateCopy (f : TxFrame) (c : Chip) : Chip :=
  match f.group with
  | some g => if f.late then c else countLate f.qnum g c
  | none => c

/-- The oldest frame of a complex that a TAG names and whose first segment has arrived. -/
def tagFrame (c : Chip) (x : Cx) (tag : Nat) : Option (Fin 512) :=
  c.ports.findSome? (fun e =>
    if e.1 / 256 = x.val ∧
        e.2.tx.any (fun f => decide (f.tag = tag) && f.arrived.isSome && (match f.kind with | .queue _ => true | _ => false)) = true
    then some (Fin.ofNat 512 e.1) else none)

/-- Does a first segment that arrives now come late (R46)? A frame held for store-and-forward is never late (R113). -/
def lateResponse (k : Clk) (f : TxFrame) : Bool := decide (Clk.abs k > f.reqAt + 48) && decide (f.cur < 32)

/-! R-TAG (R373). -/

/-- Offset of the type field after the source address and up to two IEEE 802.1Q tags (R371). -/
def tagPos (bs : List Byte) : Nat :=
  let q (o : Nat) : Bool := decide (wireNat bs o 2 = 0x8100) || decide (wireNat bs o 2 = 0x88A8)
  if q 12 then (if q 16 then 20 else 16) else 12

/-- OFFSET of a stream entry, and its MODE as configured at `q`. -/
def rtag (c : Chip) (n : Fin 512) (word : Nat) (bs : List Byte) : List Byte :=
  let s := bits word 63 50
  let row (o w : Nat) : Nat := Chip.rowNat c .cap 0 s o w
  let ctl := row 16 8
  let mode := bits ctl 2 1
  if bit word 3 && bit ctl 0 && (decide (mode = 1) || decide (mode = 2)) &&
      Chip.liveFlag c .cap (0x200 + 4 * (n.val / 32)) (n.val % 32) then
    let sq := beBytes 2 (bits word 191 128 + row 8 2)
    let o := tagPos bs
    if wireNat bs o 2 = 0xF1C1 then patch bs (o + 4) sq
    else bs.take o ++ [0xF1, 0xC1, 0, 0] ++ sq ++ bs.drop o
  else bs

/-! Telemetry (R282, R283). -/

def telPage (x : Cx) : Page := onePage x .tel

/-- A delay in whole nanoseconds, not below 0, saturating at 32 bits. -/
def delayNs (d : Int) : Nat := min (d.toNat / 65536) 0xFFFFFFFF

/-- The running average moves one sixteenth of the way to a delay; the first delay is the average (R282, R452). -/
def avgMove (avg : Option Nat) (d : Nat) : Nat :=
  match avg with
  | none => d
  | some a =>
    let s := 15 * a + d
    s / 16 + (if s % 16 = 0 then 0 else Config.telRound a d % 2)

/-- The bin of a delay, in 2^-16 ns, with unit `u` ns (R283). -/
def delayBin (u : Nat) (d : Nat) : Nat :=
  if d < u * 65536 then 0 else min 31 (Nat.log2 (d / (u * 65536)) + 1)

/-- A dequeued frame's delay recorded: the queue's own record, and a bin of its service node (R282, R283). `cfg` holds the
configuration of its request (R33); a page that is not enabled, or quiesces, bins nothing (R66). Assumption 77 (DEDUCED, unsafe). -/
def recordDelay (cfg : Chip) (q : Nat) (n : Fin 512) (cls : Nat) (d : Int) (c : Chip) : Chip :=
  let x := cxOf n
  let ns := delayNs d
  let t := kvFind c.tel q
  let c := { c with tel := kvPut c.tel q ⟨ns, max ((t.map (·.top)).getD 0) ns, avgMove (t.map (·.avg)) ns⟩ }
  let p := telPage x
  if Chip.liveFlag cfg p 0x040 1 && Chip.enabled cfg p && !Chip.flag c p 0x008 1 then
    Chip.bumpRow c p 1 (8 * portPos n + cls) (8 * delayBin (Chip.live cfg p 0x040 31 16) d.toNat) 8 1
  else c

/-- The sample of one queue (R282). -/
def sampleQueue (k : Clk) (x : Cx) (c : Chip) (r : Nat) : Chip :=
  let q := 65536 * x.val + r
  let ns := noticesOf c q
  let p := telPage x
  let t := kvFind c.tel q
  let v := kvGet ⟨0, 0, 0⟩ c.tel q
  let row := leBytes 8 (k.turn % 2 ^ 56 + 2 ^ 62 * b2n t.isNone + 2 ^ 63) ++ leBytes 4 ns.length ++ leBytes 4 v.top ++
    leBytes 8 (ns.map (·.len)).sum ++ leBytes 4 v.last ++ leBytes 4 v.avg
  let c := match t with
    | some t => { c with tel := kvPut c.tel q { t with top := 0 } }
    | none => c
  Chip.bump (Chip.setRow c p 0 r 0 row) p 0x088

/-- Telemetry samples are taken, and those of this turn have been neither taken nor missed (R24, R282). -/
def sampleOwed (k : Clk) (c : Chip) (x : Cx) : Bool :=
  Chip.liveFlag c (telPage x) 0x040 0 && Chip.accepting c (telPage x) && decide ((Chip.schedOf c x).sampled ≠ some k.turn)

/-- Telemetry sampling of a turn, once, in clocks 64 to 1,535 (R24, R282). -/
def telemetrySample (k : Clk) (x : Cx) (c : Chip) : Chip :=
  if sampleOwed k c x && decide (64 ≤ k.clock) && decide (k.clock < 1536) then
    (List.range 64).foldl (fun c i => sampleQueue k x c (64 * (k.turn % 1024) + i))
      (setSched x { Chip.schedOf c x with sampled := some k.turn } c)
  else c

/-! Stage 3 (R111, R112, R162 to R174, R290). -/

/-- Is a copy journalled (R288)? -/
def TxFrame.journals (f : TxFrame) : Bool := (match f.kind with | .queue _ => true | _ => false) && bit f.word 0 && bit f.word 2

/-- The chip under a frame's configuration (R33, R164). -/
def Chip.underTx (c : Chip) (f : TxFrame) : Chip := { c with regs := f.cfg.getD c.regs }

/-- The egress record of a copy, once its first 256 bytes or all of them have passed stage 3 (R290). -/
def egressRecord (n : Fin 512) (whole : Bool) (f : TxFrame) (c : Chip) : Chip × TxFrame :=
  if f.recDone || !f.journals || !(whole || decide (f.bytes.length ≥ 256)) then (c, f)
  else
    let w := f.word
    let flags := b2n f.unlocked + 2 * b2n (bit w 4) + 4 * b2n (bit w 5) + 16 * b2n (bit w 6) + 32 * b2n (bit w 11) +
      64 * b2n f.late
    let r := formFrame (cxOf n) (f.cfg.getD c.regs) ⟨flags, bits w 27 26, bits w 31 28, 1, n.val, f.stamp, bits w 111 94, bits w 191 128,
      if whole then f.bytes.length else f.len, bits w 127 112, f.bytes⟩ c
    (r.1, { f with recDone := true, seq := r.2 })

/-- The capture copy of an egress frame (R332). -/
def egressCapture (k : Clk) (n : Fin 512) (f : TxFrame) (c : Chip) : Chip × TxFrame :=
  if bit f.word 9 then
    let r := capture k (cxOf n) 1 n.val f.stamp (bits f.word 127 112) f.bytes none c
    (r.1, { f with cap := r.2 })
  else (c, f)

/-- The oldest frame of a port that has not passed stage 3 and is to be sent. -/
def nextEdit (c : Chip) (n : Fin 512) : Option TxFrame := (Chip.port c n).tx.find? (fun f => !f.edited && !f.dead)

def TxFrame.isEdit (f : TxFrame) : Bool := !f.edited && !f.dead

/-- May the frame start stage 3 (R45, R46, R113)? -/
def editDue (k : Clk) (f : TxFrame) (whole : Bool) : Bool :=
  match f.arrived with
  | none => false
  | some a => decide (Clk.abs k ≥ f.reqAt + 48) && decide (Clk.abs k ≥ a) && f.cfg.isSome &&
      (decide (f.cur < 32) || whole || (match f.kind with | .host _ => true | _ => false))

/-- PTP arguments of a frame (R168 to R171). -/
def ptpArgs (q : Chip) (k : Clk) (n : Fin 512) (f : TxFrame) (stamp : Nat) : PtpArgs :=
  let port : Fin 512 := Fin.ofNat 512 (bits f.word 49 41)
  match f.kind with
  | .host h => ⟨(Chip.getLive q (stpPage n) 0x040).toNat, true, h.ref.map (extendShort k), 0, stamp, 0⟩
  | _ => ⟨(Chip.getLive q (stpPage n) 0x040).toNat, bit f.word 11, none, extendShort k (bits f.word 255 192), stamp,
      (Chip.getLive q (stpPage port) 0x048).toNat % 2 ^ 32⟩

/-- Is the frame a PTP event message (R40, R168)? A host frame straight to the port carries no flags: its own bytes
say. -/
def ptpEvent (f : TxFrame) (bs : List Byte) : Bool :=
  match f.kind with
  | .host _ => match findPtp 7 bs with
    | some h => decide (wireNat bs h.off 1 % 16 ≤ 3)
    | none => false
  | _ => bit f.word 8

/-- An armed transmit probe records an egress stamp (R174). -/
def probeTx (n : Fin 512) (stamp : Nat) (c : Chip) : Chip :=
  let p := Chip.port c n
  if p.probeTx then
    let s := stpPage n
    let c := setPort n { p with probeTx := false } c
    let c := Chip.put (Chip.put c s 0x078 (BitVec.ofNat 64 (stampSec stamp))) s 0x080 (BitVec.ofNat 64 (stampNsf stamp))
    Chip.cause (Chip.setFld c s 0x050 1 1 1) s 9
  else c

/-- A host frame's bytes with padding and room for its FCS (R111). -/
def hostBytes (q : Chip) (n : Fin 512) (h : HostFrame) : List Byte :=
  let pad := Chip.liveFlag q (prtPage n) 0x100 2
  (if pad then h.bytes ++ List.replicate (60 - h.bytes.length) 0 else h.bytes) ++ [0, 0, 0, 0]

/-- A frame that passes stage 3 joins the local loopback, where LPBK is 1 (R102, R165). -/
def loopStart (n : Fin 512) (stamp : Nat) (bs : List Byte) (c : Chip) : Chip :=
  let p := Chip.port c n
  if Chip.lpbk c n = 1 then setPort n { p with loop := p.loop ++ [{ stamp := stamp, bytes := bs }] } c else c

/-- The frames of a loopback, the oldest not yet ended one ended with its bytes as sent. -/
def loopEnd (bs : List Byte) : List LoopFrame → List LoopFrame
  | [] => []
  | f :: fs => if f.done then f :: loopEnd bs fs else { f with bytes := bs, done := true } :: fs

/-- A frame's start on the port's lanes: idle is sent there while the port is looped back (R102). -/
def emitStart (n : Fin 512) (bs : List Byte) (stamp : Nat) (c : Chip) : Chip :=
  if Chip.lpbk c n = 1 then loopStart n stamp bs c else Chip.emit c (.txStart n.val bs stamp)

/-- A frame's end on the port's lanes, or on its local loopback. -/
def emitEnd (n : Fin 512) (bs : List Byte) (stomped : Bool) (c : Chip) : Chip :=
  let p := Chip.port c n
  if Chip.lpbk c n = 1 then setPort n { p with loop := loopEnd bs p.loop } c else Chip.emit c (.txEnd n.val bs stomped)

/-- Have the bytes of a frame come with which its PTP update is decided: all, the 128 of R168, or its header? -/
def ptpReady (ctl : Nat) (whole : Bool) (bs : List Byte) : Bool :=
  whole || decide (128 ≤ bs.length) || (match findPtp ctl bs with | some h => decide (h.off + 44 ≤ bs.length) | none => false)

/-- A frame's bytes pass stage 3, the last of them where `whole`: the PTP update, once its header has come, the egress record
and the capture copy (R168, R290, R332). -/
def passStage3 (k : Clk) (n : Fin 512) (whole : Bool) (f : TxFrame) (c : Chip) : Chip × TxFrame :=
  let a := ptpArgs (Chip.underTx c f) k n f f.stamp
  let e := if f.ptp && ptpReady a.ctl whole f.bytes then ptpEdit a f.bytes else (f.bytes, .none)
  let c := ptpCount n e.2 c
  let r := egressRecord n whole { f with bytes := e.1, ptp := f.ptp && !ptpReady a.ctl whole f.bytes } c
  if whole && !f.whole then egressCapture k n { r.2 with whole := true } r.1 else r

/-- The frame of a port that a TAG names and whose first segment has arrived. -/
def TxFrame.isOpen (tag : Nat) (f : TxFrame) : Bool :=
  decide (f.tag = tag) && f.arrived.isSome && (match f.kind with | .queue _ => true | _ => false)

/-- Later segments of a frame join the transmit buffer (R45); past stage 3 they are edited with it. -/
def moreSegments (k : Clk) (n : Fin 512) (tag : Nat) (bs : List Byte) (c : Chip) : Chip :=
  match (Chip.port c n).tx.find? (TxFrame.isOpen tag) with
  | none => c
  | some f =>
    let f := { f with bytes := f.bytes ++ bs }
    let r := if f.edited then passStage3 k n false f c else (c, f)
    txMap n (TxFrame.isOpen tag) (fun _ => some r.2) r.1

/-- A response to a dequeue request (R45, R46). The notice taken as the request was decided is the whole correction of the
queue's depth at an EMPTY. Assumption 123 (DESIGN CHOICE, unsafe). -/
def response (k : Clk) (x : Cx) (tag : Nat) (r : DeqResponse) (c : Chip) : Chip :=
  let p := onePage x .cpx
  match r with
  | .more bs =>
    (match tagFrame c x tag with
     | some n => moreSegments k n tag bs (busLine (64 + n.val / 8) (ceilDiv bs.length 64) c)
     | none => c)
  | .empty =>
    (match findTag c x tag with
     | some (n, f) =>
       let c := if lateResponse k f then
           Chip.log (Chip.bump c p 0x100) k x 0x30 p (portPos n + f.qnum % 65536 * 2 ^ 8 + f.tag * 2 ^ 24)
         else c
       Chip.bump (txMap n (TxFrame.isTag tag) (fun _ => none) c) p 0x108
     | none => c)
  | .first w bs =>
    match findTag c x tag with
    | none => c
    | some (n, f) =>
      let c := busLine (64 + n.val / 8) (ceilDiv bs.length 64) c
      let isLate := lateResponse k f
      let c := if isLate then
          lateCopy f (Chip.log (Chip.bump c p 0x100) k x 0x30 p (portPos n + f.qnum % 65536 * 2 ^ 8 + f.tag * 2 ^ 24))
        else c
      if f.dead then Chip.bump (txMap n (TxFrame.isTag tag) (fun _ => none) c) (prtPage n) 0x440
      else txMap n (TxFrame.isTag tag) (fun f => some { f with
        arrived := some (Clk.abs k), word := w, bytes := bs, late := f.late || (isLate && f.group.isSome) }) c

/-- Clock at which a frame that starts stage 3 now reaches the transmit words at the earliest: stages 3 to 6 and the
threshold hold of its request (R20, R113, R125). -/
def txReady (k : Clk) (q : Chip) (n : Fin 512) (cur : Nat) : Nat :=
  let m := Chip.modeAt q n
  Clk.abs k + txLatency m (Chip.fecOff q n) - 3 + (if cur < 32 then cur * holdStep m else 0)

/-- The wire time that egress edit adds to a frame's notice length (R117). -/
def growWire (n : Fin 512) (was len : Nat) (c : Chip) : Chip :=
  let p := Chip.port c n
  setPort n { p with free := p.free + (wireTime (Chip.modeAt c n) len - wireTime (Chip.modeAt c n) was) } c

/-- Stage 3 of the oldest frame of a port: what is sent of it, when, and its stamp (R20, R111, R112, R162 to R173). A port
that receives remote fault starts none (R96). -/
def edit (k : Clk) (n : Fin 512) (i : EditInput) (c : Chip) : Chip :=
  match nextEdit c n with
  | none => c
  | some f =>
    let host := match f.kind with | .host h => some h | _ => none
    let whole := i.whole || host.isSome
    if !editDue k f whole || Chip.flag c (prtPage n) 0x04C 6 then c
    else
      let q := Chip.underTx c f
      let held := match host with
        | some h => hostBytes q n h
        | none => if i.bytes.length < f.bytes.length then f.bytes else i.bytes
      let runt := match host with
        | some h => decide (h.bytes.length < 60) && !Chip.liveFlag q (prtPage n) 0x100 2
        | none => false
      if runt then
        let c := Chip.bump (txMap n TxFrame.isEdit (fun _ => none) c) (prtPage n) 0x4F0
        match host with | some h => txBad k h c | none => c
      else
        let c := if bit f.word 3 then meetRows k 3 .cap 0 [bits f.word 63 50] c else c
        let tagged := if host.isSome then held else rtag { c with regs := q.regs } n f.word held
        let grow := tagged.length - held.length
        let len := if whole then tagged.length else f.len + grow
        if len > 16383 then Chip.bump (txMap n TxFrame.isEdit (fun _ => none) c) (prtPage n) 0x4E8
        else
          let l := place q (Chip.port c n) n (txReady k q n f.cur) len (f.goal.getD 0)
          let stamp := bitStamp k c.time q n l.bit
          let c := probeTx n stamp (growWire n f.len len (setLaunch n l c))
          let c := busMet k n 1 i.corr i.ecc c
          let f' := { f with
            edited := true, bytes := tagged, ptp := ptpEvent f tagged, len := len, launch := l.clock (Chip.modeAt q n), stamp := stamp
            unlocked := decide (Chip.timeState c ≠ 2), ecc := i.ecc.isSome
            late := f.late || (f.group.isSome && decide (Clk.abs k > f.reqAt + 48)) }
          let c := if f'.late && !f.late then lateCopy f c else c
          let c := match f.kind with
            | .queue qn => recordDelay q qn n f.cls (stampDiff stamp (extendShort k (bits f.word 255 192))) c
            | _ => c
          let r := passStage3 k n whole f' c
          let c := txMap n TxFrame.isEdit (fun _ => some r.2) r.1
          emitStart n r.2.bytes stamp (setPort n { Chip.port c n with lastStamp := stamp } c)

/-! The end of a frame (R110, R114, R127, R290, R329). -/

/-- Size bin of a length (R127). -/
def sizeBin (len : Nat) : Nat :=
  if len ≤ 64 then 0 else if len ≤ 127 then 1 else if len ≤ 255 then 2 else if len ≤ 511 then 3
  else if len ≤ 1023 then 4 else if len ≤ 1518 then 5 else if len ≤ 2047 then 6 else if len ≤ 4095 then 7
  else if len ≤ 9216 then 8 else 9

/-- Counter offset by destination address: individual, group, broadcast, from `base` (R127). -/
def addrOff (base : Nat) (bs : List Byte) : Nat :=
  if wireNat bs 0 6 = 0xFFFFFFFFFFFF then base + 16 else if bit (wireNat bs 0 1) 0 then base + 8 else base

/-- A frame sent whole counted (R127, R122). -/
def countSent (n : Fin 512) (f : TxFrame) (bs : List Byte) (c : Chip) : Chip :=
  let p := prtPage n
  let c := Chip.bumpBy (Chip.bump c p 0x400) p 0x408 bs.length
  let c := Chip.bump (Chip.bump c p (addrOff 0x410 bs)) p (0x490 + 8 * sizeBin bs.length)
  match f.kind with
  | .mac 0 _ => Chip.bump c p 0x448
  | .mac _ v => (List.range 8).foldl (fun c i => if bit v i then Chip.bump c p (0x450 + 8 * i) else c) c
  | _ => c

/-- Bytes with the FCS that is sent in place of the stored one: computed, or stomped (R110). -/
def withFcs (bs : List Byte) (stomp : Bool) : List Byte :=
  let d := bs.take (bs.length - 4)
  let f := crc32 d
  d ++ leBytes 4 (if stomp then 0xFFFFFFFF - f else f)

/-- A frame that ended stomped, or was never sent: its VOID record, capture copy, of what left stage 3, and host job (R290,
R329, R332). -/
def txVoid (k : Clk) (n : Fin 512) (f : TxFrame) (cause sent : Nat) (c : Chip) : Chip :=
  let r := if f.edited && !f.whole then egressCapture k n f c else (c, f)
  let c := r.1
  let f := r.2
  let c := match f.seq with | some s => formVoid k (cxOf n) cause n.val s sent c | none => c
  let c := match f.cap with | some (r, j) => captureEnd r j true c | none => c
  match f.kind with
  | .host h => txComplete h 5 0 c
  | _ => c

/-- Has a frame's first bit left? One that was to leave after the onset of a remote fault waits for its end (R96). -/
def launched (k : Clk) (c : Chip) (n : Fin 512) (f : TxFrame) : Bool :=
  decide (f.launch ≤ Clk.abs k) && !(Chip.flag c (prtPage n) 0x04C 6 && decide ((Chip.port c n).faultAt < f.launch))

/-- The frames that waited while a port received remote fault, and its line, go on `d` clocks later (R96).
Assumption 157 (DESIGN CHOICE, unsafe). -/
def resumeTx (n : Fin 512) (d : Nat) (c : Chip) : Chip :=
  let p := Chip.port c n
  if p.tx.any (fun f => f.edited && decide (p.faultAt < f.launch)) then
    setPort n { p with
      tx := p.tx.map (fun f => if f.edited && decide (p.faultAt < f.launch) then { f with launch := f.launch + d } else f)
      free := p.free + d * 3200, lineEnd := p.lineEnd + d * 3200 } c
  else c

/-- The frame on a port's wire: the oldest that has passed stage 3, once its first bit has left. -/
def onWire (k : Clk) (c : Chip) (n : Fin 512) : Option TxFrame :=
  match (Chip.port c n).tx.find? (fun f => !f.dead) with
  | some f => if f.edited && launched k c n f then some f else none
  | none => none

def TxFrame.live (f : TxFrame) : Bool := !f.dead

/-- The frame on the wire ends. `rest` are the last of its bytes, `e` its end-of-frame word. -/
def txFinish (k : Clk) (n : Fin 512) (rest : List Byte) (e : EofBits) (c : Chip) : Chip :=
  match onWire k c n with
  | none => c
  | some f =>
    let queued := match f.kind with | .queue _ => true | _ => false
    let c := busMet k n 1 e.corr e.ecc c
    let r := passStage3 k n true { f with bytes := if queued then f.bytes ++ rest else f.bytes } c
    let f := r.2
    let c := txMap n TxFrame.live (fun _ => none) r.1
    let fwd := queued && (e.fcsBad || e.trunc)
    let ecc := f.ecc || e.ecc.isSome || (queued && e.stomp)
    let p := prtPage n
    let sent := withFcs f.bytes (fwd || ecc)
    let c := emitEnd n sent (fwd || ecc) c
    if fwd then txVoid k n f 2 f.bytes.length (Chip.bump c p 0x430)
    else if ecc then txVoid k n f 3 f.bytes.length (Chip.bump c p 0x438)
    else
      let c := countSent n f sent c
      let c := match f.cap with | some (r, j) => captureEnd r j false c | none => c
      match f.kind with
      | .host h => txComplete h 0 f.stamp c
      | _ => c

/-- A port's line is free from now on: the frame on it was cut (R95, R114). -/
def cutLine (k : Clk) (n : Fin 512) (c : Chip) : Chip :=
  let p := Chip.port c n
  setPort n { p with lineEnd := min p.lineEnd (Clk.abs k * 3200) } c

/-- Byte `due` of the frame on the wire is due: an underrun where it is not there, every byte in the buffer having been sent
(R114). -/
def underrun (k : Clk) (n : Fin 512) (due : Nat) (c : Chip) : Chip :=
  match onWire k c n with
  | none => c
  | some f =>
    match f.kind with
    | .queue _ =>
      if f.cur ≥ 32 ∨ due < f.bytes.length then c
      else
        let p := prtPage n
        let c := cutLine k n (txMap n TxFrame.live (fun _ => none) c)
        let c := Chip.cause (Chip.bump c p 0x428) p 16
        let cur := Chip.cur c n
        let c := if cur < 32 then Chip.setFld c p 0x108 21 16 (cur + 1) else c
        let c := if cur + 1 = 32 then Chip.cause c p 17 else c
        txVoid k n f 1 f.bytes.length (emitEnd n (withFcs (f.bytes ++ [0, 0, 0, 0]) true) true c)
    | _ => c

/-- Bytes of a frame that have left since its first bit, after eight of preamble and start. -/
def sentBytes (k : Clk) (c : Chip) (n : Fin 512) (f : TxFrame) : Nat :=
  min f.len ((Clk.abs k - f.launch) * modeSpeed (Chip.modeAt c n) * 2 / 25 - 8)

/-- One frame of a port that leaves UP (R95): stomped if its first byte has left, else never sent; one not yet
arrived is discarded when it comes. One that has met an uncorrectable word counts as that (R127). -/
def txLose (k : Clk) (n : Fin 512) (f : TxFrame) (c : Chip) : Chip × Option TxFrame :=
  let p := prtPage n
  if f.dead then (c, some f)
  else if f.edited then
    let out := launched k c n f
    let bs := f.bytes.take (if out then sentBytes k c n f else 0)
    let c := if out then emitEnd n (withFcs (bs ++ [0, 0, 0, 0]) true) true c else c
    if out && f.ecc then (txVoid k n f 3 bs.length (Chip.bump c p 0x438), none)
    else (txVoid k n f 4 bs.length (Chip.bump c p 0x440), none)
  else if f.arrived.isSome then (txVoid k n f 4 0 (Chip.bump c p 0x440), none)
  else (c, some { f with dead := true })

/-- The transmit side of a port that leaves UP (R95, R328). -/
def txLost (k : Clk) (n : Fin 512) (c : Chip) : Chip :=
  let fs := (Chip.port c n).tx
  let r := fs.foldl (fun (a : Chip × List TxFrame) f =>
    let s := txLose k n f a.1
    (s.1, match s.2 with | some g => a.2 ++ [g] | none => a.2)) (c, [])
  let c := cutLine k n (setPort n { Chip.port r.1 n with tx := r.2, free := 0 } r.1)
  let hs := kvGet [] c.hostQ n.val
  hs.foldl (fun c h => txComplete h 5 0 c) { c with hostQ := kvErase c.hostQ n.val }

end Sys2Proof.Machine
end

