-- ==== Sys2Proof/Machine/Meters.lean ====
section
/-!
DEFINITION. Meters and policing (R240 to R253).
-/
namespace Sys2Proof.Machine

/-- A change of a mirrored entry, to be sent in the slip (R388). -/
def markDirty (kind : Nat) (x : Cx) (idx : Nat) (c : Chip) : Chip :=
  let d : Dirty := ⟨kind, x.val, idx⟩
  if hasSaggar c.part && !c.dirty.contains d then { c with dirty := c.dirty ++ [d] } else c

/-- The live configuration a frame was taken under (R33). Assumption 17 (DEDUCED, safe). -/
def Chip.asOf (c : Chip) (f : Frame) : Chip := { c with regs := f.cfg }

/-- The unit takes the frame: enabled in the frame's configuration, and not asked to quiesce (R33, R66). -/
def Chip.takes (c : Chip) (f : Frame) (p : Page) : Bool := Chip.enabled (Chip.asOf c f) p && !Chip.flag c p 0x008 1

/-- The length charged or added at stages 8 and 9: the frame's length if received, else the network header's
declared end plus 4, else live MAXLEN (R246, R456). -/
def estLength (c : Chip) (f : Frame) : Nat :=
  if f.ended then f.bytes.length
  else match f.w.ipEnd with
    | some e => e + 4
    | none => Chip.live (Chip.asOf c f) (prtPage (Fin.ofNat 512 f.port)) 0x104 13 0

/-- A meter entry (R241); tokens in units of 2^-24 byte. -/
structure Meter where
  cir  : Nat
  pir  : Nat
  cbs  : Nat
  pbs  : Nat
  tc   : Nat
  tp   : Nat
  last : Nat
  ctl  : Nat
deriving DecidableEq, Repr

/-- The entry of 48 bytes as a meter. -/
def meterOf (bs : List Byte) : Meter where
  cir := memNat bs 0 4
  pir := memNat bs 4 4
  cbs := memNat bs 8 3
  pbs := memNat bs 12 3
  tc := memNat bs 16 6
  tp := memNat bs 24 6
  last := memNat bs 32 8
  ctl := memNat bs 40 8

/-- A meter as its 48 bytes. -/
def meterBytes (m : Meter) : List Byte :=
  leBytes 4 m.cir ++ leBytes 4 m.pir ++ leBytes 3 m.cbs ++ [0] ++ leBytes 3 m.pbs ++ [0] ++ leBytes 8 m.tc ++
  leBytes 8 m.tp ++ leBytes 8 m.last ++ leBytes 8 m.ctl

/-- Both buckets brought to meter clock `now` (R244). -/
def Meter.refill (m : Meter) (now : Nat) : Meter :=
  { m with
    tc := min (m.tc + m.cir * (now - m.last)) (m.cbs * 2 ^ 24)
    tp := min (m.tp + m.pir * (now - m.last)) (m.pbs * 2 ^ 24)
    last := now }

/-- LEN_ADJ, signed bytes (R242). -/
def Meter.adj (m : Meter) : Int := signed 8 (bits m.ctl 15 8)

/-- The charge of a length: plus LEN_ADJ, at least 1 (R245). -/
def chargeOf (len : Nat) (adj : Int) : Nat := max 1 ((len : Int) + adj).toNat

/-- The marking of a frame of charge `b` and pre-colour `pre` (0 green, 1 yellow, 2 red): colour, whether tokens are
taken from the committed and from the peak or excess bucket (R245; RFC 2698, RFC 4115). -/
def Meter.mark (m : Meter) (b pre : Nat) : Nat × Bool × Bool :=
  let pre := if bit m.ctl 2 then pre else 0
  let c := decide (b * 2 ^ 24 ≤ m.tc)
  let p := decide (b * 2 ^ 24 ≤ m.tp)
  if bit m.ctl 1 then
    if decide (pre = 0) && c then (0, true, false)
    else if decide (pre ≤ 1) && p then (1, false, true)
    else (2, false, false)
  else
    if decide (pre = 2) || !p then (2, false, false)
    else if decide (pre = 1) || !c then (1, false, true)
    else (0, true, true)

/-- `n` tokens taken from a bucket. -/
def takeTokens (t n : Nat) : Nat := t - n

/-- A bucket moved by a signed number of bytes, between 0 and its size (R246). -/
def moveTokens (t size : Nat) (d : Int) : Nat := min ((t : Int) + d * 2 ^ 24).toNat (size * 2 ^ 24)

def mtrPage (x : Cx) : Page := onePage x .mtr

/-- Is the meter's entry valid? -/
def meterValid (c : Chip) (x : Cx) (i : Nat) : Bool := bit (Chip.rowNat c (mtrPage x) 0 i 40 1) 0

def getMeter (c : Chip) (x : Cx) (i : Nat) : Meter := meterOf (Chip.row c (mtrPage x) 0 i 0 48)

def putMeter (x : Cx) (i : Nat) (m : Meter) (c : Chip) : Chip :=
  let c := Chip.setRow c (mtrPage x) 0 i 0 (meterBytes m)
  if bit m.ctl 4 then markDirty 2 x i c else c

/-- How often the meter has been enabled by a WRITE (R249). -/
def meterEpoch (c : Chip) (x : Cx) (i : Nat) : Nat := kvGet 0 c.mtrEpoch (65536 * x.val + i)

/-- The colour counters of a meter's row: frames by one, bytes by a signed amount (R253). -/
def meterCount (x : Cx) (i colour frames : Nat) (bytes : Int) (c : Chip) : Chip :=
  let o := 16 * colour
  let c := Chip.bumpRow c (mtrPage x) 1 i o 8 frames
  Chip.setRowNat c (mtrPage x) 1 i (o + 8) 8 (unsigned 64 ((Chip.rowNat c (mtrPage x) 1 i (o + 8) 8 : Nat) + bytes))

/-- Stage 9: the meter decides the frame's final colour; true says the frame is discarded (R245, R248). -/
def stage9 (k : Clk) (x : Cx) (f : Frame) (c : Chip) : Chip × Frame × Bool :=
  let p := mtrPage x
  match f.meter with
  | none => (c, f, false)
  | some i =>
    if !Chip.takes c f p then (Chip.bump c p 0x0A0, f, false)
    else
    let c := meetRows k 3 p 0 [i] c
    if !meterValid c x i then (Chip.bump c p 0x0A8, f, false)
    else
      let m := Meter.refill (getMeter c x i) (Clk.abs k)
      let est := estLength c f
      let b := chargeOf est (Meter.adj m)
      let r := Meter.mark m b f.colour
      let m' := { m with
        tc := if r.2.1 then takeTokens m.tc (b * 2 ^ 24) else m.tc
        tp := if r.2.2 then takeTokens m.tp (b * 2 ^ 24) else m.tp }
      let c := putMeter x i m' c
      let c := meterCount x i r.1 1 (est : Int) c
      let c := Chip.bump c p (0x080 + 8 * r.1)
      let f := { f with
        colour := r.1
        mtrUse := some ⟨i, b, Meter.adj m, r.2.1, r.2.2, r.1, est, meterEpoch c x i⟩ }
      if decide (r.1 = 2) && bit m.ctl 3 then (Chip.bump c p 0x098, f, true) else (c, f, false)

/-- The true-up of a frame whose end shows length `len` (R246, R253). Assumption 108 (DEDUCED, unsafe). -/
def trueUp (k : Clk) (x : Cx) (f : Frame) (len : Nat) (c : Chip) : Chip :=
  match f.mtrUse with
  | none => c
  | some u =>
    if u.est = len then c
    else
      let c := meterCount x u.idx u.colour 0 ((len : Int) - (u.est : Int)) (meetRows k 3 (mtrPage x) 0 [u.idx] c)
      if meterValid c x u.idx && decide (meterEpoch c x u.idx = u.epoch) then
        let m := Meter.refill (getMeter c x u.idx) (Clk.abs k)
        let d : Int := (u.charge : Int) - (chargeOf len u.adj : Int)
        let m := { m with
          tc := if u.tookC then moveTokens m.tc m.cbs d else m.tc
          tp := if u.tookP then moveTokens m.tp m.pbs d else m.tp }
        Chip.bump (putMeter x u.idx m c) (mtrPage x) 0x0B0
      else c

/-- MODIFY of a valid meter by the operands in the MTR_MOD registers (R250): status 0 OK or 2 NOT_VALID. -/
def modifyMeter (k : Clk) (x : Cx) (c : Chip) : Chip × Nat :=
  let p := mtrPage x
  let i := Chip.fld c p 0x040 15 0
  let c := meetRows k 1 p 0 [i] c
  if meterValid c x i then
    let w := Chip.fld c p 0x058 31 0
    let cbs := Chip.fld c p 0x050 23 0
    let pbs := Chip.fld c p 0x050 55 32
    let m := Meter.refill (getMeter c x i) (Clk.abs k)
    let keep := m.ctl / 2 ^ 32 * 2 ^ 32 + 1
    let ctl := keep + bits w 15 8 * 2 ^ 8 + bits w 4 1 * 2
    let m' : Meter := { m with
      cir := Chip.fld c p 0x044 31 0, pir := Chip.fld c p 0x048 31 0, cbs := cbs, pbs := pbs, ctl := ctl
      tc := min m.tc (cbs * 2 ^ 24), tp := min m.tp (pbs * 2 ^ 24) }
    (putMeter x i m' c, 0)
  else (c, 2)

/-- A meter entry as a WRITE of a row stores it: enabled full, or with its buckets loaded (R249). -/
def meterWrite (k : Clk) (bs : List Byte) : List Byte :=
  let m := meterOf bs
  let now := Clk.abs k
  let ctl := bits m.ctl 63 32 * 2 ^ 32 + bits m.ctl 15 8 * 2 ^ 8 + bits m.ctl 4 0
  meterBytes (if bit m.ctl 5 then
    { m with ctl := ctl, tc := min m.tc (m.cbs * 2 ^ 24), tp := min m.tp (m.pbs * 2 ^ 24), last := min m.last now }
  else { m with ctl := ctl, tc := m.cbs * 2 ^ 24, tp := m.pbs * 2 ^ 24, last := now })

end Sys2Proof.Machine
end

