-- ==== Sys2Proof/Machine/Sessions.lean ====
section
/-!
DEFINITION. The session table and sequence tracking (R218 to R239) and the streams (R371 to R374).
-/
namespace Sys2Proof.Machine

def sesPage (x : Cx) : Page := onePage x .ses
def Chip.sesOf (c : Chip) (x : Cx) : SesSt := kvGet {} c.ses x.val
def setSes (x : Cx) (s : SesSt) (c : Chip) : Chip := { c with ses := kvPut c.ses x.val s }

/-! Entries (R219 to R222). -/

/-- The four candidate rows of a key under a profile, by bank (R219). -/
def candidates (key : List Byte) (prof : Nat) : List Nat :=
  let msg := leBytes 1 prof ++ slice key 0 40
  let cc := crc32c msg
  let e := crc32 msg
  [bits cc 14 0, 32768 + bits cc 29 15, 65536 + bits e 14 0, 98304 + bits e 29 15]

/-- CONTROL of a row (R222). -/
def sesCtl (c : Chip) (x : Cx) (r : Nat) : Nat := Chip.rowNat c (sesPage x) 0 r 104 8

def sesValid (c : Chip) (x : Cx) (r : Nat) : Bool := bit (sesCtl c x r) 0

/-- Is batch `b` committed (LIVE of SES_BATCH_STAT)? -/
def batchLive (c : Chip) (x : Cx) (b : Nat) : Bool := Chip.flag c (sesPage x) 0x048 b

/-- Is the row's entry visible to lookups (R236)? -/
def sesVisible (c : Chip) (x : Cx) (r : Nat) : Bool :=
  let w := sesCtl c x r
  let b := bits w 12 11
  bit w 0 && (decide (b = 0) || (bit w 13 ^^ batchLive c x b))

/-- Does the row hold the key under the profile, whether visible or not? -/
def sesHolds (c : Chip) (x : Cx) (r : Nat) (key : List Byte) (prof : Nat) : Bool :=
  sesValid c x r && decide (bits (sesCtl c x r) 3 1 = prof) && decide (Chip.row c (sesPage x) 0 r 0 40 = slice key 0 40)

/-- The candidate rows of a key as they are read (R404). -/
def sesMeet (k : Clk) (source : Nat) (x : Cx) (key : List Byte) (prof : Nat) (c : Chip) : Chip :=
  meetRows k source (sesPage x) 0 (candidates key prof) c

/-- The row of a key under a profile, in any bank, the lowest bank first (R220, R231).
Assumption 105 (DEDUCED, safe). -/
def findKey (c : Chip) (x : Cx) (key : List Byte) (prof : Nat) : Option Nat :=
  (candidates key prof).find? (fun r => sesHolds c x r key prof)

/-- The row a lookup matches (R220). -/
def lookupKey (c : Chip) (x : Cx) (key : List Byte) (prof : Nat) : Option Nat :=
  (candidates key prof).find? (fun r => sesVisible c x r && sesHolds c x r key prof)

/-- A change of a row is owed to the slip where the entry is mirrored (R388). -/
def sesDirty (x : Cx) (r : Nat) (c : Chip) : Chip := if bit (sesCtl c x r) 9 then markDirty 1 x r c else c

/-! Key and sequence of a frame (R223, R224). -/

/-- The session key of a frame under a profile (R223). -/
def sessionKey (c : Chip) (x : Cx) (f : Frame) (prof : Nat) : List Byte :=
  let src := slice f.bsqKey 0 40 ++ slice f.sliceKey 0 80
  (List.range 40).map (fun n =>
    let s := Chip.live c (sesPage x) (0x200 + 0x30 * prof + n / 4 * 4) (8 * (n % 4) + 7) (8 * (n % 4))
    if bit s 7 && decide (s % 128 < 120) then src.getD (s % 128) 0 else 0)

/-- The frame's data end, once known (R181). -/
def dataEnd (f : Frame) : Nat := if f.trunc then f.bytes.length else f.bytes.length - 4

/-- What reading the application sequence gives (R224, R225). -/
inductive SeqRead where
  | wait
  | unreadable
  | seq (a : Nat)
deriving DecidableEq, Repr

def readSeq (c : Chip) (x : Cx) (f : Frame) (prof : Nat) : SeqRead :=
  let v := (Chip.getLive c (sesPage x) (0x228 + 0x30 * prof)).toNat
  let n := bits v 27 25 + 1
  let l4 := decide (bits v 29 28 = 1)
  let off := bits v 8 0 + (if l4 then f.w.l4off else 0)
  if (l4 && decide (f.w.l4off = 0)) || decide (off + n > 512) then .unreadable
  else if f.ended then
    if off + n ≤ dataEnd f then .seq (if bit v 30 then memNat f.bytes off n else wireNat f.bytes off n) else .unreadable
  else if off + n + 4 ≤ f.bytes.length then .seq (if bit v 30 then memNat f.bytes off n else wireNat f.bytes off n)
  else .wait

/-! The sequence check (R226, R227). -/

/-- What a hit does to the entry's sequence state. -/
inductive SeqRes where
  | untouched
  | learn
  | resync
  | inOrder
  | gap (d : Nat)
  | dup
deriving DecidableEq, Repr

/-- The judgement of sequence `a` of width `w` bits against an entry (R226, R227). -/
def judgeSeq (learned : Bool) (expSeq a w win : Nat) : SeqRes :=
  if !learned then .learn
  else
    let d := signed w ((a + 2 ^ w - expSeq % 2 ^ w) % 2 ^ w)
    if win ≠ 0 ∧ d.natAbs > 2 ^ win then .resync
    else if d = 0 then .inOrder
    else if d > 0 then .gap d.toNat
    else .dup

/-- EXP_SEQ after a judgement. -/
def nextExp (r : SeqRes) (expSeq a w : Nat) : Nat :=
  match r with
  | .untouched => expSeq
  | .dup => expSeq
  | _ => (a + 1) % 2 ^ w

/-- The entry of row `r` updated by a hit (R226, R227): stamps, counts and sequence. -/
def sesHit (x : Cx) (r stamp len a w : Nat) (res : SeqRes) (c : Chip) : Chip :=
  let p := sesPage x
  let g (o n : Nat) : Nat := Chip.rowNat c p 0 r o n
  let ctl := g 104 8
  let c := if bit ctl 4 then c else Chip.setRowNat c p 0 r 48 12 (stamp96 stamp)
  let c := Chip.setRowNat c p 0 r 60 12 (stamp96 stamp)
  let c := Chip.setRowNat c p 0 r 72 8 (g 72 8 + 1)
  let c := Chip.setRowNat c p 0 r 80 8 (g 80 8 + len)
  let c := Chip.setRowNat c p 0 r 40 8 (nextExp res (g 40 8) a w)
  let c := match res with
    | .gap d => Chip.setRowNat c p 0 r 88 4 (satAdd 0xFFFFFFFF (g 88 4) d)
    | .dup => Chip.setRowNat c p 0 r 92 4 (satAdd 0xFFFFFFFF (g 92 4) 1)
    | .resync => Chip.setRowNat c p 0 r 96 2 (satAdd 0xFFFF (g 96 2) 1)
    | _ => c
  let ctl := setBits ctl 4 4 1
  let ctl := if res = .learn then setBits ctl 5 5 1 else ctl
  sesDirty x r (Chip.setRowNat c p 0 r 104 8 ctl)

/-- OCTETS of the entry that now holds a frame's key corrected at the frame's end (R456). -/
def octetsCorrect (k : Clk) (x : Cx) (f : Frame) (c : Chip) : Chip :=
  match f.sesUse with
  | none => c
  | some u =>
    if u.est = f.bytes.length then c
    else
      let c := sesMeet k 3 x u.key u.profile c
      match findKey c x u.key u.profile with
      | none => c
      | some r =>
        let v := (Chip.rowNat c (sesPage x) 0 r 80 8 : Int) + (f.bytes.length : Int) - (u.est : Int)
        sesDirty x r (Chip.setRowNat c (sesPage x) 0 r 80 8 (unsigned 64 v))

/-! Streams (R372, R374): table 0x00 of the chip capability page, counters in table 0x01. -/

def streamCtl (c : Chip) (s : Nat) : Nat := Chip.rowNat c .cap 0 s 16 8

/-- MODE of a stream; an entry that is not valid is NONE. -/
def streamMode (c : Chip) (s : Nat) : Nat := if bit (streamCtl c s) 0 then bits (streamCtl c s) 2 1 else 0

/-- A change of a stream entry is owed to the slip where it is mirrored (R388). -/
def streamDirty (s : Nat) (c : Chip) : Chip := if bit (streamCtl c s) 3 then markDirty 3 0 s c else c

/-- HIST of a stream (R399): 0 acts as 1, above 2,048 as 2,048. -/
def streamHist (c : Chip) (s : Nat) : Nat := min 2048 (max 1 (Chip.rowNat c .cap 0 s 10 2))

/-- What recovery does with a frame: the counter it counts in (0 PASSED, 1 DISCARDED, 2 ROGUE, 3 JUMPED) and the
recovery state after it (IEEE 802.1CB vector recovery; R374). -/
def recover (hist : Nat) (takeAny jump : Bool) (st : RecovSt) (a now : Nat) : Nat × RecovSt :=
  let a := a % 65536
  let d := signed 16 ((a + 65536 - st.point % 65536) % 65536)
  if takeAny then (0, ⟨a, 1, now⟩)
  else if d ≥ (hist : Int) then (if jump then (3, ⟨a, 1, now⟩) else (2, st))
  else if d ≤ -(hist : Int) then (2, st)
  else if d ≤ 0 then
    let i := d.natAbs
    if bit st.hist i then (1, st) else (0, { st with hist := st.hist + 2 ^ i, last := now })
  else (0, ⟨a, (st.hist * 2 ^ d.toNat + 1) % 2 ^ hist, now⟩)

/-- Stage 8 of a RECOVER stream for a frame of sequence `a`: true says the frame is discarded (R374). -/
def streamRecover (k : Clk) (s a : Nat) (c : Chip) : Chip × Bool :=
  let w := streamCtl c s
  let r := recover (streamHist c s) (bit w 5) (bit w 4) (kvGet {} c.recov s) a (Clk.stamp k)
  let pass := decide (r.1 = 0) || decide (r.1 = 3)
  let c := { c with recov := kvPut c.recov s r.2 }
  let c := if pass then streamDirty s (Chip.setRowNat c .cap 0 s 16 8 (setBits w 5 5 0)) else c
  (Chip.bumpRow c .cap 1 s (8 * r.1) 8 1, !pass)

/-- A WRITE of a stream entry sets TAKE_ANY and clears its history (R374). -/
def streamWritten (k : Clk) (s : Nat) (c : Chip) : Chip :=
  let w := setBits (streamCtl c s) 5 5 1
  let w := w % 64 + w / 2 ^ 32 * 2 ^ 32
  streamDirty s { Chip.setRowNat c .cap 0 s 16 8 w with recov := kvPut c.recov s ⟨0, 0, Clk.stamp k⟩ }

/-- RESET ms of chip time have passed without a passed frame (R374). -/
def streamTimeout (k : Clk) (s : Nat) (c : Chip) : Chip :=
  let c := meetRows k 3 .cap 0 [s] c
  let ms := Chip.rowNat c .cap 0 s 12 2
  if streamMode c s = 3 ∧ ms ≠ 0 ∧
      stampDiff (Clk.stamp k) (kvGet {} c.recov s).last ≥ ((ms * 1000000 * 65536 : Nat) : Int) then
    Chip.setRowNat c .cap 0 s 16 8 (setBits (streamCtl c s) 5 5 1)
  else c

/-! Stage 8 (R225 to R230, R235, R372). -/

/-- A key joins the learn queue (R235). -/
def learnKey (x : Cx) (key : List Byte) (prof : Nat) (c : Chip) : Chip :=
  let s := Chip.sesOf c x
  if s.learn.length ≥ 256 then Chip.cause (Chip.bump c (sesPage x) 0x388) (sesPage x) 10
  else setSes x { s with learn := s.learn ++ [(key, prof)] } c

/-- A lookup that missed (R235): true says the frame is discarded. `q` holds the frame's configuration (R33). -/
def sesMiss (q : Chip) (x : Cx) (key : List Byte) (prof : Nat) (c : Chip) : Chip × Bool :=
  let p := sesPage x
  let c := Chip.bump c p 0x188
  match Chip.live q p (0x22C + 0x30 * prof) 5 4 with
  | 1 => (learnKey x key prof c, false)
  | 2 => (Chip.bump c p 0x380, true)
  | _ => (c, false)

/-- The stream step of a hit that is not discarded by its session (R372): what it does to the frame, and whether
it discards it. -/
def streamStep (k : Clk) (s : Nat) (seq : Option Nat) (f : Frame) (c : Chip) : Chip × Frame × Bool :=
  match streamMode c s, seq with
  | 1, some _ => (c, { f with strValid := true, stream := s }, false)
  | 1, none => (Chip.bump c .cap 0x240, f, false)
  | 2, _ =>
    let g := Chip.rowNat c .cap 0 s 0 8
    (streamDirty s (Chip.setRowNat c .cap 0 s 0 8 (g + 1)), { f with strValid := true, stream := s, appSeq := g }, false)
  | 3, some a =>
    let r := streamRecover k s a c
    (r.1, f, r.2)
  | 3, none => (Chip.bump c .cap 0x240, f, false)
  | _, _ => (Chip.bump c .cap 0x248, f, false)

/-- A granted lookup of a frame under a profile, with its sequence (R226 to R228, R372): true says the frame is
discarded. -/
def sesGranted (k : Clk) (x : Cx) (prof : Nat) (seq : Option Nat) (f : Frame) (c : Chip) : Chip × Frame × Bool :=
  let p := sesPage x
  let q := Chip.asOf c f
  let key := sessionKey q x f prof
  match lookupKey c x key prof with
  | none =>
    let m := sesMiss q x key prof c
    (m.1, f, m.2)
  | some r =>
    let ctl := sesCtl c x r
    let v := (Chip.getLive q p (0x228 + 0x30 * prof)).toNat
    let w := 8 * (bits v 27 25 + 1)
    let a := seq.getD 0
    let c := Chip.bump c p 0x180
    let c := if seq.isNone then Chip.bump c p 0x198 else c
    let res := if bit v 31 && seq.isSome
      then judgeSeq (bit ctl 5) (Chip.rowNat c p 0 r 40 8) a w (bits v 24 19) else .untouched
    let drop := decide (res = .dup) && decide (Chip.live q p (0x22C + 0x30 * prof) 3 2 = 1)
    let f := { f with
      sesValid := true, session := 131072 * x.val + r, appSeq := a, jrn := bit ctl 8
      meter := if bit ctl 6 then some (Chip.rowNat c p 0 r 100 2) else f.meter }
    let s := if bit ctl 7 && !drop then streamStep k (Chip.rowNat c p 0 r 102 2 % 16384) seq f c else (c, f, false)
    if s.2.2 then (s.1, { s.2.1 with fate := some 1 }, true)
    else
      let est := estLength c f
      let c := sesHit x r f.stamp est a w res s.1
      let f := { s.2.1 with
        sesUse := some ⟨key, prof, est⟩
        gap := (match res with | .gap _ => true | _ => false)
        dup := decide (res = .dup)
        resync := decide (res = .resync) }
      let c := match res with
        | .gap _ => Chip.bump c p 0x1A0
        | .dup => Chip.bump c p 0x1A8
        | .resync => Chip.bump c p 0x1B8
        | _ => c
      if drop then (Chip.bump c p 0x1B0, { f with fate := some 1 }, true) else (c, f, false)

/-- A lookup not granted in its clock (R230). -/
def sesRefused (x : Cx) (slice_ : Nat) (f : Frame) (c : Chip) : Chip × Frame :=
  (Chip.bump c (sesPage x) (0x1C0 + 8 * (slice_ % 4)), { f with untrack := true })

/-! The insertion engine (R231 to R237). -/

/-- The bytes of a new entry (R231): CONTROL as given but for the batch and kind, and SEEN 0. -/
def newEntry (o : KeyOp) (batch kind : Nat) : List Byte :=
  let ctl := bits o.ctrl 63 32 * 2 ^ 32 + bits o.ctrl 10 5 * 2 ^ 5 + o.profile % 8 * 2 +
    b2n (bit o.ctrl 0) + batch * 2 ^ 11 + kind * 2 ^ 13
  slice o.key 0 40 ++ leBytes 8 o.seq ++ List.replicate 52 0 ++ leBytes 2 o.meter ++ leBytes 2 (o.stream % 16384) ++
  leBytes 8 ctl ++ List.replicate 16 0

/-- A pinned entry is never moved or evicted (R222). -/
def sesFree (c : Chip) (x : Cx) (r : Nat) : Bool := !sesValid c x r
def sesMovable (c : Chip) (x : Cx) (r : Nat) : Bool := sesValid c x r && !bit (sesCtl c x r) 10

/-- Where an entry may move: its other candidate rows (R232). -/
def moveTargets (c : Chip) (x : Cx) (r : Nat) : List Nat :=
  if sesMovable c x r then
    (candidates (Chip.row c (sesPage x) 0 r 0 40) (bits (sesCtl c x r) 3 1)).filter (fun t => decide (t ≠ r))
  else []

/-- Breadth-first search for a chain, latest row first, ending in a free row; `n` moves at most (R232).
Assumption 106 (DEDUCED, unsafe). -/
def chainFrom (c : Chip) (x : Cx) : Nat → List (List Nat) → Option (List Nat)
  | 0, _ => none
  | n + 1, paths =>
    let ext := paths.flatMap (fun p =>
      ((moveTargets c x (p.headD 0)).filter (fun r => !p.contains r)).map (fun r => r :: p))
    match ext.find? (fun p => sesFree c x (p.headD 0)) with
    | some p => some p
    | none => chainFrom c x n ext

/-- An entry moved to a free row (R232). -/
def moveEntry (x : Cx) (src dst : Nat) (c : Chip) : Chip :=
  let p := sesPage x
  let c := Chip.setRow c p 0 dst 0 (Chip.row c p 0 src 0 128)
  let c := clearValid p 0 src 104 c
  let c := { c with dirty := c.dirty.map (fun d => if d = ⟨1, x.val, src⟩ then ⟨1, x.val, dst⟩ else d) }
  Chip.bump c p 0x1F0

/-- The chain performed from its free end backwards (R232). -/
def moveChain (x : Cx) : List Nat → Chip → Chip
  | dst :: src :: rest, c => moveChain x (src :: rest) (moveEntry x src dst c)
  | _, c => c

/-- How long, in 2^-16 ns, since an entry's LAST. -/
def entryAge (k : Clk) (c : Chip) (x : Cx) (r : Nat) : Int :=
  let v := Chip.rowNat c (sesPage x) 0 r 60 12
  stampDiff (Clk.stamp k) (stampOf (v / 2 ^ 48) (v % 2 ^ 48))

/-- May the entry be evicted (R232)? It is unpinned, and never hit or idle for SES_IDLE. -/
def evictable (k : Clk) (c : Chip) (x : Cx) (r : Nat) : Bool :=
  let ms := Chip.live c (sesPage x) 0x044 15 0
  let w := sesCtl c x r
  sesMovable c x r &&
  (!bit w 4 || (decide (ms ≠ 0) && decide (entryAge k c x r ≥ ((ms * 1000000 * 65536 : Nat) : Int))))

/-- The candidate to evict: an entry never hit, else the one whose LAST is oldest, the lowest bank first (R232). -/
def victim (k : Clk) (c : Chip) (x : Cx) (rows : List Nat) : Option Nat :=
  let es := rows.filter (evictable k c x)
  match es.find? (fun r => !bit (sesCtl c x r) 4) with
  | some r => some r
  | none => es.find? (fun r => es.all (fun q => decide (entryAge k c x q ≤ entryAge k c x r)))

/-- Payload of SESSION_EVICT (R338). -/
def evictPayload (c : Chip) (x : Cx) (r : Nat) : List Byte :=
  let row (o n : Nat) : List Byte := Chip.row c (sesPage x) 0 r o n
  leBytes 4 (131072 * x.val + r) ++ row 108 4 ++ row 0 40 ++ leBytes 1 (bits (sesCtl c x r) 3 1) ++ [0, 0, 0] ++
  row 72 8 ++ row 80 8 ++ row 88 4 ++ row 92 4 ++ row 60 12

/-- An entry evicted (R232). -/
def evict (k : Clk) (x : Cx) (r : Nat) (c : Chip) : Chip :=
  let p := sesPage x
  let c := cpxEvent k x 2 5 (evictPayload c x r) c
  Chip.cause (Chip.bump (sesDirty x r (clearValid p 0 r 104 c)) p 0x1F8) p 11

/-- The rows that a search for a chain reads (R232, R404). -/
def chainReads (c : Chip) (x : Cx) : Nat → List Nat → List Nat
  | 0, rows => rows
  | n + 1, rows => rows ++ chainReads c x n (rows.flatMap (moveTargets c x))

/-- The rows that a keyed operation reads, met (R404): an INSERT that finds no candidate free reads those of a chain. -/
def kopMeet (k : Clk) (source : Nat) (x : Cx) (o : KeyOp) (c : Chip) : Chip :=
  let c := sesMeet k source x o.key o.profile c
  let rows := candidates o.key o.profile
  if o.op = 1 ∧ c.latent.isEmpty = false ∧ (rows.find? (sesFree c x)).isNone = true then
    meetRows k source (sesPage x) 0 (chainReads c x (Chip.live c (sesPage x) 0x040 1 0 + 1) rows) c
  else c

/-- A row for a new entry: free, freed by a chain of moves, or freed by an eviction (R232). -/
def placeFor (k : Clk) (x : Cx) (o : KeyOp) (c : Chip) : Chip × Option Nat :=
  let rows := candidates o.key o.profile
  match rows.find? (sesFree c x) with
  | some r => (c, some r)
  | none =>
    match chainFrom c x (Chip.live c (sesPage x) 0x040 1 0 + 1) (rows.map (fun r => [r])) with
    | some p => (moveChain x p c, p.getLast?)
    | none =>
      match (if o.evict then victim k c x rows else none) with
      | some r => (evict k x r c, some r)
      | none => (c, none)

/-- Status of a keyed operation: 0 OK, 1 EXISTS, 2 NOT_FOUND, 3 FULL (R239); and the row. -/
abbrev KopRes := Chip × Nat × Option Nat

/-- INSERT (R231, R232, R236); one outside a batch counts at once (R235). -/
def kopInsert (k : Clk) (x : Cx) (o : KeyOp) (batch : Nat) (c : Chip) : KopRes :=
  let p := sesPage x
  if (findKey c x o.key o.profile).isSome then (c, 1, none)
  else
    let r := placeFor k x o c
    match r.2 with
    | none => (Chip.cause (Chip.bump r.1 p 0x1E8) p 9, 3, none)
    | some i =>
      let c := Chip.setRow r.1 p 0 i 0 (newEntry o batch 0)
      (sesDirty x i (if batch = 0 then Chip.bump c p 0x1E0 else c), 0, some i)

/-- DELETE (R231): at once, or marked under a batch (R236). -/
def kopDelete (x : Cx) (o : KeyOp) (batch : Nat) (c : Chip) : KopRes :=
  let p := sesPage x
  match findKey c x o.key o.profile with
  | none => (c, 2, none)
  | some r =>
    if batch = 0 then (Chip.bump (sesDirty x r (clearValid p 0 r 104 c)) p 0x398, 0, some r)
    else (Chip.setRowNat c p 0 r 104 8 (setBits (sesCtl c x r) 13 11 (4 + batch)), 0, some r)

/-- FIND (R231). -/
def kopFind (x : Cx) (o : KeyOp) (c : Chip) : KopRes :=
  match findKey c x o.key o.profile with
  | none => (c, 2, none)
  | some r => (c, 0, some r)

/-- UPDATE (R231): the counters, the stamps, SEEN, BATCH and KIND are kept; the rest of CONTROL is as given. -/
def kopUpdate (x : Cx) (o : KeyOp) (c : Chip) : KopRes :=
  let p := sesPage x
  match findKey c x o.key o.profile with
  | none => (c, 2, none)
  | some r =>
    let old := sesCtl c x r
    let ctl := bits o.ctrl 63 32 * 2 ^ 32 + bits old 13 11 * 2 ^ 11 + bits o.ctrl 10 5 * 2 ^ 5 + bits old 4 4 * 2 ^ 4 +
      o.profile % 8 * 2 + b2n (bit o.ctrl 0)
    let c := Chip.setRowNat (Chip.setRowNat c p 0 r 40 8 o.seq) p 0 r 104 8 ctl
    let c := Chip.setRowNat (Chip.setRowNat c p 0 r 100 2 o.meter) p 0 r 102 2 (o.stream % 16384)
    (if bit old 9 then markDirty 1 x r c else sesDirty x r c, 0, some r)

/-- A keyed operation outside a batch. -/
def kopDo (k : Clk) (x : Cx) (o : KeyOp) (c : Chip) : KopRes :=
  let c := kopMeet k 1 x o c
  match o.op with
  | 1 => kopInsert k x o 0 c
  | 2 => kopDelete x o 0 c
  | 3 => kopFind x o c
  | _ => kopUpdate x o c

/-- The engine takes no new operation (R238). -/
def engineHeld (c : Chip) (x : Cx) : Bool := Chip.flag c (sesPage x) 0x008 1

/-- The operands of the SES page's registers (R239). -/
def kopOperands (c : Chip) (x : Cx) (op : Nat) (evictOk : Bool) : KeyOp :=
  let p := sesPage x
  let ctl := (Chip.get c p 0x128).toNat
  { op := op
    key := ((List.range 10).map (fun i => leBytes 4 (Chip.get c p (0x100 + 4 * i)).toNat)).flatten
    profile := bits ctl 3 1
    ctrl := ctl
    seq := (Chip.get c p 0x130).toNat
    meter := Chip.fld c p 0x138 15 0
    stream := Chip.fld c p 0x138 29 16
    evict := evictOk }

/-- SES_KOP_RES and SES_KOP_STAT of a completed operation, and KOP_DONE (R239). -/
def kopReport (x : Cx) (status : Nat) (row : Option Nat) (c : Chip) : Chip :=
  let p := sesPage x
  let c := Chip.put c p 0x144 (BitVec.ofNat 64 (status * 16))
  let c := Chip.put c p 0x140 (match row with | some r => BitVec.ofNat 64 (2 ^ 31 + r) | none => 0)
  Chip.cause c p 8

/-- A write of OP to SES_KOP_CMD (R231, R239). Assumption 107 (DEDUCED, unsafe). -/
def kopCmd (k : Clk) (x : Cx) (op : Nat) (evictOk : Bool) (c : Chip) : Chip :=
  let p := sesPage x
  let s := Chip.sesOf c x
  match s.kop with
  | some r => setSes x { s with kop := some { r with again := true } } c
  | none =>
    if op = 0 ∨ op ≥ 5 then kopReport x 6 none c
    else if Chip.locked c p ∧ op ≠ 3 then kopReport x 4 none c
    else
      let o := kopOperands c x op evictOk
      let c := Chip.setFld c p 0x144 0 0 1
      if engineHeld c x then setSes x { s with kop := some { op := some o } } c
      else
        let r := kopDo k x o c
        setSes x { Chip.sesOf r.1 x with kop := some { op := none, status := r.2.1, row := r.2.2 } } r.1

/-- The running keyed operation completes (R233, R239); one that the engine has not taken is taken first. -/
def kopComplete (k : Clk) (x : Cx) (c : Chip) : Chip :=
  match (Chip.sesOf c x).kop with
  | none => c
  | some r =>
    match r.op with
    | some o =>
      if engineHeld c x then c
      else
        let q := kopDo k x o c
        kopReport x (if r.again then 5 else q.2.1) q.2.2 (setSes x { Chip.sesOf q.1 x with kop := none } q.1)
    | none => kopReport x (if r.again then 5 else r.status) r.row (setSes x { Chip.sesOf c x with kop := none } c)

/-- The engine takes the oldest learn key (R235), unless a keyed operation comes before it (R231). -/
def learnInsert (k : Clk) (x : Cx) (c : Chip) : Chip :=
  let s := Chip.sesOf c x
  match s.learn with
  | [] => c
  | (key, prof) :: rest =>
    if s.kop.isSome || engineHeld c x then c
    else
      let p := sesPage x
      let v := (Chip.getLive c p (0x22C + 0x30 * prof)).toNat
      let o : KeyOp := {
        op := 1, key := key, profile := prof, ctrl := 1 + bits v 7 7 * 2 ^ 8 + bits v 8 8 * 2 ^ 9
        seq := 0, meter := 0, stream := 0, evict := bit v 6 }
      let r := kopInsert k x o 0 (kopMeet k 3 x o (setSes x { s with learn := rest } c))
      if r.2.1 = 1 then Chip.bump r.1 p 0x390 else r.1

/-! Batches (R236, R237). -/

/-- Rows of the session table marked with batch `b`. -/
def batchRows (c : Chip) (x : Cx) (b : Nat) : List Nat :=
  (Chip.rowsOf c (sesPage x) 0).filter (fun r => sesValid c x r && decide (bits (sesCtl c x r) 12 11 = b))

/-- A free batch number, now in use. -/
def takeBatch (x : Cx) (c : Chip) : Chip × Option Nat :=
  match [1, 2, 3].find? (fun b => !Chip.flag c (sesPage x) 0x048 (4 + b)) with
  | some b => (Chip.setFld c (sesPage x) 0x048 (4 + b) (4 + b) 1, some b)
  | none => (c, none)

/-- BUSY and LIVE of a batch cleared: it is free again. -/
def freeBatch (x : Cx) (b : Nat) (c : Chip) : Chip :=
  Chip.setFld (Chip.setFld c (sesPage x) 0x048 (4 + b) (4 + b) 0) (sesPage x) 0x048 b b 0

/-- Everything placed or marked under a batch removed or unmarked (R237). -/
def withdrawBatch (k : Clk) (x : Cx) (b : Nat) (c : Chip) : Chip :=
  if b = 0 then c
  else
    let p := sesPage x
    let c := meetRows k 1 p 0 (batchRows c x b) c
    freeBatch x b ((batchRows c x b).foldl (fun c r =>
      if bit (sesCtl c x r) 13 then Chip.setRowNat c p 0 r 104 8 (setBits (sesCtl c x r) 13 11 0)
      else sesDirty x r (clearValid p 0 r 104 c)) c)

/-- The batch commits in one clock (R236); its successful INSERTs and DELETEs, `ins` and `dels` of them, count now
(R235, R239). -/
def commitBatch (x : Cx) (b ins dels : Nat) (c : Chip) : Chip :=
  if b = 0 then c
  else
    let p := sesPage x
    Chip.bumpBy (Chip.bumpBy (Chip.setFld c p 0x048 b b 1) p 0x398 dels) p 0x1E0 ins

/-- The committed batch's entries rewritten, and the batch free again (R236). -/
def cleanBatch (k : Clk) (x : Cx) (b : Nat) (c : Chip) : Chip :=
  if batchLive c x b && decide (1 ≤ b) && decide (b ≤ 3) then
    let p := sesPage x
    let c := meetRows k 1 p 0 (batchRows c x b) c
    freeBatch x b ((batchRows c x b).foldl (fun c r =>
      if bit (sesCtl c x r) 13 then sesDirty x r (clearValid p 0 r 104 c)
      else sesDirty x r (Chip.setRowNat c p 0 r 104 8 (setBits (sesCtl c x r) 13 11 0))) c)
  else c

end Sys2Proof.Machine
end

