-- ==== Sys2Proof/Machine/Walk.lean ====
section
/-!
DEFINITION. The parse walk (R179 to R184), the bisque and slice keys (R192, R204) and the ternary rule lookups
(R193, R203).
-/
namespace Sys2Proof.Machine

/-- What the walk may know of the frame: bytes received, whether its end (or its port's loss) has come, the data
end, and whether the bytes up to the end are all received. -/
structure WalkIn where
  bytes    : List Byte
  ended    : Bool
  dataEnd  : Nat
  limit    : Nat
  optSlow  : Bool
  unkSlow  : Bool
  /-- Parse-graph page and bank (R186). -/
  page     : Page
  bank     : Nat
deriving DecidableEq, Repr

/-- How a walk ends, or where it waits for bytes (R178, R182). -/
inductive WalkRes where
  | accept (w : WalkSt)
  | slow (reason : Nat) (w : WalkSt)
  | malformed (cause : Nat) (w : WalkSt)
  | wait (w : WalkSt)
deriving DecidableEq, Repr

/-- Header bits o to o + w - 1 in wire order (R180), bytes past the data end reading zero. -/
def hdrBits (bs : List Byte) (off o w : Nat) : Nat :=
  let v := wireNat bs (off + o / 8) 4
  v / 2 ^ (32 - o % 8 - w) % 2 ^ w

/-- What a built-in check decides (R183). -/
inductive Check where
  | ok | bad (cause : Nat) | fragment | options
deriving DecidableEq, Repr

/-- The built-in check of a header of length `len` at `off`; the second result is the declared end recorded: that of the
header marked L3, and of another only where none is recorded yet (R180, R183). Assumption 111 (DEDUCED, unsafe). -/
def runCheck (code : Nat) (l3 : Bool) (bs : List Byte) (off len limit : Nat) (ipEnd : Option Nat) : Check × Option Nat :=
  let b (i : Nat) : Nat := wireNat bs (off + i) 1
  let h (i : Nat) : Nat := wireNat bs (off + i) 2
  let e := ipEnd.getD limit
  let record (fin : Nat) : Option Nat := some (if l3 then fin else ipEnd.getD fin)
  match code with
  | 1 =>
    let ihl := b 0 % 16
    let fin := off + h 2
    (if b 0 / 16 ≠ 4 then .bad 2
     else if ihl < 5 then .bad 3
     else if h 2 < ihl * 4 ∨ fin > limit then .bad 0
     else if bit (b 6) 5 || decide (h 6 % 2 ^ 13 ≠ 0) then .fragment
     else if ihl > 5 then .options else .ok, record fin)
  | 2 =>
    let fin := off + 40 + h 4
    (if b 0 / 16 ≠ 6 then .bad 2
     else if h 4 = 0 ∨ fin > limit then .bad 0 else .ok, record fin)
  | 3 => (if off + len > e then .bad 0 else .ok, ipEnd)
  | 4 => (if off + len > e then .bad 0 else .options, ipEnd)
  | 5 => (if off + len > e then .bad 0 else .fragment, ipEnd)
  | 6 => (if h 4 < 8 ∨ off + h 4 > e then .bad 0 else .ok, ipEnd)
  | 7 => (if b 12 / 16 < 5 then .bad 3 else if off + len > e then .bad 0 else .ok, ipEnd)
  | _ => (.ok, ipEnd)

/-- Bytes of header a check reads. -/
def checkBytes (code : Nat) : Nat := match code with | 1 => 20 | 2 => 6 | 6 => 6 | 7 => 13 | _ => 0

/-- One extract of a state: its bytes written into a key from byte `lo` to its last byte (R180, R181). -/
def extractTo (key : List Byte) (lo dst : Nat) (xs : List Byte) : List Byte :=
  if lo ≤ dst ∧ dst < key.length then patch key dst xs else key

/-- The four extracts of a state's row (bytes 12-23). `bisque` is clear on the glaze walk (R210). -/
def extracts (row data : List Byte) (off : Nat) (bisque : Bool) (w : WalkSt) : WalkSt :=
  [0, 1, 2, 3].foldl (fun w i =>
    let e := memNat row (12 + 3 * i) 3
    let xs := slice data (off + bits e 5 0) (bits e 8 6 + 1)
    { w with
      keyB := if bisque then extractTo w.keyB 4 (bits e 14 9) xs else w.keyB
      keyS := extractTo w.keyS 16 (bits e 21 15) xs }) w

/-- The first matching transition of a state, or DEFAULT_NEXT (R180). -/
def nextState (row : List Byte) (v selW : Nat) : Nat :=
  let t (i : Nat) (o n : Nat) : Nat := memNat row (24 + 6 * i + o) n
  let hit := (List.range 6).find? (fun i =>
    bit (t i 4 2) 15 && decide (v &&& t i 2 2 = t i 0 2 &&& t i 2 2))
  match (if selW = 0 then none else hit) with
  | some i => bits (t i 4 2) 9 0
  | none => bits (memNat row 8 2) 9 0

/-- One state of the walk (R179 to R183). `Sum.inr` goes on. Widths of 17 to 31 act as 16 (R180): assumption 153 (DESIGN CHOICE,
unsafe). The last 4 bytes of a frame that goes on are not taken (R178): assumption 152 (DEDUCED, unsafe). -/
def walkState (c : Chip) (i : WalkIn) (bisque : Bool) (w : WalkSt) : Sum WalkRes WalkSt :=
  let row := Chip.row c i.page i.bank w.state 0 64
  let f0 := memNat row 0 1
  let f1 := memNat row 1 1
  let f2 := memNat row 2 2
  let f4 := memNat row 4 2
  let f6 := memNat row 6 2
  let f10 := memNat row 10 1
  let data := if i.ended then i.bytes.take i.dataEnd else i.bytes
  let lenOff := bits f4 8 0
  let lenW := if bits f4 13 9 = 0 then 16 else bits f4 13 9
  let lenEn := bit f2 12
  let selOff := bits f6 8 0
  let selW := bits f6 13 9
  let selW := if selW > 16 then 16 else selW
  let lenW := if lenW > 16 then 16 else lenW
  let have_ (n : Nat) : Bool := i.ended || decide (w.off + n + 4 ≤ i.bytes.length)
  if !bit f0 0 then .inl (.malformed 4 w)
  else if lenEn && !have_ ((lenOff + lenW + 7) / 8) then .inl (.wait w)
  else
    let len := bits f2 8 0 + (if lenEn then hdrBits data w.off lenOff lenW * 2 ^ bits f2 11 9 else 0)
    let check := bits f0 7 4
    if len ≠ 0 ∧ w.hdrs ≥ 16 then .inl (.slow 1 w)
    else if !have_ len then .inl (.wait w)
    else if i.ended && decide (w.off + len > i.dataEnd) then .inl (.malformed 1 w)
    else if w.off + len > 512 then .inl (.slow 2 w)
    else if !have_ (max (checkBytes check) (max ((selOff + selW + 7) / 8)
        (([0, 1, 2, 3].map (fun j => let e := memNat row (12 + 3 * j) 3; bits e 5 0 + bits e 8 6 + 1)).foldl max 0))) then
      .inl (.wait w)
    else
      let r := runCheck check (bit f1 6) data w.off len i.limit w.ipEnd
      let w1 : WalkSt := { w with ipEnd := r.2 }
      let take (w : WalkSt) : WalkSt :=
        let w := extracts row data w.off bisque w
        { w with
          hdrs := if len = 0 then w.hdrs else w.hdrs + 1
          hdrId := if len = 0 then w.hdrId else bits f1 5 0
          profile := if bit f10 4 then bits f10 3 0 else w.profile
          l4off := if bit f1 7 then w.off else w.l4off
          ptp := w.ptp || (bit f2 13 && decide (hdrBits data w.off 4 4 ≤ 3)) }
      match r.1 with
      | .bad cause => .inl (.malformed cause (take w1))
      | .fragment => .inl (.slow 3 (take w1))
      | ck =>
        if ck = .options ∧ i.optSlow = true then .inl (.slow 4 (take w1))
        else
          let w2 := { w1 with opt := w1.opt || decide (ck = .options), visited := w1.visited + 1 }
          if w2.visited > 32 then .inl (.malformed 4 w2)
          else
            let w3 := take w2
            let v := hdrBits data w.off selOff selW
            let nx := nextState row v selW
            if nx = 1022 then (if i.unkSlow then .inl (.slow 5 w3) else .inl (.accept { w3 with unk := true }))
            else if nx = 1023 then .inl (.accept w3)
            else .inr { w3 with state := nx, off := w.off + len }

/-- The walk, at most `n` more states. -/
def walkFrom (c : Chip) (i : WalkIn) (bisque : Bool) : Nat → WalkSt → WalkRes
  | 0, w => .malformed 4 w
  | n + 1, w =>
    match walkState c i bisque w with
    | .inl r => r
    | .inr w' => walkFrom c i bisque n w'

/-- The walk on from where it stands: more than 32 states end it (R182). Entries are read as they stand now, so a walk
that waited may meet a new state after an old one (R188). -/
def walk (c : Chip) (i : WalkIn) (bisque : Bool) (w : WalkSt) : WalkRes := walkFrom c i bisque 34 w

/-! Keys. -/

/-- Key flags, byte 3 of both keys (R192). -/
def keyFlags (w : WalkSt) (host : Bool) : Nat :=
  b2n w.malf + 2 * b2n w.opt + 4 * b2n w.unk + 8 * b2n host + 16 * w.profile

/-- The 40-byte bisque key (R192). `lane` is the lane-in-group, 0 for a host-injected frame. -/
def bisqueKey (w : WalkSt) (lane : Nat) (host : Bool) : List Byte :=
  leBytes 1 lane ++ leBytes 1 w.hdrs ++ leBytes 1 w.hdrId ++ leBytes 1 (keyFlags w host) ++ w.keyB.drop 4

/-- Slice context, bytes 0-15 of the slice key on the first pass (R204). -/
def sliceContext (w : WalkSt) (lane pg : Nat) (host : Bool) (cls colour : Nat) (hit : Option (Nat × Nat)) : List Byte :=
  leBytes 1 (lane + 8 * pg) ++ leBytes 1 w.hdrs ++ leBytes 1 w.hdrId ++ leBytes 1 (keyFlags w host) ++
  leBytes 1 (cls + 16 * colour + 128 * b2n hit.isSome) ++
  leBytes 1 ((hit.map (·.2)).getD 0) ++ leBytes 2 ((hit.map (·.1)).getD 0) ++ List.replicate 8 0

/-! Ternary lookups: the lowest-numbered valid row whose masked key equals its masked value (R193, R203). -/

/-- Does the key match value and mask? -/
def ternary (key val mask : List Byte) : Bool :=
  ((key.zip val).zip mask).all (fun x => decide (x.1.1 &&& x.2 = x.1.2 &&& x.2))

/-- The winning row of a rule table with `n`-byte keys and the action word after value and mask. -/
def ruleLookup (c : Chip) (p : Page) (t n : Nat) (key : List Byte) : Option Nat :=
  (Chip.rowsOf c p t).find? (fun r =>
    bit (Chip.rowNat c p t r (2 * n) 1) 0 && ternary key (Chip.row c p t r 0 n) (Chip.row c p t r n n))

/-- The 128-bit action word of a row. -/
def ruleAction (c : Chip) (p : Page) (t n r : Nat) : Nat := Chip.rowNat c p t r (2 * n) 16

end Sys2Proof.Machine
end

