-- ==== Sys2Proof/Machine/Parse.lean ====
section
/-!
DEFINITION. The receive pipeline from dispatch to the handoff (R15 to R18, R38 to R41, R176 to R217): generations,
bisque and slice actions, the slow path, recirculation and the reorder buffer.
-/
namespace Sys2Proof.Machine

/-! Frames in the pipeline. -/

def Chip.frame (c : Chip) (i : Nat) : Option Frame := kvFind c.frames i
def setFrame (f : Frame) (c : Chip) : Chip := { c with frames := kvPut c.frames f.id f }

/-- Slice, complex and pages of a frame's PG. -/
def Frame.sliceOf (f : Frame) : Fin 8 := Fin.ofNat 8 (f.pg / 8)
def Frame.cxOf (f : Frame) : Cx := Fin.ofNat 2 (f.pg / 32)
def Frame.prs (f : Frame) : Page := prsPage (Frame.sliceOf f)
def Frame.slc (f : Frame) : Page := slcPage (Frame.sliceOf f)
def Frame.glz (f : Frame) : Page := glzPage (Frame.sliceOf f)
def Frame.bsq (f : Frame) : Page := bsqPage (Fin.ofNat 64 f.pg)

/-- Lane-in-group of the frame's port, 0 for a host-injected frame (R192). -/
def Frame.lane (f : Frame) : Nat := if f.host.isSome then 0 else f.port % 8

/-- The next order number. -/
def takeOrder (c : Chip) : Chip × Nat := ({ c with nextOrder := c.nextOrder + 1 }, c.nextOrder)

/-! Generations (R185 to R187, R214). -/

/-- In-flight counts: live in bits 15:0, old in bits 31:16 of SLC_GEN_INFLIGHT. -/
def bumpFlight (p : Page) (old : Bool) (d : Int) (c : Chip) : Chip :=
  let hi := if old then 31 else 15
  let v := (Chip.fld c p 0x054 hi (hi - 15) : Int) + d
  Chip.setFld c p 0x054 hi (hi - 15) v.toNat

/-- The frame takes the live record of its slice (R186). -/
def genTake (f : Frame) (c : Chip) : Chip × Frame :=
  let p := Frame.slc f
  let r := (Chip.get c p 0x044).toNat
  (bumpFlight p false 1 c, { f with grec := r, gen := bits r 31 16, counted := true })

/-- The frame leaves its record's in-flight count (R187, R214). -/
def genLeave (f : Frame) (c : Chip) : Chip × Frame :=
  if f.counted then
    let p := Frame.slc f
    (bumpFlight p (decide (f.grec ≠ (Chip.get c p 0x044).toNat)) (-1) c, { f with counted := false })
  else (c, f)

/-- Frames of the pipeline erased, each leaving its record's in-flight count first (R187, R214). -/
def eraseFrames (test : Frame → Bool) (c : Chip) : Chip :=
  let gone := (c.frames.map (·.2)).filter test
  let c := gone.foldl (fun c f => (genLeave f c).1) c
  { c with frames := c.frames.filter (fun e => !test e.2) }

/-- A write of SWAP to SLC_GEN_CMD (R185, R186): rejected, or accepted to apply two clocks later with the record as it stands
now. Assumption 155 (DEDUCED, unsafe). -/
def swapCmd (k : Clk) (sl : Fin 8) (locked : Bool) (c : Chip) : Chip × Bool :=
  let p := slcPage sl
  let next := (Chip.get c p 0x040).toNat
  if locked || Chip.flag c p 0x050 31 || (kvFind c.swaps sl.val).isSome ||
      decide (bits next 31 16 = bits (Chip.get c p 0x044).toNat 31 16) then
    (Chip.cause (Chip.bump c p 0x060) p 9, false)
  else ({ c with swaps := kvPut c.swaps sl.val (Clk.abs k + 2, next) }, true)

/-- An accepted SWAP applied (R185). -/
def swapApply (sl : Nat) (next : Nat) (c : Chip) : Chip :=
  let p := slcPage (Fin.ofNat 8 sl)
  let c := Chip.put (Chip.put c p 0x048 (Chip.get c p 0x044)) p 0x044 (BitVec.ofNat 64 next)
  let c := Chip.put c p 0x054 (BitVec.ofNat 64 (Chip.fld c p 0x054 15 0 * 65536))
  Chip.setFld { c with swaps := kvErase c.swaps sl } p 0x050 31 31 1

/-- The SWAPs due at a clock applied (R186). -/
def swapsDue (k : Clk) (c : Chip) : Chip :=
  (c.swaps.filter (fun s => decide (s.2.1 ≤ Clk.abs k))).foldl (fun c s => swapApply s.1 s.2.2 c) c

/-- The draining count is 0: the swap is complete (R187). -/
def swapDone (sl : Fin 8) (c : Chip) : Chip :=
  let p := slcPage sl
  if Chip.flag c p 0x050 31 ∧ Chip.fld c p 0x054 31 16 = 0 then
    Chip.cause (Chip.bump (Chip.setFld c p 0x050 31 31 0) p 0x058) p 8
  else c

/-! Leaving the pipeline (R18, R189 to R191). -/

/-- The frame's end has been received and it passed every check of R104. -/
def Frame.good (f : Frame) : Bool := f.ended && !f.fcsBad && !f.stomp && !f.trunc

/-- A slow-path frame whose end is known good joins its RX ring, and counts as handed to it (R190, R331). -/
def slowReady (k : Clk) (f : Frame) (c : Chip) : Chip × Frame :=
  match f.slow with
  | some (r, reason, tag) =>
    if !f.ended then (c, f)
    else
      let c := if Frame.good f then
          rxReady r ⟨f.stamp, (match f.host with | some h => h.2 + 2 ^ 15 | none => f.port), reason, tag, f.gen, k.turn,
            f.bytes⟩ (Chip.bump c (Frame.prs f) (0x300 + 8 * reason))
        else c
      (c, { f with slow := none })
  | none => (c, f)

/-- A frame that has nothing left to do is forgotten. -/
def settleFrame (k : Clk) (f : Frame) (c : Chip) : Chip :=
  let s := slowReady k f c
  let r := ingressRecord s.2 s.1
  let f := r.2
  if f.ended && !f.placed && f.slow.isNone && (decide (f.loc = .gone) || decide (f.loc = .released)) then
    { r.1 with frames := kvErase r.1.frames f.id }
  else setFrame f r.1

/-- The frame is discarded: its place goes at once (R18). -/
def dropFrame (k : Clk) (f : Frame) (c : Chip) : Chip :=
  let g := genLeave f c
  settleFrame k { g.2 with loc := .gone } g.1

/-- The frame is sent to the slow path with a reason and a TAG (R189, R190). -/
def slowPath (k : Clk) (reason tag : Nat) (f : Frame) (c : Chip) : Chip :=
  let p := Frame.prs f
  let q := Chip.asOf c f
  let o := 0x100 + 4 * reason
  let r := ringKey (Frame.cxOf f) (Chip.live q p o 10 0)
  let key := 32 * (Frame.sliceOf f).val + reason
  let n := match kvFind c.slowCnt key with | some (t, n) => if t = k.turn then n else 0 | none => 0
  let limit := Chip.live q p o 27 16
  if !Chip.liveFlag q p o 31 || !ringRuns c r 1 || (decide (limit ≠ 0) && decide (n ≥ limit)) then
    dropFrame k f (Chip.bump c p 0x2C8)
  else
    dropFrame k { f with slow := some (r, reason, tag) } { c with slowCnt := kvPut c.slowCnt key (k.turn, n + 1) }

/-! Bisque and slice actions (R194 to R196, R205 to R208). -/

/-- Row counters: one frame, and its length now or at its end (R196, R208). -/
def countRow (p : Page) (t row : Nat) (f : Frame) (c : Chip) : Chip × Frame :=
  let c := Chip.bumpRow c p t row 0 8 1
  if f.ended then (Chip.bumpRow c p t row 8 8 f.bytes.length, f)
  else (c, { f with credits := f.credits ++ [(p, t, row)] })

/-- Class, pre-colour, queue and meter of an action word; the bits are the same in both rule formats. -/
def applyCommon (a : Nat) (f : Frame) : Frame :=
  { f with
    cls := if bit a 4 then bits a 8 5 else f.cls
    colour := if bits a 10 9 = 0 then f.colour else bits a 10 9 - 1
    queue := if bit a 11 then bits a 29 13 else f.queue
    mcast := if bit a 11 then bit a 12 else f.mcast
    meter := if bit a 30 then some (bits a 46 31) else f.meter }

/-- Session tracking and capture of a slice action (R206). -/
def applySlice (a : Nat) (f : Frame) : Frame :=
  let f := applyCommon a f
  { f with
    sesProf := if bit a 47 then (if bit a 48 then some (bits a 51 49) else none) else f.sesProf
    capture := f.capture || bit a 52 }

/-- The bisque pass (R193 to R196): the action word and the frame after its fields. -/
def bisquePass (f : Frame) (c : Chip) : Chip × Frame × Nat :=
  let p := Frame.bsq f
  let q := Chip.asOf c f
  let key := bisqueKey f.w (Frame.lane f) f.host.isSome
  let f := { f with bsqKey := key }
  if !Chip.enabled q p then (Chip.bump c p 0x090, f, 0)
  else
    let bank := b2n (bit f.grec (f.pg % 8))
    let r := ruleLookup c p bank 40 key
    let a := match r with
      | some row => ruleAction c p bank 40 row
      | none => (Chip.getLive q p 0x040).toNat + (Chip.getLive q p 0x048).toNat * 2 ^ 64
    let s := match r with
      | some row => if bit a 3 then countRow p (2 + bank) row f c else (c, f)
      | none => (Chip.bump c p 0x080, f)
    let f := applyCommon a s.2
    let f := { f with
      sesProf := if bit a 47 then some (bits a 50 48) else none
      bsqHit := r.map (fun row => (row, bits a 58 51)) }
    (if bits a 2 1 = 2 then Chip.bump s.1 p 0x088 else s.1, f, a)

/-- The slice key of a frame's pass: context or metadata, then the extracts (R204, R209). -/
def sliceKeyOf (f : Frame) : List Byte :=
  if f.two then
    leBytes 1 (setBits (memNat f.metaB 0 1) 7 7 1) ++ slice f.metaB 1 15 ++ f.sliceKey.drop 16
  else sliceContext f.w (Frame.lane f) (f.pg % 8) f.host.isSome f.cls f.colour f.bsqHit ++ f.w.keyS.drop 16

/-- Page and table of the slice rules of a frame, and whether the glaze unit is there (R203, R216). -/
def sliceTable (c : Chip) (f : Frame) : Page × Nat :=
  if hasGlaze c.part then (Frame.glz f, b2n (bit f.grec 8)) else (Frame.slc f, 0)

/-- The frame goes on to stage 8 (R187, R225). -/
def toStage8 (f : Frame) (c : Chip) : Chip :=
  let g := genLeave f c
  setFrame { g.2 with loc := .stage8 } g.1

/-- The complex is THROTTLED (R441). -/
def throttled (c : Chip) (x : Cx) : Bool := Chip.flag c (onePage x .cpx) 0x18C 0

/-- The limit of a slice's recirculations per turn, 0 for none (R213, R442). -/
def recLimit (q c : Chip) (sl : Fin 8) : Nat :=
  let a := Chip.live q (glzPage sl) 0x044 15 0
  let x : Cx := Fin.ofNat 2 (sl.val / 4)
  let b := if throttled c x then Chip.live q (onePage x .cpx) 0x188 15 0 else 0
  if a = 0 then b else if b = 0 then a else min a b

/-- The recirculations of a slice in this turn (R213). -/
def recTurn (k : Clk) (c : Chip) (sl : Fin 8) : Nat :=
  match kvFind c.recCnt sl.val with | some (t, n) => if t = k.turn then n else 0 | none => 0

/-- Frames in the recirculation queue of a PG, in order of entry (R212). -/
def recircQueue (c : Chip) (pg : Nat) : List Frame :=
  sortBy (fun a b => decide (a.enq ≤ b.enq))
    ((c.frames.map (·.2)).filter (fun f => decide (f.pg = pg) && decide (f.loc = .recirc)))

/-- A malformed frame (R191); `cont` says what CONTINUE does, none where it acts as DROP. -/
def malformed (k : Clk) (cause : Nat) (cont : Option (Frame → Chip → Chip)) (f : Frame) (c : Chip) : Chip :=
  let p := Frame.prs f
  let c := Chip.bump c p (0x200 + 8 * cause)
  match Chip.live (Chip.asOf c f) p 0x050 (2 * cause + 1) (2 * cause), cont with
  | 1, _ => slowPath k (0x10 + cause) 0 f c
  | 2, some g => g { f with w := { f.w with malf := true } } c
  | _, _ => dropFrame k f c

/-- A first-pass RECIRC hit (R209, R213, R216): its other fields are applied already. `row` is the rule. -/
def recirculate (k : Clk) (p : Page) (t row a : Nat) (ctx : List Byte) (f : Frame) (c : Chip) : Chip :=
  let tag := bits a 60 53
  if !hasGlaze c.part then slowPath k 8 tag f c
  else
    let sl := Frame.sliceOf f
    let q := Chip.asOf c f
    let limit := recLimit q c sl
    let n := recTurn k c sl
    let full := decide ((recircQueue c f.pg).length ≥ 64)
    let gone := decide (limit ≠ 0) && decide (n ≥ limit)
    let held := Chip.flag c p 0x008 1
    if full || gone || held then
      let c := if full then Chip.cause (Chip.bump c p 0x0A8) p 8
        else if gone then Chip.cause (Chip.bump c p 0x0B0) p 9
        else Chip.bump c p 0x0B8
      match Chip.live q p 0x040 1 0 with
      | 1 => slowPath k 7 tag f c
      | 2 => toStage8 f c
      | _ => dropFrame k f c
    else
      let be := bits a 86 71
      let rule := Chip.row c p t row 176 16
      let metaB := (List.range 16).map (fun b => if bit be b then rule.getD b 0 else ctx.getD b 0)
      let o := takeOrder (Chip.bump { c with recCnt := kvPut c.recCnt sl.val (k.turn, n + 1) } p 0x0A0)
      setFrame { f with two := true, metaB := metaB, glzState := bits a 70 61, loc := .recirc, enq := o.2, waited := false, walk := none } o.1

/-- The slice lookup of a pass and what follows it (R207, R209, R211). -/
def slicePass (k : Clk) (f : Frame) (c : Chip) : Chip :=
  let key := sliceKeyOf f
  let f := { f with sliceKey := key }
  let st := sliceTable c f
  let p := st.1
  let t := st.2
  let q := Chip.asOf c f
  let glz := hasGlaze c.part
  if glz && !Chip.enabled q p then toStage8 f (Chip.bump c p 0x098)
  else
    let r := ruleLookup c p t 80 key
    let a := match r with
      | some row => ruleAction c p t 80 row
      | none => if glz then (Chip.getLive q p 0x048).toNat + (Chip.getLive q p 0x050).toNat * 2 ^ 64 else 0
    let s := match r with
      | some row => if glz && bit a 3 then countRow p (2 + t) row f c else (c, f)
      | none => if glz then (Chip.bump c p (if f.two then 0x088 else 0x080), f) else (c, f)
    let c := s.1
    let f := s.2
    match bits a 2 1, r, f.two with
    | 1, some _, true => malformed k 5 none f c
    | 1, some row, false => recirculate k p t row a (key.take 16) (applySlice a f) c
    | 2, _, _ => dropFrame k (applySlice a f) (if glz then Chip.bump c p 0x090 else c)
    | 3, _, _ => slowPath k 7 (bits a 60 53) (applySlice a f) c
    | _, _, _ => toStage8 (applySlice a f) c

/-- After the walk of the first pass: bisque, and the slice lookup unless the bisque action ends it (R194). -/
def bisqueThen (k : Clk) (f : Frame) (c : Chip) : Chip :=
  let b := bisquePass f c
  let f := b.2.1
  match bits b.2.2 2 1 with
  | 1 => toStage8 { f with sliceKey := sliceKeyOf f } b.1
  | 2 => dropFrame k f b.1
  | 3 => slowPath k 6 (bits b.2.2 58 51) f b.1
  | _ => slicePass k f b.1

/-- Length limit of the built-in checks (R184); of a host frame, its data end. Assumption 154 (DESIGN CHOICE, unsafe). -/
def lengthLimit (q : Chip) (f : Frame) : Nat :=
  let p := prtPage (Fin.ofNat 512 f.port)
  if f.host.isSome || Chip.liveFlag q p 0x100 0 then dataEnd f else Chip.live q p 0x104 13 0 - 4

/-- What the walk knows of a frame. -/
def walkIn (c : Chip) (f : Frame) : WalkIn :=
  let q := Chip.asOf c f
  { bytes := f.bytes, ended := f.ended, dataEnd := dataEnd f, limit := lengthLimit q f
    optSlow := Chip.liveFlag q (Frame.prs f) 0x040 0, unkSlow := Chip.liveFlag q (Frame.prs f) 0x040 1
    page := Frame.prs f, bank := b2n (bit f.grec 9) }

/-- A frame at its engine: the walk of its pass and all that follows (R178, R182, R189, R191, R210). -/
def parseFrame (k : Clk) (f : Frame) (c : Chip) : Chip :=
  let on := f.walk.getD { state := if f.two then f.glzState else 0 }
  let f := { f with walk := none }
  if f.two then
    match walk c (walkIn c f) false on with
    | .wait w => setFrame { f with loc := .parsing, walk := some w } c
    | .accept w => slicePass k { f with sliceKey := w.keyS } c
    | .slow reason _ => slowPath k reason 0 f c
    | .malformed cause _ => malformed k cause none f c
  else
    match walk c (walkIn c f) true on with
    | .wait w => setFrame { f with loc := .parsing, walk := some w } c
    | .accept w => bisqueThen k { f with w := w } c
    | .slow reason w => slowPath k reason 0 { f with w := w } c
    | .malformed cause w => malformed k cause (some (bisqueThen k)) { f with w := w } c

/-! Dispatch (R176, R177). -/

/-- Engines of a slice that PRS_ENG_MASK enables, no failed test holds out and the throttle keeps: the lowest-numbered, an
engine whose test ran as the throttle was applied only where the others do not suffice (R177, R413, R442). -/
def enginesKept (c : Chip) (sl : Fin 8) : List Nat :=
  let x : Cx := Fin.ofNat 2 (sl.val / 4)
  let es := (List.range 16).filter (fun e =>
    Chip.liveFlag c (prsPage sl) 0x044 e && !(Chip.hltOf c x).held.contains (sl.val, e))
  if throttled c x then
    let late (e : Nat) : Bool := (Chip.thermOf c x).late.contains (sl.val, e)
    (es.filter (fun e => !late e) ++ es.filter late).take (Chip.live c (onePage x .cpx) 0x184 20 16)
  else es

/-- Engines in service: those of them that are not under test. -/
def enginesIn (c : Chip) (sl : Fin 8) : List Nat :=
  let h := Chip.hltOf c (Fin.ofNat 2 (sl.val / 4))
  (enginesKept c sl).filter (fun e => !h.testing.contains (sl.val, e))

/-- PRS_ENG_STAT (R201). -/
def engStat (c : Chip) (sl : Fin 8) : Nat :=
  let h := Chip.hltOf c (Fin.ofNat 2 (sl.val / 4))
  let out := ((h.testing ++ h.held).filter (fun e => decide (e.1 = sl.val))).map (·.2)
  let v := ((enginesIn c sl).map (fun e => 2 ^ e)).sum
  match out with
  | e :: _ => 2 ^ 20 + e * 2 ^ 16 + v
  | [] => v

/-- Heads waiting for dispatch in a PG, of one kind: 0 line, 1 re-entered, 2 host-injected. -/
def heads (c : Chip) (pg kind : Nat) : List Frame :=
  sortBy (fun a b => decide (a.enq ≤ b.enq)) ((c.frames.map (·.2)).filter (fun f => decide (f.pg = pg) &&
    (match kind with
     | 0 => decide (f.loc = .queued) && f.host.isNone
     | 1 => decide (f.loc = .reentered)
     | _ => decide (f.loc = .queued) && f.host.isSome)))

/-- Heads in a PG's dispatch queue. -/
def queueLen (c : Chip) (pg : Nat) : Nat := ((List.range 3).map (fun kd => (heads c pg kd).length)).sum

/-- Heads of a PG that may still pass into its dispatch queue in this clock: 2 a clock, into 16 places (R176). -/
def passRoom (k : Clk) (c : Chip) (pg : Nat) : Nat :=
  let d := kvGet (0, 0) c.passed pg
  min (2 - (if d.1 = Clk.abs k then d.2 else 0)) (16 - queueLen c pg)

/-- Heads of a PG that wait in the MAC output, in order of arrival (R176). -/
def macHeads (c : Chip) (pg : Nat) : List Frame :=
  sortBy (fun a b => decide (a.enq ≤ b.enq))
    ((c.frames.map (·.2)).filter (fun f => decide (f.pg = pg) && decide (f.loc = .macOut)))

/-- A PG's waiting heads pass from the MAC output into its dispatch queue, as many as may in this clock; a slice that accepts no
head refuses them (R201). -/
def passHeads (k : Clk) (pg : Nat) (c : Chip) : Chip :=
  let fs := (macHeads c pg).take (passRoom k c pg)
  if fs.isEmpty then c
  else
    let d := kvGet (0, 0) c.passed pg
    let n := (if d.1 = Clk.abs k then d.2 else 0) + fs.length
    fs.foldl (fun c f =>
      if Chip.accepting c (Frame.prs f) then setFrame { f with loc := .queued } c
      else dropFrame k f (Chip.bump c (Frame.prs f) 0x2C0)) { c with passed := kvPut c.passed pg (Clk.abs k, n) }

/-- Segments that bytes from `have_` to `upto` of a frame begin (R21). -/
def newSegments (have_ upto : Nat) : Nat := ceilDiv upto 64 - ceilDiv have_ 64

/-- Rounds over lists: the first of each, then the second of each, at most `n` rounds. -/
def rounds : Nat → List (List Frame) → List Frame
  | 0, _ => []
  | n + 1, qs => qs.filterMap (·.head?) ++ rounds n (qs.map (·.drop 1))

/-- Have a head's segments been carried to the dispatch queue (R212)? -/
def headSent (c : Chip) (f : Frame) : Bool := !(busOf c f.pg).owed.any (fun e => decide (e.1 = some f.id))

/-- The heads of a slice in the order a clock's rounds take them (R176). -/
def dispatchOrder (k : Clk) (c : Chip) (sl : Fin 8) : List Frame :=
  let start := Config.phase sl.val + Clk.abs k
  let pgs := (List.range 8).map (fun i => 8 * sl.val + (start + i) % 8)
  (List.range 3).flatMap (fun kd =>
    let qs := pgs.map (fun pg => (heads c pg kd).filter (headSent c))
    rounds ((qs.map (·.length)).foldl max 0) qs)

/-- One head given to an engine. -/
def dispatchOne (k : Clk) (engine : Nat) (f : Frame) (c : Chip) : Chip :=
  let g := if f.two then (c, f) else genTake f c
  let o := takeOrder g.1
  let order := if f.two then f.order else o.2
  parseFrame k { g.2 with order := order, engine := engine } o.1

/-- Engines in the order they are used next: after the last one used (R176). -/
def engineOrder (es : List Nat) (last : Nat) : List Nat :=
  es.filter (fun e => decide (e > last)) ++ es.filter (fun e => decide (e ≤ last))

/-- A frame that waits in its glaze pass counts once (R212). -/
def markRecirc (f : Frame) (c : Chip) : Chip × Frame :=
  if f.rqWait then (c, f) else (Chip.bump c (Frame.glz f) 0x0C0, { f with rqWait := true })

/-- A head left waiting for an engine counts once (R177), a re-entered one also as waiting in its glaze pass (R212). -/
def markWait (f : Frame) (c : Chip) : Chip :=
  if f.waited then c
  else
    let g := if f.two then markRecirc f c else (c, f)
    setFrame { g.2 with waited := true } (Chip.bump g.1 (Frame.prs f) 0x2D0)

/-- Is the row one of a table that the walks and rule lookups of a slice read (R178, R191, R202)? -/
def sliceReads (sl : Fin 8) (e : LookupErr) : Bool :=
  (([prsPage sl, glzPage sl, slcPage sl].contains e.page ||
    (List.range 8).any (fun i => decide (e.page = bsqPage (Fin.ofNat 64 (8 * sl.val + i))))) && decide (e.table ≤ 1))

/-- One clock's dispatch of a slice (R176). `errs` are errors that have come to stand in table words. -/
def dispatch (k : Clk) (sl : Fin 8) (errs : List LookupErr) (c : Chip) : Chip :=
  let c := (List.range 8).foldl (fun c i => passHeads k (8 * sl.val + i) c) { c with latent := c.latent ++ errs }
  let d := kvGet (0, 0, 15) c.disp sl.val
  let used := if d.1 = Clk.abs k then d.2.1 else 0
  let es := engineOrder (enginesIn c sl) d.2.2
  let fs := dispatchOrder k c sl
  let n := es.length - used
  let go := (fs.take n).zip es
  let last := match go.getLast? with | some x => x.2 | none => d.2.2
  let c := { c with disp := kvPut c.disp sl.val (Clk.abs k, used + go.length, last) }
  let c := if go.isEmpty then c else meet k 3 (sliceReads sl) c
  let c := (fs.drop n).foldl (fun c f => markWait f c) c
  go.foldl (fun c x => dispatchOne k x.2 x.1 c) c

/-! Reorder (R18, R197 to R199). -/

/-- Places held in a PG, and segments in its store. -/
def placesOf (c : Chip) (pg : Nat) : List Frame :=
  (c.frames.map (·.2)).filter (fun f => decide (f.pg = pg) && f.placed)
def segmentsOf (c : Chip) (pg : Nat) : Nat := ((placesOf c pg).map (fun f => ceilDiv f.bytes.length 64)).sum

/-- The metadata word of a frame (R39, R40). -/
def metadataWord (f : Frame) : Nat :=
  let flags := b2n f.sesValid + 2 * b2n f.untrack + 4 * b2n f.jrn + 8 * b2n f.strValid + 16 * b2n f.gap +
    32 * b2n f.dup + 64 * b2n f.two + 128 * b2n f.cut + 256 * b2n f.w.ptp + 512 * b2n f.capture + 1024 * b2n f.mcast +
    2048 * b2n f.host.isSome + 4096 * b2n f.ecc
  let port := match f.host with | some h => h.2 | none => f.port
  stampShort f.stamp * 2 ^ 192 + (if f.sesValid then f.appSeq % 2 ^ 64 else 0) * 2 ^ 128 + f.gen % 2 ^ 16 * 2 ^ 112 +
  f.session % 2 ^ 18 * 2 ^ 94 + f.queue % 2 ^ 17 * 2 ^ 77 + f.stream % 2 ^ 14 * 2 ^ 50 + port % 2 ^ 9 * 2 ^ 41 +
  f.w.l4off % 2 ^ 9 * 2 ^ 32 + f.cls % 16 * 2 ^ 28 + f.colour % 4 * 2 ^ 26 + flags

/-- The end-of-frame word (R41). -/
def endWord (f : Frame) : Nat :=
  2 ^ 31 * b2n f.fcsBad + 2 ^ 30 * b2n f.stomp + 2 ^ 29 * b2n f.trunc + f.bytes.length % 2 ^ 14

/-- An ingress copy captured, once a released frame's end is known good (R332). -/
def ingressCapture (k : Clk) (f : Frame) (c : Chip) : Chip :=
  if f.capture && Frame.good f then
    (capture k (Frame.cxOf f) 0 (match f.host with | some h => h.2 | none => f.port) f.stamp f.gen f.bytes (some 0) c).1
  else c

/-- The handoff's next free segment slot of a PG, from this clock on (R38). -/
def nextSlot (k : Clk) (c : Chip) (pg : Nat) : Nat := max (4 * Clk.abs k) (kvGet 0 c.relSlot pg)

/-- A frame released: presented at the handoff with its metadata word (R198, R39, R41). -/
def releaseFrame (k : Clk) (f : Frame) (c : Chip) : Chip :=
  let slot := nextSlot k c f.pg
  let c := { c with relSlot := kvPut c.relSlot f.pg (slot + max 1 (ceilDiv f.bytes.length 64)) }
  let c := Chip.emit c (.handoff f.pg f.id slot (metadataWord f) f.bytes)
  let c := if f.ended then ingressCapture k f (Chip.emit c (.endOfFrame f.pg f.id (endWord f))) else c
  settleFrame k { f with loc := .released, placed := false, fate := some 0, sent := f.bytes.length } c

/-- The oldest place of each rank sequence of a PG (R197, R198). -/
def oldestPlaces (c : Chip) (pg : Nat) : List Frame :=
  let ps := placesOf c pg
  (List.range 9).filterMap (fun q => ps.find? (fun f => decide (f.sequ = q)))

/-- rob_timeout of a slice, as configured for the frame (R33, R199). -/
def robTimeout (c : Chip) (f : Frame) : Nat := Chip.live (Chip.asOf c f) (Frame.prs f) 0x04C 15 0

/-- One thing the reorder buffer of a PG can do now: a gone place freed, an expired one freed, the earliest ready
frame released (R198). -/
def robStep (k : Clk) (pg : Nat) (c : Chip) : Option Chip :=
  let hs := oldestPlaces c pg
  match hs.find? (fun f => decide (f.loc = .gone)) with
  | some f => some (settleFrame k { f with placed := false } c)
  | none =>
    match hs.find? (fun f => decide (f.loc ≠ .ready) && decide (f.loc ≠ .gone) &&
        decide (Clk.abs k ≥ f.since + robTimeout c f)) with
    | some f =>
      let c := Chip.cause (Chip.bump c (Frame.prs f) (0x240 + 8 * (f.pg % 8))) (Frame.prs f) 9
      some (settleFrame k { f with placed := false, expired := true } c)
    | none =>
      let ready := sortBy (fun a b => decide (a.since ≤ b.since)) (hs.filter (fun f => decide (f.loc = .ready)))
      match ready with
      | f :: _ =>
        if nextSlot k c pg < 4 * (Clk.abs k + 1) then some (releaseFrame k f c) else none
      | [] => none

/-- The reorder buffer of a PG run for a clock (R198). -/
def robRun (k : Clk) (pg : Nat) : Nat → Chip → Chip
  | 0, c => c
  | n + 1, c => match robStep k pg c with | some c' => robRun k pg n c' | none => c

/-- Assumption 19 (DEDUCED, safe). -/
def reorder (k : Clk) (pg : Fin 64) (c : Chip) : Chip := robRun k pg.val 1024 c

/-- A frame reaches stage 10: READY, or discarded if its place expired (R198, R199). -/
def toReorder (k : Clk) (f : Frame) (c : Chip) : Chip :=
  if f.expired then settleFrame k { f with loc := .gone, fate := some 3 } c else setFrame { f with loc := .ready } c

/-! Stages 8 and 9 (R225 to R230, R245). -/

/-- Stage 9 and the way to stage 10: `dropped` says that stage 8 discards the frame. -/
def afterSession (k : Clk) (r : Chip × Frame × Bool) : Chip :=
  let f := r.2.1
  if r.2.2 then settleFrame k { f with loc := .gone } r.1
  else
    let m := stage9 k (Frame.cxOf f) f r.1
    if m.2.2 then settleFrame k { m.2.1 with loc := .gone, fate := some 2 } m.1 else toReorder k m.2.1 m.1

/-- What a frame at stage 8 wants of the session unit. -/
inductive SesWant where
  | none
  | bypass
  | wait
  | lookup (prof : Nat) (prio : Bool) (seq : Option Nat)
deriving DecidableEq, Repr

def sesWant (c : Chip) (f : Frame) : SesWant :=
  let x := Frame.cxOf f
  let q := Chip.asOf c f
  match f.sesProf with
  | none => .none
  | some prof =>
    if !Chip.takes c f (sesPage x) then .bypass
    else
      let prio := Chip.liveFlag q (sesPage x) (0x22C + 0x30 * prof) 0
      match readSeq q x f prof with
      | .wait => .wait
      | .unreadable => .lookup prof prio none
      | .seq a => .lookup prof prio (some a)

/-- Frames of one clock by slice in rotating order, then in dispatch order; those with PRIO, where it is set, come
before the rest (R230, R247). -/
def clockOrder (k : Clk) (x : Cx) (fs : List (Frame × Bool)) : List (Frame × Bool) :=
  let start := Config.phase (8 + x.val) + Clk.abs k
  let rank (f : Frame) : Nat := ((Frame.sliceOf f).val % 4 + 4 - start % 4) % 4
  let le (a b : Frame × Bool) : Bool :=
    if a.2 ≠ b.2 then a.2
    else if rank a.1 ≠ rank b.1 then decide (rank a.1 < rank b.1)
    else decide (a.1.order ≤ b.1.order)
  sortBy le fs

/-- Requests of one clock in grant order (R230): PRIO first, then slices in rotating order, then dispatch order. -/
def grantOrder (k : Clk) (x : Cx) (fs : List (Frame × Bool)) : List Frame := (clockOrder k x fs).map (·.1)

/-- A granted lookup's candidate words are checked, then the row of the stream that its entry names (R220, R404). -/
def grantMeet (k : Clk) (x : Cx) (prof : Nat) (f : Frame) (c : Chip) : Chip :=
  let key := sessionKey (Chip.asOf c f) x f prof
  let c := sesMeet k 3 x key prof c
  match lookupKey c x key prof with
  | some i => if bit (sesCtl c x i) 7 then meetRows k 3 .cap 0 [Chip.rowNat c (sesPage x) 0 i 102 2 % 16384] c else c
  | none => c

/-- A frame that stage 8 has done with waits for its clock's end; `drop` says that stage 8 discards it (R247). -/
def toStage9 (r : Chip × Frame × Bool) : Chip := setFrame { r.2.1 with loc := .stage9 r.2.2 } r.1

/-- A lookup granted to a frame (R226 to R229). -/
def grantOne (k : Clk) (x : Cx) (c : Chip) (f : Frame) : Chip :=
  match sesWant c f with
  | .lookup prof _ seq => toStage9 (sesGranted k x prof seq f (grantMeet k x prof f c))
  | _ => c

/-- A frame that needs no grant leaves stage 8 (R225). -/
def passOne (x : Cx) (c : Chip) (f : Frame) : Chip :=
  toStage9 (match sesWant c f with | .bypass => Chip.bump c (sesPage x) 0x190 | _ => c, f, false)

/-- A frame whose lookup is not granted leaves stage 8 (R230). -/
def refuseOne (x : Cx) (c : Chip) (f : Frame) : Chip :=
  let r := sesRefused x (Frame.sliceOf f).val f c
  toStage9 (r.1, r.2, false)

/-- Stage 8 of the named frames of a complex in one clock, lookups in grant order (R230). `errs` are errors that have come to
stand in table words. Assumption 114 (DEDUCED, unsafe). -/
def sessionClock (k : Clk) (x : Cx) (ids : List Nat) (errs : List LookupErr) (c : Chip) : Chip :=
  let c := { c with latent := c.latent ++ errs }
  let fs := (ids.filterMap (fun i => Chip.frame c i)).filter (fun f => decide (f.loc = .stage8) && decide (Frame.cxOf f = x))
  let plain := fs.filter (fun f => match sesWant c f with | .none => true | .bypass => true | _ => false)
  let asks := fs.filterMap (fun f => match sesWant c f with | .lookup _ pr _ => some (f, pr) | _ => none)
  let s := Chip.sesOf c x
  let used := if s.clock = Clk.abs k then s.used else 0
  let ordered := grantOrder k x asks
  let n := 4 - used
  let c := setSes x { s with clock := Clk.abs k, used := used + min n ordered.length } c
  (ordered.drop n).foldl (refuseOne x) ((ordered.take n).foldl (grantOne k x) (plain.foldl (passOne x) c))

/-- Frames at stage 9 of a complex. -/
def atStage9 (c : Chip) (x : Cx) : List Frame :=
  (c.frames.map (·.2)).filter (fun f => (match f.loc with | .stage9 _ => true | _ => false) && decide (Frame.cxOf f = x))

/-- Stage 9 of a clock, after its true-ups: decisions in the grant order of R230 without its PRIO division (R247). -/
def meterClock (k : Clk) (x : Cx) (c : Chip) : Chip :=
  ((clockOrder k x ((atStage9 c x).map (fun f => (f, false)))).map (·.1)).foldl
    (fun c f => afterSession k (c, f, decide (f.loc = .stage9 true))) c

/-! Recirculation re-entry (R212). -/

/-- The oldest frame of a PG's recirculation queue re-enters with its head's segments, or waits for a free segment or
for room in the dispatch queue (R22, R176, R212).
Assumption 100 (DEDUCED, safe). -/
def reenter (pg : Fin 64) (c : Chip) : Chip :=
  match recircQueue c pg.val with
  | [] => c
  | f :: _ =>
    if queueLen c pg.val < 8 && busFree c pg.val then
      let o := takeOrder (busExtra pg.val (some f.id) (ceilDiv (min (dataEnd f) 512) 64) c)
      setFrame { f with loc := .reentered, enq := o.2, waited := false } o.1
    else
      let g := markRecirc f c
      setFrame g.2 g.1

/-! Admission (R197, R201) and the bytes that follow. -/

/-- A frame presented by stage 4, or injected by the host: it takes a place and a rank, or is discarded for want of
one; a slice that accepts no head refuses it (R197, R201). A line head that may not yet pass into the dispatch queue
waits in the MAC output (R176). Its number is answered. -/
def admitFrame (k : Clk) (f : Frame) (c : Chip) : Chip × Option Nat :=
  let p := Frame.prs f
  let full := decide ((placesOf c f.pg).length ≥ 512) || decide (segmentsOf c f.pg + ceilDiv f.bytes.length 64 > 1024)
  if full then (Chip.cause (Chip.bump c p (0x280 + 8 * (f.pg % 8))) p 10, none)
  else
    let key := 9 * f.pg + f.sequ
    let rank := kvGet 0 c.ranks key
    let o := takeOrder { c with ranks := kvPut c.ranks key ((rank + 1) % 65536), nextFrame := c.nextFrame + 1 }
    let f := { f with id := c.nextFrame, rank := rank, since := Clk.abs k, enq := o.2 }
    let c1 := busLine f.pg (if f.host.isSome then 0 else ceilDiv f.bytes.length 64) o.1
    let wait := f.host.isNone && (!(macHeads c f.pg).isEmpty || decide (passRoom k c f.pg = 0))
    if Chip.accepting c p then
      (if wait then setFrame { f with loc := .macOut } c1
       else setFrame f (if f.host.isSome then c1
         else
           let d := kvGet (0, 0) c.passed f.pg
           { c1 with passed := kvPut c1.passed f.pg (Clk.abs k, (if d.1 = Clk.abs k then d.2 else 0) + 1) }), some f.id)
    else (dropFrame k f (Chip.bump o.1 p 0x2C0), some f.id)

/-- Later bytes of a frame: presented if it is released; a frame not released whose segments no longer fit in the
store is discarded whole (R197). Assumption 101 (DESIGN CHOICE, unsafe). -/
def moreBytes (k : Clk) (i : Nat) (bs : List Byte) (c : Chip) : Chip :=
  match Chip.frame c i with
  | none => c
  | some f =>
    if f.ended then c
    else
      let segs := newSegments f.bytes.length (f.bytes.length + bs.length)
      let c := if f.host.isSome then c else busLine f.pg segs c
      let f := { f with bytes := f.bytes ++ bs }
      if f.loc = .released then
        setFrame { f with sent := f.bytes.length }
          (if bs.isEmpty then c
           else
             let slot := nextSlot k c f.pg
             Chip.emit { c with relSlot := kvPut c.relSlot f.pg (slot + segs) } (.handoffMore f.pg f.id slot bs))
      else if f.loc ≠ .gone ∧ f.placed = true ∧ segmentsOf (setFrame f c) f.pg > 1024 then
        let p := Frame.prs f
        dropFrame k { f with fate := some 3 } (Chip.cause (Chip.bump c p (0x280 + 8 * (f.pg % 8))) p 10)
      else setFrame f c

/-- A frame that waits for bytes goes on: its walk, if it is at an engine (R178). -/
def resumeFrame (k : Clk) (i : Nat) (c : Chip) : Chip :=
  match Chip.frame c i with
  | some f => if f.loc = .parsing then parseFrame k f c else c
  | none => c

/-- What a frame's end-of-frame word will say. -/
structure EndInfo where
  fcsBad : Bool := false
  stomp  : Bool := false
  trunc  : Bool := false
  ecc    : Bool := false
deriving DecidableEq, Repr

/-- The frame's end is received: end-of-frame word, row credits, true-up, OCTETS, capture, slow path and record
(R41, R196, R246, R289, R332, R456). -/
def endFrame (k : Clk) (i : Nat) (e : EndInfo) (c : Chip) : Chip :=
  match Chip.frame c i with
  | none => c
  | some f =>
    if f.ended then c
    else
      let x := Frame.cxOf f
      let f := { f with ended := true, fcsBad := e.fcsBad, stomp := e.stomp, trunc := e.trunc }
      let c := f.credits.foldl (fun c t => Chip.bumpRow c t.1 t.2.1 t.2.2 8 8 f.bytes.length) c
      let f := { f with credits := [] }
      let c := octetsCorrect k x f (trueUp k x f f.bytes.length c)
      let c := if f.loc = .released then ingressCapture k f (Chip.emit c (.endOfFrame f.pg f.id (endWord f))) else c
      settleFrame k f c

end Sys2Proof.Machine
end

