-- ==== Sys2Proof/Machine/Mac.lean ====
section
/-!
DEFINITION. Frame receive and flow control (R93, R97 to R99, R104 to R109, R118 to R122, R156 to R161, R174, R376).
-/
namespace Sys2Proof.Machine

/-! The frame at stage 4. -/

/-- The mode whose lines, FEC and stamps a port's lanes follow: pair lanes those of mode 0x9 (R375, R376). -/
def laneMode (c : Chip) (n : Fin 512) : Nat := if isPair c n then 9 else Chip.modeAt c n

/-- Ingress stamp of a pair frame (R159, R376). -/
def pairRxStamp (c : Chip) (n : Fin 512) (w : RxWord) : Nat :=
  let p := stpPage n
  stampSum w.clk 9 ((w.pos / modeBits 9 * 64 + w.off : Nat) : Int)
    (-(signed 32 (Chip.getLive c p (0x100 + 4 * 9)).toNat) -
      signed 32 (Chip.getLive c p (0x180 + 4 * (w.lane % 4))).toNat)

/-- The frame at the end of a port's local loopback (R102). Assumption 71 (DESIGN CHOICE, safe). -/
def looped (c : Chip) (n : Fin 512) : Option LoopFrame := if Chip.lpbk c n = 1 then (Chip.port c n).loop.head? else none

/-- The ingress stamp of a frame (R159, R161, R376): a looped one's is its egress stamp (R165). -/
def ingressStamp (c : Chip) (n : Fin 512) (w : RxWord) : Nat :=
  match looped c n with
  | some f => f.stamp
  | none => if isPair c n then pairRxStamp c n w else rxStamp w.clk c n w.lane w.pos w.off

/-- An armed receive probe records a frame (R174). -/
def probeRx (n : Fin 512) (w : RxWord) (stamp : Nat) (c : Chip) : Chip :=
  let p := Chip.port c n
  if p.probeRx then
    let s := stpPage n
    let c := setPort n { p with probeRx := false } c
    let c := Chip.put (Chip.put c s 0x058 (BitVec.ofNat 64 (stampSec stamp))) s 0x060 (BitVec.ofNat 64 (stampNsf stamp))
    let raw := w.lane % 8 * 2 ^ 61 + Chip.fld c s 0x044 7 5 * 2 ^ 58 + w.pos % 256 * 2 ^ 50 + w.off % 64 * 2 ^ 44
    let c := Chip.put (Chip.put c s 0x068 (BitVec.ofNat 64 raw)) s 0x070 (BitVec.ofNat 64 (shortStamp w.clk))
    Chip.cause (Chip.setFld c s 0x050 0 0 1) s 9
  else c

/-- Arming a probe clears its DONE bit and restarts it (R174); the page of no live port is inert (R88, R175). -/
def armProbe (n : Fin 512) (tx : Bool) (c : Chip) : Chip :=
  let p := Chip.port c n
  if Chip.modeAt c n = 0 then c
  else
    let c := setPort n (if tx then { p with probeTx := true } else { p with probeRx := true }) c
    Chip.setFld c (stpPage n) 0x050 (b2n tx) (b2n tx) 0

/-- A received frame as it enters the parse pipeline, with its port's defaults (R195). -/
def rxFrame (k : Clk) (c : Chip) (n : Fin 512) (stamp : Nat) (bs : List Byte) (cut : Bool) : Frame :=
  let d := Chip.getLive c (bsqPage (pgOf n)) (0x050 + 4 * (n.val % 8))
  { id := 0, port := n.val, pg := n.val / 8, sequ := n.val % 8, rank := 0, since := Clk.abs k, bytes := bs, cut := cut
    stamp := stamp, cfg := c.regs, cls := bits d.toNat 27 24, queue := bits d.toNat 15 0 + bits d.toNat 16 16 * 65536
    unlocked := decide (Chip.timeState c ≠ 2) }

/-- PRT_MAC_SA as it stands on the wire: bits 7:0 first. -/
def macSa (c : Chip) (n : Fin 512) : List Byte := leBytes 6 (Chip.getLive c (prtPage n) 0x110).toNat

/-- Offset of the EtherType of a frame with at most one IEEE 802.1Q tag (R377). -/
def witType (bs : List Byte) : Nat := if wireNat bs 12 2 = 0x8100 then 16 else 12

/-- A witness message for this port (R379, R383): the MAC consumes it while the chip has a pair role or serves. -/
def isWitness (c : Chip) (n : Fin 512) (bs : List Byte) : Bool :=
  hasSaggar c.part && (decide (Chip.fld c .sag 0x068 2 0 ≠ 0) || Chip.liveFlag c .sag 0x040 24) &&
  decide (slice bs 0 6 = macSa c n) && decide (wireNat bs (witType bs) 2 = Chip.live c .sag 0x04C 31 16)

/-- MAXLEN of a port. -/
def maxLen (c : Chip) (n : Fin 512) : Nat := Chip.live c (prtPage n) 0x104 13 0

/-- A frame's head presented: stamped, probed, admitted (R107, R156, R161, R197). -/
def present (k : Clk) (n : Fin 512) (w : RxWord) (bs : List Byte) (cut ecc : Bool) (c : Chip) : Chip × Option Nat :=
  let stamp := ingressStamp c n w
  admitFrame k { rxFrame k c n stamp bs cut with ecc := ecc } (probeRx n w stamp c)

/-- Offset of the length/type field behind any IEEE 802.1Q tags. -/
def typePos (bs : List Byte) : Nat → Nat → Nat
  | 0, o => o
  | m + 1, o => if wireNat bs o 2 = 0x8100 ∨ wireNat bs o 2 = 0x88A8 then typePos bs m (o + 4) else o

/-- The length/type field of a frame (R106). -/
def typeAt (bs : List Byte) : Nat := typePos bs 4096 12

/-- A frame whose type is 0x8808, or not yet received: no MAC control frame is presented (R108). -/
def maybeControl (bs : List Byte) : Bool := decide (wireNat bs (typeAt bs) 2 = 0x8808) || decide (bs.length < typeAt bs + 2)

/-! The checks of R104 to R106. -/

/-- The earlier of two offsets. -/
def earlier (a b : Option Nat) : Option Nat :=
  match a, b with
  | some i, some j => some (min i j)
  | some i, none => some i
  | none, b => b

/-- The FCS of a whole frame is right. -/
def fcsOk (bs : List Byte) : Bool :=
  decide (4 ≤ bs.length) && decide (memNat bs (bs.length - 4) 4 = crc32 (bs.take (bs.length - 4)))

/-- LEN of R106. -/
def lenBad (bs : List Byte) : Bool :=
  let o := typeAt bs
  let v := wireNat bs o 2
  let data := bs.length - 4 - (o + 2)
  decide (v < 0x0600) && (decide (v > 1500) || (decide (v ≥ 46) && decide (data ≠ v)) || (decide (v < 46) && decide (data ≠ 46)))

/-- A failure of a frame: its counter, the bytes it counts in PRT_RX_BAD_OCTETS_CNT, where in the bytes it is met,
and the end-of-frame bit it gives: 31 FCS_BAD, 30 STOMP, 29 TRUNC (R104, R107). -/
structure RxFail where
  counter : Nat
  octets  : Nat
  at_     : Nat
  eof     : Nat
deriving DecidableEq, Repr

/-- Bytes of a frame before its first invalid code, or before the first that an uncorrectable codeword carries (R93). -/
def rxCode (bs : List Byte) (e : RxErrs) : Option Nat :=
  (e.fecBad.filter (fun i => decide (i < bs.length))).foldl (fun a i => earlier a (some i))
    (e.code.filter (fun i => decide (i ≤ bs.length)))

/-- Every failure of a frame, in the table order of R104. -/
def rxFails (bs : List Byte) (e : RxErrs) (trunc : Bool) (maxlen : Nat) (lenChk : Bool) : List RxFail :=
  let n := bs.length
  let on (b : Bool) (f : RxFail) : List RxFail := if b then [f] else []
  on trunc ⟨0x258, n, n, 29⟩ ++
  (match rxCode bs e with | some i => on true ⟨0x230, i, i, 31⟩ | none => []) ++
  on e.align ⟨0x238, 0, 0, 31⟩ ++
  (match e.ecc with | some b => on (decide (b.at_ < n)) ⟨0x260, n, b.at_, 30⟩ | none => []) ++
  on (!trunc && !fcsOk bs) ⟨0x228, n, n, 31⟩ ++
  on (!trunc && decide (n < 64)) ⟨0x240, n, n, 31⟩ ++
  on (decide (n > maxlen)) ⟨0x248, maxlen + 1, maxlen, 31⟩ ++
  on (!trunc && lenChk && lenBad bs) ⟨0x250, n, n, 31⟩

/-- The failure met first in a frame's bytes, the earlier cause of R104's table among those of one place (R107). -/
def firstFail (fs : List RxFail) : Option RxFail :=
  fs.foldl (fun (a : Option RxFail) f => match a with
    | some b => if f.at_ < b.at_ then some f else some b
    | none => some f) none

/-- The end-of-frame word of a presentation that ends at a failure, or at the frame's end (R107). -/
def failEof : Option RxFail → EndInfo
  | some f => { fcsBad := decide (f.eof = 31), stomp := decide (f.eof = 30), trunc := decide (f.eof = 29) }
  | none => {}

/-- What the bytes received of a frame have shown. -/
def RxProg.errs (r : RxProg) : RxErrs := { code := r.code, ecc := r.ecc }

/-- The failures that a frame in progress has met: an invalid code, an uncorrectable word, a byte past MAXLEN (R107). -/
def rxMet (r : RxProg) (most : Nat) : List RxFail := (rxFails r.bytes r.errs true most false).drop 1

/-- Of two uncorrectable words of a frame, that of the earlier byte. -/
def firstErr (a b : Option BusErr) : Option BusErr :=
  match a, b with
  | some i, some j => if j.at_ < i.at_ then some j else some i
  | some i, none => some i
  | none, b => b

/-- Bytes that follow the `have_` received of a frame: those given, or those of the loopback, as many (R102). -/
def rxNext (c : Chip) (n : Fin 512) (have_ : Nat) (bs : List Byte) : List Byte :=
  match looped c n with
  | some f => ((f.bytes.take (f.bytes.length - 4)).drop have_).take bs.length
  | none => if Chip.lpbk c n = 1 then [] else bs

/-- Does the MAC receive frames at a port: UP, DORMANT or WAKING (R97, R98)? -/
def rxOpen (c : Chip) (n : Fin 512) : Bool :=
  let st := Chip.linkState c n
  decide (Chip.modeAt c n ≠ 0) && (decide (st = 4) || decide (st = 6) || decide (st = 7))

/-- A frame's first bytes have been received: it is refused while quiescing (R97), else its 64th byte is awaited. -/
def rxFirst (n : Fin 512) (bs : List Byte) (code : Option Nat) (corr : Nat) (ecc : Option BusErr) (c : Chip) : Chip :=
  let drain := Chip.isUp c n && portQuiesce c n
  let c := if drain then Chip.bump c (prtPage n) 0x0A0 else c
  setPort n { Chip.port c n with
    rx := some { kind := if drain then .drain else .early, bytes := bs, cfg := c.regs, code := code, corr := corr, ecc := ecc } } c

/-- A frame's first 64 bytes have been received and pass CODE and ALIGN (R107, R97, R98, R108, R376): its word is known,
and it is presented, or held, or refused. One whose bytes so far or metadata word cannot be corrected is held, to be dropped
(R404). Assumption 18 (DESIGN CHOICE, unsafe). -/
def rxStart (k : Clk) (n : Fin 512) (cap : RxCapture) (data : RxData) (c : Chip) : Chip :=
  let p := Chip.port c n
  let c' := if p.rx.isNone && rxOpen c n then rxFirst n [] none 0 none c else c
  match (Chip.port c' n).rx with
  | some r =>
    let all := r.bytes ++ rxNext c n r.bytes.length data.bytes
    let ecc := firstErr r.ecc data.ecc
    let corr := r.corr + data.corr
    if r.word.isSome ∨ all.length < 64 ∨ r.code.isSome = true then c
    else
      let w := startCapture k c n (laneMode c n) cap
      let c := busMet k n 0 data.corr data.ecc c'
      let go (kd : RxKind) (c : Chip) : Chip := setPort n { Chip.port c n with
        rx := some { r with kind := kd, word := some w, bytes := all, cfg := c.regs, corr := corr, ecc := ecc } } c
      match r.kind with
      | .drain => go .drain c
      | _ =>
        match Chip.linkState c n with
        | 4 =>
          if isPair c n then go .pair (probeRx n w (ingressStamp c n w) c)
          else if ecc.isSome || Chip.liveFlag c (prtPage n) 0x100 0 || maybeControl all || isWitness c n all then go .held c
          else
            let r' := present k n w (all.take (maxLen c n)) true (decide (corr > 0)) c
            go (.presented r'.2) r'.1
        | 6 => go (.dormant true) c
        | _ => go (.dormant false) c
  | none => c

/-- What has been received of a presented frame goes on: not past MAXLEN, an invalid code or an uncorrectable word, which end
its presentation; a corrected word shows in FLAGS (R40, R107). -/
def rxMore (k : Clk) (n : Fin 512) (id : Nat) (r : RxProg) (c : Chip) : Chip :=
  match Chip.frame c id with
  | none => c
  | some f =>
    let met := firstFail (rxMet r (maxLen { c with regs := r.cfg } n))
    let upto := match met with | some b => b.at_ | none => r.bytes.length
    let c := setFrame { f with ecc := f.ecc || decide (r.corr > 0) } c
    let c := moreBytes k id ((r.bytes.take upto).drop f.bytes.length) c
    let c := if met.isSome then endFrame k id (failEof met) c else c
    let c := if f.loc = .parsing then meet k 3 (sliceReads (Frame.sliceOf f)) c else c
    resumeFrame k id c

/-- Bytes of the frame in progress at a port (R107, R178). Assumption 124 (DESIGN CHOICE, safe). -/
def rxBytes (k : Clk) (n : Fin 512) (d : RxChunk) (c : Chip) : Chip :=
  let c := { c with latent := c.latent ++ d.errs }
  if rxOpen c n then
    let p := Chip.port c n
    let c := busMet k n 0 d.corr d.ecc c
    match p.rx with
    | none => rxFirst n (rxNext c n 0 d.bytes) d.code d.corr d.ecc c
    | some r =>
      let r := { r with
        bytes := r.bytes ++ rxNext c n r.bytes.length d.bytes, code := earlier r.code d.code, corr := r.corr + d.corr
        ecc := firstErr r.ecc d.ecc }
      let c := setPort n { Chip.port c n with rx := some r } c
      match r.kind with
      | .presented (some id) => rxMore k n id r c
      | _ => c
  else c

/-- A frame counted by its first failing cause, or as good (R105, R127). -/
def rxCount (n : Fin 512) (bs : List Byte) (fs : List RxFail) (c : Chip) : Chip :=
  let p := prtPage n
  match fs with
  | f :: _ => Chip.bumpBy (Chip.bump c p f.counter) p 0x278 f.octets
  | [] =>
    Chip.bump (Chip.bump (Chip.bumpBy (Chip.bump c p 0x200) p 0x208 bs.length) p (addrOff 0x210 bs)) p
      (0x2C0 + 8 * sizeBin bs.length)

/-- Do the lanes of a port carry RS-FEC (R83, R93)? -/
def hasFec (c : Chip) (n : Fin 512) : Bool := decide (laneMode c n ≠ 1) && !Chip.fecOff c n

/-- What the health unit and the FEC counters learn of a frame (R93, R404). -/
def rxHealth (k : Clk) (n : Fin 512) (e : RxErrs) (c : Chip) : Chip :=
  let p := prtPage n
  let c := busMet k n 0 e.eccCorr e.ecc c
  if hasFec c n then
    let c := Chip.bumpBy (Chip.bumpBy (Chip.bumpBy c p 0x070 e.fecCw) p 0x078 e.fecCorr) p 0x080 e.fecBad.length
    (e.fecSyms.zipIdx).foldl (fun c s => Chip.bumpBy c (lnePage (Fin.ofNat 512 (n.val + s.2))) 0x070 s.1) c
  else c

/-! PAUSE and priority flow control, received (R118 to R121). -/

/-- PAUSED brought up to date; RX_PAUSED as a class goes to paused (R126). -/
def pauseSync (now : Nat) (n : Fin 512) (c : Chip) : Chip :=
  let p := prtPage n
  let was := Chip.fld c p 0x12C 7 0
  let v := ((List.range 8).map (fun cls => b2n (pausedAt c n cls now) * 2 ^ cls)).sum
  let c := Chip.setFld c p 0x12C 7 0 v
  if (List.range 8).any (fun i => bit v i && !bit was i) then Chip.cause c p 18 else c

/-- A timer loaded, or stopped, in clock `at_` (R119, R120). -/
def loadTimer (n : Fin 512) (timer at_ dur : Nat) (c : Chip) : Chip :=
  let p := Chip.port c n
  let cut := p.pause.filterMap (fun s =>
    if s.timer ≠ timer then some s else if s.start ≥ at_ then none else some { s with stop := min s.stop at_ })
  setPort n { p with pause := cut ++ [⟨timer, at_, at_ + dur⟩] } c

/-- Timers that have run out leave their port (R119, R120). -/
def timerExpiry (k : Clk) (n : Fin 512) (c : Chip) : Chip :=
  let now := Clk.abs k
  let c := creditSync now n c
  let p := Chip.port c n
  pauseSync now n (setPort n { p with pause := p.pause.filter (fun s => decide (now < s.stop)) } c)

/-- The flow-control timers of a port stop (R121). -/
def pauseStop (now : Nat) (n : Fin 512) (c : Chip) : Chip :=
  let c := creditSync now n c
  Chip.setFld (setPort n { Chip.port c n with pause := [] } c) (prtPage n) 0x12C 7 0 0

/-- The multicast address of flow control. -/
def pauseDa : List Byte := [0x01, 0x80, 0xC2, 0x00, 0x00, 0x01]

/-- A MAC control frame that passed every check (R108, R118, R119). -/
def macControl (k : Clk) (n : Fin 512) (bs : List Byte) (c : Chip) : Chip :=
  let p := prtPage n
  let m := Chip.modeAt c n
  let da := slice bs 0 6
  let ours := decide (da = pauseDa) || decide (da = macSa c n)
  let o := typeAt bs + 2
  let op := wireNat bs o 2
  let at_ := Clk.abs k + 4
  if ours && decide (op = 0x0101) && Chip.liveFlag c p 0x118 1 then
    (List.range 8).foldl (fun c i =>
      if bit (wireNat bs (o + 2) 2) i then
        loadTimer n i at_ (quantaClocks m (wireNat bs (o + 4 + 2 * i) 2)) (Chip.bump c p (0x280 + 8 * i))
      else c) c
  else if ours && decide (op = 0x0001) && Chip.liveFlag c p 0x118 0 && !Chip.liveFlag c p 0x118 1 then
    loadTimer n 8 at_ (quantaClocks m (wireNat bs (o + 2) 2)) (Chip.bump c p 0x268)
  else Chip.bump c p 0x270

/-! The wake matcher (R99). -/

/-- Does a frame match wake pattern `r` of its port's PG? -/
def wakeHit (c : Chip) (n : Fin 512) (bs : List Byte) (r : Nat) : Bool :=
  let p := pgrPage (pgOf n)
  let row := Chip.row c p 0 r 0 258
  bit (memNat row 257 1) 0 && bit (memNat row 256 1) (n.val % 8) &&
  (List.range 128).all (fun i =>
    let m := memNat row (128 + i) 1
    if i < bs.length then decide ((memNat bs i 1) &&& m = (memNat row i 1) &&& m) else decide (m = 0))

/-- A good frame on a DORMANT port compared with the patterns (R99, R100), whatever ENABLE of the PGR page is.
Assumption 128 (DESIGN CHOICE, unsafe). -/
def wakeMatch (k : Clk) (n : Fin 512) (bs : List Byte) (c : Chip) : Chip :=
  let p := pgrPage (pgOf n)
  if bs.length < 64 ∨ fcsOk bs = false ∨ Chip.flag c p 0x008 1 = true then c
  else
    let c := meet k 3 (LookupErr.inTables p [0]) c
    match (List.range 8).find? (fun r => wakeHit c n bs r) with
    | none => c
    | some r =>
      let c := Chip.setFld (Chip.setFld c p 0x048 r r 1) p 0x048 18 16 (n.val % 8)
      let c := Chip.bump (Chip.cause c p 10) p 0x050
      if bit (Chip.rowNat c p 0 r 257 1) 1 then
        setPort n { Chip.port c n with resume := true, deadline := k.turn + 1 } (Chip.setFld c (prtPage n) 0x048 0 0 0)
      else c

/-! The end of a received frame. -/

/-- LEN_CHK live. -/
def lenChk (c : Chip) (n : Fin 512) : Bool := Chip.liveFlag c (prtPage n) 0x100 1

/-- A frame held to its end (R107, R108): a failing one is dropped, a MAC control frame is consumed, any other is
presented whole. -/
def rxHeld (k : Clk) (r : RxProg) (n : Fin 512) (bs : List Byte) (e : RxErrs) (c : Chip) : Chip :=
  let fs := rxFails bs e false (maxLen c n) (lenChk c n)
  let c := rxCount n bs fs c
  if !fs.isEmpty then c
  else if wireNat bs (typeAt bs) 2 = 0x8808 then macControl k n bs c
  else if isWitness c n bs then c
  else
    match r.word with
    | some w =>
      let a := present k n w bs false (decide (r.corr + e.eccCorr > 0)) c
      (match a.2 with
       | some id => endFrame k id {} a.1
       | none => a.1)
    | none => c

/-- The end of a frame presented in cut-through (R107): presentation ends at the first failure met. -/
def rxCut (k : Clk) (id : Option Nat) (r : RxProg) (n : Fin 512) (bs : List Byte) (e : RxErrs) (trunc : Bool) (c : Chip) :
    Chip :=
  let q := { c with regs := r.cfg }
  let fs := rxFails bs e trunc (maxLen q n) (lenChk q n)
  let c := rxCount n bs fs c
  match id with
  | none => c
  | some i =>
    let first := firstFail fs
    let upto := match first with | some f => f.at_ | none => bs.length
    match Chip.frame c i with
    | none => c
    | some f =>
      let c := setFrame { f with ecc := f.ecc || decide (e.eccCorr > 0) } c
      let c := moreBytes k i ((bs.take upto).drop f.bytes.length) c
      let c := endFrame k i (failEof first) c
      resumeFrame k i c

/-- The bytes of a frame that its end completes: those given, or the loopback's once the frame has been sent whole. -/
def rxWhole (c : Chip) (n : Fin 512) (have_ rest : List Byte) : Option (List Byte) :=
  match looped c n with
  | some f => if f.done then some f.bytes else none
  | none => if Chip.lpbk c n = 1 then none else some (have_ ++ rest)

/-- The checks of a frame that ends conclude (R105). -/
def rxConclude (k : Clk) (n : Fin 512) (r : RxProg) (bs : List Byte) (e : RxErrs) (c : Chip) : Chip :=
  match r.kind with
  | .presented id => rxCut k id r n bs e false c
  | .held => rxHeld k r n bs e c
  | .drain => c
  | .dormant sleeping =>
    let c := Chip.bump c (prtPage n) 0x088
    if sleeping && decide (Chip.linkState c n = 6) then wakeMatch k n bs c else c
  | .pair =>
    let q := { c with regs := r.cfg }
    let fs := rxFails bs e false (maxLen q n) (lenChk q n)
    let c := rxCount n bs fs c
    if fs.isEmpty && decide (wireNat bs 12 2 ≠ Chip.live c .sag 0x04C 15 0) then Chip.bump c .sag 0x128 else c
  | .early =>
    if Chip.isUp c n then rxCount n bs (rxFails bs e false (maxLen c n) (lenChk c n)) c
    else Chip.bump c (prtPage n) 0x088

/-- A frame's end is received (R105). `rest` are its bytes after those received, the FCS last. With no frame in progress and no
bytes, only codewords have been received (R93). Under remote loopback it is transmitted again (R102).
Assumption 20 (DEDUCED, safe). -/
def rxEnd (k : Clk) (n : Fin 512) (rest : List Byte) (e : RxErrs) (c : Chip) : Chip :=
  if (Chip.port c n).rx.isNone && rest.isEmpty && decide (Chip.lpbk c n ≠ 1) then
    if Chip.modeAt c n ≠ 0 ∧ Chip.linkState c n ≠ 0 then rxHealth k n e c else c
  else if rxOpen c n then
    let c' := if (Chip.port c n).rx.isNone then rxFirst n [] none 0 none c else c
    match (Chip.port c' n).rx with
    | some r =>
      match rxWhole c n r.bytes rest with
      | some bs =>
        let back := Chip.lpbk c n
        let c := setPort n { Chip.port c' n with rx := none } c'
        let c := if back = 2 then Chip.emit c (.relayed n.val bs) else c
        let c := rxConclude k n r bs { e with code := earlier r.code e.code, ecc := firstErr r.ecc e.ecc } (rxHealth k n e c)
        if back = 1 then setPort n { Chip.port c n with loop := (Chip.port c n).loop.drop 1 } c else c
      | none => c
    | none => c
  else c

/-- The receive side of a port that leaves UP (R95): a frame in progress ends with TRUNC, or is dropped. -/
def rxLost (k : Clk) (n : Fin 512) (c : Chip) : Chip :=
  let p := Chip.port c n
  let c := setPort n { p with rx := none, loop := [] } c
  match p.rx with
  | none => c
  | some r =>
    match r.kind with
    | .presented id => rxCut k id r n r.bytes r.errs true c
    | .drain => c
    | .dormant _ => c
    | _ => rxCount n r.bytes (rxFails r.bytes r.errs true (maxLen c n) false) c

/-- A port that leaves DORMANT or WAKING otherwise than to UP: what it was receiving is dropped (R89). -/
def rxDrop (n : Fin 512) (c : Chip) : Chip := setPort n { Chip.port c n with rx := none, loop := [] } c

/-! Flow control sent (R122). -/

/-- The XOFF state in force. -/
def fcState (c : Chip) (n : Fin 512) : Nat :=
  let v := Chip.fld c (prtPage n) 0x128 7 0
  if Chip.liveFlag c (prtPage n) 0x118 2 then v else v % 2

/-- A write of PRT_FC_TX: a change of state wants one frame, and one that takes the change back before that frame starts
does not take the frame back. Assumption 130 (DESIGN CHOICE, unsafe). -/
def fcWrite (n : Fin 512) (v : Nat) (c : Chip) : Chip :=
  let old := fcState c n
  let c := Chip.setFld c (prtPage n) 0x128 7 0 v
  let p := Chip.port c n
  let ch := old ^^^ fcState c n
  if ch = 0 then c else setPort n { p with fcTouch := p.fcTouch ||| ch, fcPend := true } c

/-- The bytes of a flow-control frame: opcode 0x0001 with one time, or 0x0101 with a vector and eight times. -/
def fcBytes (c : Chip) (n : Fin 512) (pfc : Bool) (state vector : Nat) : List Byte :=
  let t := Chip.live c (prtPage n) 0x118 31 16
  let time (i : Nat) : List Byte := beBytes 2 (if bit state i then t else 0)
  let body := if pfc then [0x01, 0x01] ++ beBytes 2 vector ++ (List.range 8).flatMap time else [0x00, 0x01] ++ time 0
  let f := pauseDa ++ macSa c n ++ [0x88, 0x08] ++ body
  f ++ List.replicate (64 - f.length) 0

/-- Frames of a port after those that have passed stage 3. -/
def insertTx (f : TxFrame) : List TxFrame → List TxFrame
  | [] => [f]
  | g :: gs => if g.edited then g :: insertTx f gs else f :: g :: gs

/-- Clock at which a frame that the MAC starts now reaches the transmit words at the earliest: stages 4 to 6 (R125). -/
def macReady (k : Clk) (c : Chip) (n : Fin 512) : Nat := Clk.abs k + txLatency (Chip.modeAt c n) (Chip.fecOff c n) - 13

/-- A frame of the MAC's own, whole, placed behind the frames that have passed stage 3 (R122, R156). -/
def macSend (n : Fin 512) (l : Launch) (stamp : Nat) (f : TxFrame) (c : Chip) : Chip :=
  let p := Chip.port c n
  let m := Chip.modeAt c n
  let f := { f with len := f.bytes.length, edited := true, launch := l.clock m, stamp := stamp, recDone := true, whole := true }
  let c := setLaunch n l (setPort n { p with
    tx := insertTx f p.tx
    free := max p.free (l.lineEnd - wireTime m (f.len + 8)) + wireTime m (f.len + 8 + portIpg c n) } c)
  emitStart n f.bytes stamp c

/-- The MAC starts a wanted flow-control frame at a frame boundary, unless a release copy comes first (R278). -/
def fcSend (k : Clk) (n : Fin 512) (c : Chip) : Chip :=
  let p := Chip.port c n
  let m := Chip.modeAt c n
  let l := place c p n (macReady k c n) 64 0
  if !p.fcPend || !linkOpen c n || isPair c n || decide (Chip.lpbk c n = 2) || fcBehind k c n ||
      doorBlocks k c n none (l.lineEnd + wireTime m (portIpg c n) + 9600) then c
  else
    let pfc := Chip.liveFlag c (prtPage n) 0x118 2
    let st := fcState c n
    let vec := if pfc then st ||| p.fcTouch else 1
    let time := Chip.live c (prtPage n) 0x118 31 16
    let f : TxFrame := {
      kind := .mac (b2n pfc) vec, tag := 0, cls := 0, len := 64, reqAt := Clk.abs k, cfg := some c.regs
      arrived := some (Clk.abs k), bytes := fcBytes c n pfc st vec }
    let next := Clk.abs k + quantaClocks m (Chip.live c (prtPage n) 0x11C 15 0)
    let c := setPort n { p with fcPend := false, fcTouch := 0, fcLast := st, fcNext := next } c
    Chip.setFld (macSend n l 0 f c) (prtPage n) 0x12C 15 8 (if time = 0 then 0 else st)

/-- The refresh interval has passed while a priority is in XOFF: the frame is wanted again. -/
def fcRefresh (k : Clk) (n : Fin 512) (c : Chip) : Chip :=
  let p := Chip.port c n
  if fcState c n ≠ 0 ∧ p.fcNext ≤ Clk.abs k ∧ Chip.isUp c n = true then setPort n { p with fcPend := true } c else c

/-- The port reaches UP: the current state is sent if any priority is in XOFF. -/
def fcUp (n : Fin 512) (c : Chip) : Chip :=
  let p := Chip.port c n
  setPort n { p with fcPend := decide (fcState c n ≠ 0), fcTouch := 0 } c

end Sys2Proof.Machine
end

