-- ==== Sys2Proof/Machine/Links.lean ====
section
/-!
DEFINITION. Breakout, link bring-up and loss, dormant ports, and the clock exports that follow the lanes (R85 to
R100, R145, R146, R375).
-/
namespace Sys2Proof.Machine

/-- The port of the live breakout that a lane belongs to (R85), by its lowest lane. -/
def laneOwner (c : Chip) (l : Fin 512) : Option (Fin 512) :=
  ((List.range (l.val % 8 + 1)).map (fun i => (Fin.ofNat 512 (l.val - i) : Fin 512))).find? (fun n =>
    decide (l.val - n.val < modeLanes (Chip.modeAt c n)))

/-- The lanes of a port of the live breakout. -/
def lanesOf (c : Chip) (n : Fin 512) : List (Fin 512) := portLanes (Chip.modeAt c n) n

/-! The clock exports (R145, R146). -/

/-- One of the squelch causes of export `i` holds. -/
def synceBad (k : Clk) (c : Chip) (i : Nat) : Bool :=
  let o := 0x0F8 + 4 * i
  let lane : Fin 512 := Fin.ofNat 512 (Chip.live c .tim o 24 16)
  let div := Chip.live c .tim o 15 0
  let st := Chip.get c (lnePage lane) 0x044
  !Chip.liveFlag c .tim o 31 || decide (div < 2) || !hasCx c.part (cxOf lane) || !bit st.toNat 1 || !bit st.toNat 2 ||
  decide (Clk.abs k < kvGet 0 c.time.synceHold i) ||
  (match laneOwner c lane with
   | some n =>
     let line := modeLine (Chip.modeAt c n)
     !Chip.isUp c n || decide (line < 100 * div) || decide (31250 * div < line)
   | none => true)

/-- An export squelched at the onset of a cause. -/
def synceCheck1 (k : Clk) (i : Nat) (c : Chip) : Chip :=
  let o := 0x0F8 + 4 * i
  if synceBad k c i && !Chip.flag c .tim o 30 then
    let c := Chip.cause (Chip.setFld c .tim o 30 30 1) .tim 18
    if Chip.liveFlag c .tim o 31 then Chip.bump c .tim 0x190 else c
  else c

def synceCheck (k : Clk) (c : Chip) : Chip := synceCheck1 k 1 (synceCheck1 k 0 c)

/-- A turn boundary after every cause has cleared: the output resumes. -/
def synceResume (k : Clk) (i : Nat) (c : Chip) : Chip :=
  if k.clock = 0 ∧ synceBad k c i = false then Chip.setFld c .tim (0x0F8 + 4 * i) 30 30 0 else c

/-- A commit of the TIM page that changed LANE or DIV holds the export squelched for one turn. -/
def synceCommit (k : Clk) (old : Chip) (c : Chip) : Chip :=
  let hold (i : Nat) (c : Chip) : Chip :=
    let o := 0x0F8 + 4 * i
    if Chip.live old .tim o 24 0 = Chip.live c .tim o 24 0 then c
    else { c with time := { c.time with synceHold := kvPut c.time.synceHold i (Clk.abs k + 1600) } }
  synceCheck k (hold 1 (hold 0 c))

/-! The link state machine (R89 to R92). -/

def setLink (n : Fin 512) (st : Nat) (c : Chip) : Chip := Chip.setFld c (prtPage n) 0x04C 3 0 st

/-- Attempt and back-off timers in turns (R90). -/
def attemptTurns : Nat := 488282
def backoffTurns (step : Nat) : Nat :=
  match step with
  | 1 => 976563
  | 2 => 1953125
  | 3 => 3906250
  | _ => 7812500

/-- A lane loaded with the preset of its rate, or with the one LNE_CTL chooses (R94). -/
def loadPreset (m : Nat) (l : Fin 512) (c : Chip) : Chip :=
  let p := lnePage l
  let sel := Chip.live c p 0x040 15 12
  let v (r : Nat) : BitVec 32 := Config.dfePreset (modeRateCode m) (if sel < 8 then sel else 0) r
  let c := (List.range 4).foldl (fun c j => Chip.put c p (0x050 + 4 * j) (BitVec.ofNat 64 (v j).toNat)) c
  let c := Chip.put c p 0x064 (BitVec.ofNat 64 (v 4).toNat)
  let c := Chip.put c p 0x060 (BitVec.ofNat 64 (min 124 (max 17 ((v 5).toNat % 128))))
  Chip.setFld (Chip.setFld c p 0x044 3 3 0) p 0x044 0 0 0

/-- The state in which an attempt begins (R89): AN, TRAIN or ALIGN. -/
def firstState (c : Chip) (n : Fin 512) : Nat :=
  if Chip.liveFlag c (prtPage n) 0x040 0 then 1 else if Chip.liveFlag c (prtPage n) 0x040 1 then 2 else 3

/-! The lanes of the pair port train and retry each on its own (R375). -/

/-- The pair port and the lane-in-port of it that a position is, while the port runs in pair mode. An event of such a lane
names it as its port. -/
def pairLaneAt (c : Chip) (l : Fin 512) : Option (Fin 512 × Nat) :=
  (laneOwner c l).bind (fun n => if isPair c n then some (n, l.val - n.val) else none)

/-- The link states of a pair port's lanes: the port's own until a lane goes its own way. -/
def laneTries (c : Chip) (n : Fin 512) : List LaneTry :=
  let p := Chip.port c n
  if p.tries.isEmpty then List.replicate 4 ⟨Chip.linkState c n, Chip.fld c (prtPage n) 0x04C 26 24, p.deadline⟩ else p.tries

/-- The link state of one lane of the pair port. -/
def laneTry (c : Chip) (n : Fin 512) (i : Nat) : LaneTry := (laneTries c n).getD i ⟨0, 0, 0⟩

/-- Lanes-in-port of the pair port that are up. -/
def lanesUp (c : Chip) (n : Fin 512) : List Nat := (List.range 4).filter (fun i => decide ((laneTry c n i).st = 4))

/-- The state of a port none of whose lanes is up: that of the lane nearest to UP, BACKOFF after the others. -/
def shownTry (ts : List LaneTry) : Nat :=
  let s := ((ts.map (·.st)).filter (fun s => decide (s < 4))).foldl max 0
  if s = 0 then 5 else s

/-- A lane of the pair port goes to another state. PRT_LINK_STAT shows the greatest back-off step and, while no lane is up,
the state of the lane nearest to UP. Assumption 158 (DESIGN CHOICE, unsafe). -/
def putTry (n : Fin 512) (i : Nat) (t : LaneTry) (c : Chip) : Chip :=
  let ts := (laneTries c n).set i t
  let c := setPort n { Chip.port c n with tries := ts } c
  let c := Chip.setFld c (prtPage n) 0x04C 26 24 ((ts.map (·.step)).foldl max 0)
  if Chip.linkState c n ∈ [1, 2, 3, 5] then setLink n (shownTry ts) c else c

/-- A lane of the pair port starts an attempt (R89). -/
def laneStart (k : Clk) (n : Fin 512) (step i : Nat) (c : Chip) : Chip :=
  let c := loadPreset (Chip.modeAt c n) (Fin.ofNat 512 (n.val + i)) (Chip.bump c (prtPage n) 0x060)
  putTry n i ⟨firstState c n, step, k.turn + attemptTurns⟩ c

/-- A port starts an attempt (R89); the pair port, one on each lane. -/
def startAttempt (k : Clk) (n : Fin 512) (c : Chip) : Chip :=
  let p := prtPage n
  let c := Chip.setFld (setPort n { Chip.port c n with deadline := k.turn + attemptTurns, resume := false } c) p 0x04C 5 5 0
  if isPair c n then
    let ts := laneTries c n
    (List.range 4).foldl (fun c i => laneStart k n (ts.getD i ⟨0, 0, 0⟩).step i c)
      (setLink n 5 (setPort n { Chip.port c n with tries := ts.map (fun t => { t with st := 5 }) } c))
  else
    let c := (lanesOf c n).foldl (fun c l => loadPreset (Chip.modeAt c n) l c) (Chip.bump c p 0x060)
    setLink n (firstState c n) c

/-- LINK_DOWN sets once until the port is next enabled or UP (R91). Assumption 60 (DEDUCED, unsafe). -/
def linkDown (n : Fin 512) (c : Chip) : Chip :=
  let p := Chip.port c n
  if p.downSet then c
  else setPort n { p with downSet := true } (Chip.bump (Chip.cause c (prtPage n) 9) (prtPage n) 0x068)

/-- An attempt fails (R90). -/
def attemptFails (k : Clk) (n : Fin 512) (c : Chip) : Chip :=
  let step := min 4 (Chip.fld c (prtPage n) 0x04C 26 24 + 1)
  let c := linkDown n (Chip.setFld c (prtPage n) 0x04C 26 24 step)
  setLink n 5 (setPort n { Chip.port c n with deadline := k.turn + backoffTurns step } c)

/-- An attempt of a lane of the pair port fails (R90); LINK_DOWN is the port's, while no lane is up (R91). -/
def laneFails (k : Clk) (n : Fin 512) (i : Nat) (c : Chip) : Chip :=
  let step := min 4 ((laneTry c n i).step + 1)
  putTry n i ⟨5, step, k.turn + backoffTurns step⟩ (if Chip.isUp c n then c else linkDown n c)

/-- What leaving UP does to the frames, timers and credits of the port (R95, R121, R123); `st` is the next state. -/
def leaveUp (k : Clk) (n : Fin 512) (st : Nat) (c : Chip) : Chip :=
  let now := Clk.abs k
  let c := setLink n st (creditSync now n c)
  let c := pauseStop now n (txLost k n (rxLost k n c))
  stpStat n (Chip.setFld c (prtPage n) 0x04C 6 6 0)

/-- The onset of received remote fault at a port that is UP (R96). -/
def faultOnset (k : Clk) (n : Fin 512) (c : Chip) : Chip :=
  let p := prtPage n
  let c := creditSync (Clk.abs k) n c
  let c := setPort n { Chip.port c n with faultAt := Clk.abs k } c
  Chip.cause (Chip.bump (Chip.setFld c p 0x04C 6 6 1) p 0x098) p 10

/-- The port stops transmitting remote fault, where it does (R95). -/
def faultTxOff (n : Fin 512) (c : Chip) : Chip :=
  if Chip.flag c (prtPage n) 0x04C 7 then Chip.emit c (.remoteFault n.val false) else c

/-- A lane enters the working link: its lowest figure of merit starts anew, and it adapts (R94, R101). -/
def laneEnter (l : Fin 512) (c : Chip) : Chip :=
  Chip.setFld (Chip.setFld c (lnePage l) 0x048 31 16 0xFFFF) (lnePage l) 0x044 0 0 1

/-- A port reaches UP (R89, R95, R96, R98, R122). -/
def enterUp (k : Clk) (n : Fin 512) (c : Chip) : Chip :=
  let p := prtPage n
  let c := faultTxOff n c
  let c := creditSync (Clk.abs k) n c
  let c := setLink n 4 (Chip.setFld c p 0x04C 7 7 0)
  let c := setPort n { Chip.port c n with downSet := false, resume := false } c
  let c := ((lanesOf c n).filter (fun l => !isPair c n || (lanesUp c n).contains (l.val - n.val))).foldl (fun c l => laneEnter l c) c
  let c := stpStat n (fcUp n c)
  let c := if (Chip.port c n).faultRx then faultOnset k n c else c
  if Chip.flag c p 0x048 0 then leaveUp k n 6 c else c

/-- No skew of the lane has been measured since its port was enabled (R101). -/
def skewClear (l : Fin 512) (c : Chip) : Chip := Chip.setFld c (lnePage l) 0x068 31 31 0

/-- A port's live ENABLE becomes 1: its first attempt (R89, R91, R101). -/
def portEnable (k : Clk) (n : Fin 512) (c : Chip) : Chip :=
  let c := setPort n { Chip.port c n with downSet := false } c
  let c := Chip.setFld (Chip.setFld c (prtPage n) 0x04C 26 24 0) (prtPage n) 0x04C 7 7 0
  startAttempt k n ((lanesOf c n).foldl (fun c l => skewClear l c) c)

/-- A lane powered down: no signal detect, no lock (R59). -/
def lanePowerDown (l : Fin 512) (c : Chip) : Chip :=
  Chip.setFld (Chip.setFld c (lnePage l) 0x044 3 0 0) (lnePage l) 0x048 15 0 0

/-- A port goes to DISABLED: by its disable, or forced by a breakout change (R87, R89, R91). BACKOFF_STEP goes to 0 here
and at an enable. Assumption 127 (DESIGN CHOICE, unsafe). -/
def portStop (k : Clk) (n : Fin 512) (forced : Bool) (c : Chip) : Chip :=
  let c := faultTxOff n c
  let st := Chip.linkState c n
  let c := if st = 4 then leaveUp k n 0 c else rxDrop n c
  let c := if forced && decide (st ∈ [4, 6, 7]) then linkDown n c else c
  let c := Chip.setFld (Chip.setFld (setLink n 0 c) (prtPage n) 0x04C 7 5 0) (prtPage n) 0x04C 26 24 0
  let c := setPort n { Chip.port c n with resume := false, tries := [], faultRx := false } c
  stpStat n ((lanesOf c n).foldl (fun c l => lanePowerDown l c) c)

/-- A commit of a PRT page has changed its live ENABLE (R88, R89). -/
def portCommit (k : Clk) (n : Fin 512) (c : Chip) : Chip :=
  if Chip.modeAt c n = 0 then c
  else
    let en := Chip.enabled c (prtPage n)
    let st := Chip.linkState c n
    if en && decide (st = 0) then portEnable k n c
    else if !en && decide (st ≠ 0) then portStop k n false c
    else c

/-! Breakout (R85, R87). -/

/-- The ports that start in breakout `a` and not, or not with the same mode, in `b`. -/
def brkDiff (g : Fin 64) (a b : Nat) : List (Fin 512) :=
  ((List.range 8).filter (fun i => decide (bits a (4 * i + 3) (4 * i) ≠ 0) &&
    decide (bits a (4 * i + 3) (4 * i) ≠ bits b (4 * i + 3) (4 * i)))).map (fun i => Fin.ofNat 512 (8 * g.val + i))

/-- The mode of the port that a lane belongs to, 0 for none. -/
def ownerMode (c : Chip) (l : Fin 512) : Nat := match laneOwner c l with | some n => Chip.modeAt c n | none => 0

/-- The lanes of a PG go over to their rates under the new breakout (R35, R158). -/
def settleLanes (k : Clk) (g : Fin 64) (old c : Chip) : Chip :=
  (List.range 8).foldl (fun c i =>
    let l : Fin 512 := Fin.ofNat 512 (8 * g.val + i)
    laneSettle (Clk.abs k) l (ownerMode old l) (ownerMode c l) c) c

/-- The new live breakout `new` of PG `g` applied port by port. -/
def brkApply (k : Clk) (g : Fin 64) (new : Word) (c : Chip) : Chip :=
  let p := pgrPage g
  let old := (Chip.getLive c p 0x040).toNat
  let gone := brkDiff g old new.toNat
  let forced := gone.any (fun n => Chip.enabled c (prtPage n))
  let c := gone.foldl (fun c n => portStop k n true c) c
  let c := settleLanes k g c (Chip.putLive (if forced then Chip.cause c p 9 else c) p 0x040 new)
  let fresh := brkDiff g new.toNat old
  let c := fresh.foldl (fun c n => (lanesOf c n).foldl (fun c l => loadPreset (Chip.modeAt c n) l (skewClear l c))
    (depthSync n (stpStat n (setLink n 0 c)))) c
  synceCheck k (fresh.foldl (fun c n => if Chip.enabled c (prtPage n) then portEnable k n c else c) c)

/-! The events of an attempt. -/

/-- Clause 73 completes with the partner's base page `lp` and highest common denominator `hcd` (R89, R102). -/
def anComplete (k : Clk) (n : Fin 512) (lp hcd : Nat) (c : Chip) : Chip :=
  match pairLaneAt c n with
  | some (n, i) =>
    let p := prtPage n
    let t := laneTry c n i
    if t.st ≠ 1 then c
    else
      let c := Chip.put c p 0x058 (BitVec.ofNat 64 (lp % 2 ^ 48))
      if hcd = Chip.modeAt c n then
        putTry n i { t with st := if Chip.liveFlag c p 0x040 1 then 2 else 3 } (Chip.setFld c p 0x04C 5 5 1)
      else laneFails k n i c
  | none =>
  let p := prtPage n
  if Chip.modeAt c n = 0 ∨ Chip.linkState c n ≠ 1 then c
  else
    let c := Chip.put c p 0x058 (BitVec.ofNat 64 (lp % 2 ^ 48))
    if hcd = Chip.modeAt c n then
      setLink n (if Chip.liveFlag c p 0x040 1 then 2 else 3) (Chip.setFld c p 0x04C 5 5 1)
    else attemptFails k n c

/-- Training completes on every lane, each with signal and CDR lock: each is released to continuous adaptation (R89).
Assumption 63 (DEDUCED, unsafe). -/
def trainComplete (n : Fin 512) (c : Chip) : Chip :=
  match pairLaneAt c n with
  | some (m, i) =>
    let t := laneTry c m i
    if t.st ≠ 2 then c else putTry m i { t with st := 3 } (Chip.setFld c (lnePage n) 0x044 2 0 7)
  | none =>
    if Chip.modeAt c n = 0 ∨ Chip.linkState c n ≠ 2 then c
    else setLink n 3 ((lanesOf c n).foldl (fun c l => Chip.setFld c (lnePage l) 0x044 2 0 7) c)

/-- Skew of each lane behind the earliest, in 1/64 UI, and the earliest lane-in-port, the lowest of those equally early.
Assumption 150 (DESIGN CHOICE, unsafe). -/
def relSkews (us : List Nat) : List Nat × Nat :=
  let least := us.foldl min (us.headD 0)
  (us.map (· - least), (us.findIdx? (· = least)).getD 0)

/-- A lane of the pair port has lock (R375): alone on its line it is behind none, and its port is UP with it.
Assumption 62 (DEDUCED, unsafe). -/
def laneLock (k : Clk) (n : Fin 512) (i : Nat) (c : Chip) : Chip :=
  let l : Fin 512 := Fin.ofNat 512 (n.val + i)
  if (laneTry c n i).st ≠ 3 then c
  else
    let c := Chip.put (Chip.setFld c (lnePage l) 0x044 3 1 7) (lnePage l) 0x068 (BitVec.ofNat 64 (2 ^ 31))
    let c := putTry n i ⟨4, 0, 0⟩ c
    if Chip.isUp c n then laneEnter l c else enterUp k n (Chip.cause c (prtPage n) 8)

/-- Every lane has lock (R89, R92): `skews` gives each lane's arrival, in whole UI and 1/64 UI. -/
def alignLock (k : Clk) (n : Fin 512) (skews : List (Nat × Nat)) (c : Chip) : Chip :=
  match pairLaneAt c n with
  | some (n, i) => laneLock k n i c
  | none =>
  let p := prtPage n
  let m := Chip.modeAt c n
  let lanes := lanesOf c n
  if m = 0 ∨ Chip.linkState c n ≠ 3 then c
  else
    let c := lanes.foldl (fun c l => Chip.setFld c (lnePage l) 0x044 3 1 7) c
    let us := lanes.zipIdx.map (fun l => (skews.getD l.2 (0, 0)).1 * 64 + (skews.getD l.2 (0, 0)).2)
    let r := relSkews us
    if r.1.all (fun u => skewOk m u) then
      let c := (lanes.zip r.1).foldl (fun c a =>
        Chip.put c (lnePage a.1) 0x068 (BitVec.ofNat 64 (2 ^ 31 + a.2 % 2 ^ 26))) c
      let c := Chip.setFld (Chip.setFld c (stpPage n) 0x044 7 5 r.2) p 0x04C 26 24 0
      enterUp k n (Chip.cause c p 8)
    else Chip.cause c p 11

/-- The attempt timer expires (R90). -/
def attemptExpiry (k : Clk) (n : Fin 512) (c : Chip) : Chip :=
  match pairLaneAt c n with
  | some (n, i) =>
    let t := laneTry c n i
    if t.st ∈ [1, 2, 3] ∧ t.deadline ≤ k.turn then laneFails k n i c else c
  | none =>
  if Chip.modeAt c n ≠ 0 ∧ Chip.linkState c n ∈ [1, 2, 3] ∧ (Chip.port c n).deadline ≤ k.turn then attemptFails k n c
  else c

/-- The back-off time expires (R90). -/
def backoffExpiry (k : Clk) (n : Fin 512) (c : Chip) : Chip :=
  match pairLaneAt c n with
  | some (n, i) =>
    let t := laneTry c n i
    if t.st = 5 ∧ t.deadline ≤ k.turn then laneStart k n t.step i c else c
  | none =>
  if Chip.modeAt c n ≠ 0 ∧ Chip.linkState c n = 5 ∧ (Chip.port c n).deadline ≤ k.turn then startAttempt k n c else c

/-- RETRY written (R89): at the pair port, for every lane that is not up. -/
def retry (k : Clk) (n : Fin 512) (c : Chip) : Chip :=
  if isPair c n then
    ((List.range 4).filter (fun i => decide ((laneTry c n i).st ∈ [1, 2, 3, 5]))).foldl (fun c i => laneStart k n 0 i c) c
  else if Chip.modeAt c n ≠ 0 ∧ Chip.linkState c n ∈ [1, 2, 3, 5] then
    startAttempt k n (Chip.setFld c (prtPage n) 0x04C 26 24 0)
  else c

/-! Lane loss (R95). -/

/-- A lane loss counted. -/
def countLoss (l : Fin 512) (c : Chip) : Chip := Chip.bump (Chip.cause c (lnePage l) 8) (lnePage l) 0x078

/-- A port that is UP goes down: local fault, frames ended, remote fault sent, LINK_DOWN, a new attempt at once; at the pair
port, of lane-in-port `i`, its last. -/
def portLost (k : Clk) (n : Fin 512) (i : Nat) (c : Chip) : Chip :=
  let c := Chip.emit (leaveUp k n 5 c) (.remoteFault n.val true)
  let c := linkDown n (Chip.setFld c (prtPage n) 0x04C 7 7 1)
  downFlush k n 256 (if isPair c n then laneStart k n 0 i c else startAttempt k n c)

/-- A lane of port `n` is lost. -/
def laneLost (k : Clk) (n l : Fin 512) (c : Chip) : Chip :=
  match Chip.linkState c n with
  | 4 =>
    let i := l.val - n.val
    if isPair c n then
      if !(lanesUp c n).contains i then c
      else
        let c := Chip.cause (Chip.bump (countLoss l c) .sag 0x178) .sag 13
        if (lanesUp c n).length > 1 then laneStart k n 0 i c else portLost k n i c
    else portLost k n i (countLoss l c)
  | 6 => startAttempt k n (linkDown n (rxDrop n (Chip.setFld (countLoss l c) (prtPage n) 0x048 0 0 0)))
  | 7 => startAttempt k n (linkDown n (rxDrop n (Chip.setFld (countLoss l c) (prtPage n) 0x048 0 0 0)))
  | _ => c

/-- Signal detect (0), CDR lock (1) or PCS lock (2) comes on a lane of a live port (R36, R101): it shows, and a lock of the
whole port is ALIGN_LOCK's. Assumption 135 (DESIGN CHOICE, unsafe). -/
def laneRise (l : Fin 512) (which : Fin 3) (c : Chip) : Chip :=
  match laneOwner c l with
  | some _ => Chip.setFld c (lnePage l) 0x044 (which.val + 1) (which.val + 1) 1
  | none => c

/-- Signal detect (0), CDR lock (1) or PCS lock (2) drops on a lane. Assumption 102 (DESIGN CHOICE, unsafe). -/
def laneDrop (k : Clk) (l : Fin 512) (which : Fin 3) (c : Chip) : Chip :=
  let c := Chip.setFld c (lnePage l) 0x044 (which.val + 1) (which.val + 1) 0
  let c := if which = 0 then Chip.setFld c (lnePage l) 0x048 15 0 0 else c
  synceCheck k (match laneOwner c l with
    | some n => laneLost k n l c
    | none => c)

/-- A change of signal detect, CDR lock or PCS lock of a lane (R36, R95). -/
def laneLoss (k : Clk) (l : Fin 512) (which : Fin 3) (rise : Bool) (c : Chip) : Chip :=
  if rise then laneRise l which c else laneDrop k l which c

/-- Remote fault starts being received (R96). -/
def remoteFaultOn (k : Clk) (n : Fin 512) (c : Chip) : Chip :=
  let p := Chip.port c n
  if Chip.modeAt c n = 0 ∨ p.faultRx = true then c
  else
    let c := setPort n { p with faultRx := true } c
    if Chip.isUp c n then faultOnset k n c else c

/-- Remote fault has been absent for its interval (R96): frames resume. -/
def remoteFaultOff (k : Clk) (n : Fin 512) (c : Chip) : Chip :=
  let c := setPort n { Chip.port c n with faultRx := false } c
  if Chip.flag c (prtPage n) 0x04C 6 then
    let c := resumeTx n (Clk.abs k - (Chip.port c n).faultAt) (creditSync (Clk.abs k) n c)
    Chip.setFld c (prtPage n) 0x04C 6 6 0
  else c

/-! Dormant ports (R98, R100). -/

/-- A write of PRT_DORMANT. Assumption 61 (DEDUCED, unsafe). -/
def dormantWrite (k : Clk) (n : Fin 512) (v : Nat) (c : Chip) : Chip :=
  let c := Chip.setFld c (prtPage n) 0x048 0 0 v
  if Chip.modeAt c n = 0 then c
  else if bit v 0 then (if Chip.isUp c n then synceCheck k (leaveUp k n 6 c) else c)
  else if Chip.linkState c n = 6 then setPort n { Chip.port c n with resume := true, deadline := k.turn + 1 } c
  else c

/-- Datapath power-up begins at a turn boundary after the resume. -/
def datapathUp (k : Clk) (n : Fin 512) (c : Chip) : Chip :=
  let p := Chip.port c n
  if Chip.linkState c n = 6 ∧ p.resume = true ∧ p.deadline ≤ k.turn then
    setLink n 7 (setPort n { p with resume := false } c)
  else c

/-- The datapath is powered and restored: the port is UP, with its WAKE cause. -/
def wakeReady (k : Clk) (n : Fin 512) (c : Chip) : Chip :=
  if Chip.linkState c n = 7 then enterUp k n (Chip.cause c (prtPage n) 12) else c

/-! What the status registers read. -/

/-- MODE and CONFIGURED of PRT_LINK_STAT; the link state of an inert page reads 0 (R88). -/
def linkStat (c : Chip) (n : Fin 512) : Nat :=
  let m := Chip.modeAt c n
  let v := (Chip.get c (prtPage n) 0x04C).toNat
  if m = 0 then v % 2 ^ 27 else m * 2 ^ 28 + 2 ^ 27 + v % 2 ^ 27

/-- LNE_STAT: owner, lock, and ADAPTING while adaptation is not held (R94, R101). -/
def laneStat (c : Chip) (l : Fin 512) : Nat :=
  let v := (Chip.get c (lnePage l) 0x044).toNat % 16
  let v := if Chip.flag c (lnePage l) 0x040 2 then v / 2 * 2 else v
  match laneOwner c l with
  | some n => n.val % 256 * 2 ^ 24 + 2 ^ 23 + v
  | none => v

/-- PGR_LANE_STAT (R103). -/
def laneSummary (c : Chip) (g : Fin 64) : Nat :=
  ((List.range 8).map (fun i =>
    match laneOwner c (Fin.ofNat 512 (8 * g.val + i)) with
    | none => 0
    | some n =>
      let st := Chip.linkState c n
      2 ^ i * (1 + b2n (decide (st = 4)) * 2 ^ 8 + b2n (decide (st = 6) || decide (st = 7)) * 2 ^ 16))).sum

end Sys2Proof.Machine
end

