-- ==== Sys2Proof/Machine/TableOps.lean ====
section
/-!
DEFINITION. Table reads, writes and invalidations as table windows and CMD rings perform them, with what each does to
the unit that owns the table (R78 to R82, R249, R256, R262, R263, R374).
-/
namespace Sys2Proof.Machine

/-- Rows that cannot be written (R180): states 1,022 and 1,023 of a parse graph. -/
def rowFixed (p : Page) (r : Nat) : Bool :=
  match p with
  | .cx _ .prs _ => decide (r ≥ 1022)
  | _ => false

/-- Status of a table command before it acts (R82): 0 OK, 1 BAD_TABLE, 2 BAD_ROW, 3 LOCKED. Where several
hold the first is given: assumption 145 (DESIGN CHOICE, unsafe). -/
def tableCheck (c : Chip) (owner : Option Page) (t r : Nat) (write : Bool) : Nat :=
  match owner with
  | none => 1
  | some p =>
    match tableOf c.part p t with
    | none => 1
    | some i =>
      if write && decide (i.mode = .readOnly) then 1
      else if r ≥ i.rows || (write && rowFixed p r) then 2
      else if write && Chip.locked c p then 3
      else 0

/-! Queue entries (R256, R262, R263). -/

/-- What a change of a queue's entry does to its node, its parents and the depths of its ports. -/
def queueChanged (k : Clk) (q : Nat) (before : Chip) (c : Chip) : Chip :=
  let now := Clk.abs k
  let x := nodeCx q
  let s := Chip.schedOf c x
  let fresh := decide (q ∈ s.voided) && qValid c q
  let c := if fresh then freshNode now q (setSched x { s with voided := s.voided.filter (· ≠ q) } c)
    else reshapeChanged now q before c
  let nodes (d : Chip) : List Nat := if qValid d q then [svcNode (qPort d q) (qCls d q), portNode (qPort d q)] else []
  let c := ((nodes c).filter (fun i => !nodeWaits before i && nodeWaits c i)).foldl (fun c i => wakeNode now i c) c
  let c := if !qValid before q && qValid c q && nodeWaits c q then wakeNode now q c else c
  let c := (nodes before).foldl (fun c i => emptied i c) c
  let c := if qValid before q then depthSync (qPort before q) c else c
  if qValid c q then depthSync (qPort c q) c else c

/-- A queue's entry invalidated: a later WRITE of a new one starts the queue afresh. -/
def queueVoided (k : Clk) (q : Nat) (before : Chip) (c : Chip) : Chip :=
  let x := nodeCx q
  let c := queueChanged k q before c
  let s := Chip.schedOf c x
  if q ∈ s.voided then c else setSched x { s with voided := q :: s.voided } c

/-! The three operations. -/

/-- A WRITE begins (R81): a valid entry's valid bit is written to 0, so that lookups miss until the last word is. -/
def tableOpen (p : Page) (t r : Nat) (c : Chip) : Chip :=
  match tableOf c.part p t with
  | some ⟨_, _, .entry b⟩ => clearValid p t r b c
  | _ => c

/-- WRITE of a row (R81), checked by `tableCheck`. -/
def tableWrite (k : Clk) (p : Page) (t r : Nat) (bs : List Byte) (c : Chip) : Chip :=
  match tableOf c.part p t with
  | none => c
  | some i =>
    let bs := slice bs 0 i.bytes
    let c := rewritten p t r c
    match p, t with
    | .cx x .ses _, 0 =>
      let ctl := memNat bs 104 8
      let bs := patch bs 104 (leBytes 8 (setBits ctl 12 11 0))
      let was := bit (sesCtl c x r) 9 && sesValid c x r
      let c := Chip.setRow c p 0 r 0 bs
      if was || bit ctl 9 then markDirty 1 x r c else c
    | .cx x .mtr _, 0 =>
      let m := meterWrite k bs
      let c := Chip.setRow c p 0 r 0 m
      let c := if bit (memNat m 40 1) 0
        then { c with mtrEpoch := kvPut c.mtrEpoch (65536 * x.val + r) (meterEpoch c x r + 1) } else c
      if bit (memNat m 40 1) 4 then markDirty 2 x r c else c
    | .cx x .whl _, 0 => queueChanged k (65536 * x.val + r) c (Chip.setRow c p 0 r 0 bs)
    | .cap, 0 => streamWritten k r (Chip.setRow c p 0 r 0 bs)
    | _, _ => Chip.setRow c p t r 0 bs

/-- INVALIDATE of a row: its valid bit, or all its bytes, become 0 (R81, R196). -/
def tableInvalidate (k : Clk) (p : Page) (t r : Nat) (c : Chip) : Chip :=
  match tableOf c.part p t with
  | some ⟨_, _, .entry b⟩ =>
    let d := clearValid p t r b c
    (match p, t with
     | .cx x .whl _, 0 => queueVoided k (65536 * x.val + r) c d
     | .cx x .ses _, 0 => if sesValid c x r then sesDirty x r d else d
     | .cx x .mtr _, 0 => if bit (Chip.rowNat c p 0 r 40 1) 4 then markDirty 2 x r d else d
     | .cap, 0 => streamDirty r d
     | _, _ => d)
  | some ⟨_, n, .plain⟩ => zeroRow p t r n c
  | _ => c

/-- The bytes a READ returns, with the bytes that are computed: the flags of a node (R285), BOUND of a group (R286).-/
def tableRead (c : Chip) (p : Page) (t r : Nat) : List Byte :=
  match tableOf c.part p t with
  | none => []
  | some i =>
    let bs := Chip.row c p t r 0 i.bytes
    match p, t with
    | .tim, 0 => if c.time.calTorn then (List.range 16).map (fun b => Config.tornStore (16 * r + b)) else bs
    | .cx x .whl _, 1 => patch bs 48 (leBytes 1 (nodeFlags c (65536 * x.val + r)))
    | .cx x .sch n, 0 =>
      let port : Fin 512 := laneOf x n.val
      let ns := (if r < 8 then svcQueues c port r else portQueues c port).flatMap (fun q => noticesOf c q)
      patch (patch (patch bs 32 (leBytes 4 ns.length)) 40 (leBytes 8 (ns.map (·.len)).sum)) 48
        (leBytes 1 (nodeFlags c (if r < 8 then svcNode port r else portNode port)))
    | .cx x .dor _, 0 => patch bs 24 (leBytes 4 (members c (512 * x.val + r)).length)
    | _, _ => bs

/-- An ECC error met as a command reads a row, the operand's or one that stands there (R75, R82, R404): the bytes as read, and
whether the read failed. -/
def readError (k : Clk) (p : Page) (t r : Nat) (e : Option EccErr) (bs : List Byte) (c : Chip) :
    Chip × List Byte × Bool :=
  let s := standing p t r none c
  let c := s.2
  match eccMet (e.or s.1) with
  | none => (c, bs, false)
  | some e =>
    match eccLost e with
    | none => (tableCorr p t r e.synd 1 c, bs, false)
    | some raw => (tableUncorr k p t r e.word e.synd 1 c, patch bs (16 * e.word) (slice raw 0 16), true)

end Sys2Proof.Machine
end

