-- ==== Sys2Proof/Machine/Funcs.lean ====
section
/-!
DEFINITION. Host functions, the start and stop of rings, TX jobs, CMD jobs and host memory errors (R50, R311 to R315,
R327 to R329, R334 to R336, R340).
-/
namespace Sys2Proof.Machine

/-! Starting and stopping rings (R315, R340). -/

/-- The function is enabled and not in the sequence of R312. -/
def funcRuns (c : Chip) (f : Nat) : Bool := decide (f ∈ c.funcOn) && !decide (f ∈ c.funcStop)

/-- A commit of a ring's page with the ring DISABLED (R313, R315). Assumption 64 (DEDUCED, unsafe). -/
def startRing (k : Clk) (r : Nat) (c : Chip) : Chip :=
  let p := dmaPage r
  let o := ringOff r
  let cfg := (Chip.getLive c p (o + 0x10)).toNat
  let kind := bits cfg 30 28
  let size := bits cfg 27 24
  let owner := bits cfg 21 16
  if !bit cfg 31 then c
  else if kind > 5 ∨ size < 6 ∨ size > 16 then
    ringEvent k r owner 5 (leBytes 2 r) (Chip.setFld c p (o + 0x34) 3 3 1)
  else if funcRuns c owner then
    let init := Chip.live c p (o + 0x1C) 31 0
    let g : Ring := {
      kind := kind, size := size, owner := owner
      base := (Chip.getLive c p o).toNat / 4096 * 4096, wb := (Chip.getLive c p (o + 8)).toNat / 8 * 8 }
    let c := setP r init (setC r init (setRing r g c))
    setRingState r 1 (startAck k r init c)
  else c

/-- Is a frame of the ring past stage 3 of its port and not yet ended (R312, R340)? -/
def txInFlight (c : Chip) (r : Nat) : Bool :=
  c.ports.any (fun e => e.2.tx.any (fun f => f.edited && (match f.kind with | .host h => decide (h.ring = r) | _ => false)))

/-- Frames of a ring that have not passed stage 3, or entered a receive bus, are taken back. -/
def txWithdraw (r : Nat) (c : Chip) : Chip :=
  let mine (h : HostFrame) : Bool := decide (h.ring = r)
  { c with
    hostQ := c.hostQ.map (fun e => (e.1, e.2.filter (fun h => !mine h)))
    coreQ := c.coreQ.map (fun e => (e.1, e.2.filter (fun h => !mine h)))
    ports := c.ports.map (fun e => (e.1, { e.2 with
      tx := e.2.tx.filter (fun f => f.edited || (match f.kind with | .host h => !mine h | _ => true)) })) }

/-- A ring enters STOPPING (R340). Assumption 66 (DEDUCED, unsafe). -/
def stopRing (k : Clk) (r : Nat) (why : StopWhy) (c : Chip) : Chip :=
  match Chip.ring c r with
  | none => c
  | some g =>
    if ringState c r = 2 then setRing r { g with why := if why = .owner then some .owner else g.why } c
    else
      let x := ringCx r
      let c := if g.kind = 0 then txWithdraw r c else c
      let c := if g.kind = 4 then withdrawBatch k x g.batch c else c
      let c := if g.kind = 3 ∧ g.fill > 0 then setJrn x (freeRecs r (Chip.jrnOf c x)) c else c
      let c := ringBump r 0x50 (g.rxq.length + g.evs.length) (unloadPush r c)
      let c := if g.kind = 5 then setAck k r (ringP c r) (setC r (ringP c r) c) else c
      let g := match Chip.ring c r with | some h => h | none => g
      setRingState r 2 (setRing r { g with
        why := some why, rxq := [], evs := [], capWait := [], batch := 0, fill := 0, gap := false } c)

/-- Everything outstanding of a ring completed with a status, in ring order, and the index written back (R312, R315). -/
def finishRing (r status : Nat) (c : Chip) : Chip :=
  match Chip.ring c r with
  | none => c
  | some g =>
    let js := g.jobs.map (fun j =>
      if j.res.isSome then j
      else
        let before := ((g.jobs.takeWhile (fun i => decide (i.id ≠ j.id))).map (·.n)).sum
        { j with res := some (((g.ents.drop before).take j.n).map (fun e => plainDone g e status)), held := 0 })
    let c := pushDone r (g.ents.length - jobEnts g) status (setRing r { g with jobs := js } c)
    writeBack r g (settleFrom r (g.jobs.length + 1) c)

/-- The registers of a ring that show its own state: P, C, ACK and DMA_RING_STAT. -/
def ringOwn : List Nat := [0x28, 0x2C, 0x30, 0x34]

/-- A ring's own registers at their reset values. -/
def wipeRing (r : Nat) (c : Chip) : Chip :=
  ringOwn.foldl (fun c o => Chip.put c (dmaPage r) (ringOff r + o) 0) { c with acks := kvErase c.acks r }

/-- The last outstanding entry completes: the ring is DISABLED, or runs again after a RESET (R315). -/
def ringStopped (k : Clk) (r : Nat) (c : Chip) : Chip :=
  match Chip.ring c r with
  | none => c
  | some g =>
    if ringState c r ≠ 2 ∨ txInFlight c r = true then c
    else
      let c := finishRing r (if g.why = some .owner then 7 else 1) c
      if g.why = some .reset ∧ Chip.liveFlag c (dmaPage r) (ringOff r + 0x10) 31 = true then
        let i := ringC c r
        let c := setP r i (setRing r { kind := g.kind, size := g.size, owner := g.owner, base := g.base, wb := g.wb } c)
        setRingState r 1 (startAck k r i c)
      else
        let c := setRingState r 0 { c with rings := kvErase c.rings r }
        if g.wiped then wipeRing r c else c

/-- RESET written (R340). -/
def ringReset (k : Clk) (r : Nat) (c : Chip) : Chip := if ringState c r = 1 then stopRing k r .reset c else c

/-- A commit of a DMA page, for one of its rings (R315). -/
def ringCommit (k : Clk) (r : Nat) (c : Chip) : Chip :=
  let c := ageCommit k r c
  match ringState c r with
  | 0 => startRing k r c
  | 1 => if Chip.liveFlag c (dmaPage r) (ringOff r + 0x10) 31 then c else stopRing k r .disabled c
  | _ => c

/-! Host functions (R311 to R313). -/

/-- Rings owned by a function. -/
def ringsOf (c : Chip) (f : Nat) : List Nat := (c.rings.filter (fun e => decide (e.2.owner = f))).map (·.1)

/-- A write of DMA_FUNC_CTL[f]: ENABLE acts at once (R311 to R313). -/
def funcWrite (k : Clk) (f : Nat) (v : Word) (c : Chip) : Chip :=
  let o := 0x100 + 4 * f
  let c := Chip.put c .func o v
  if bit v.toNat 31 then
    if f ∈ c.funcOn ∨ f ∈ c.funcStop then c else { c with funcOn := f :: c.funcOn }
  else if funcRuns c f then
    ((ringsOf c f).filter (fun r => awake c (ringCx r))).foldl (fun c r => stopRing k r .owner c)
      { c with funcOn := c.funcOn.filter (· ≠ f), funcStop := f :: c.funcStop }
  else c

/-- A check unit reads host memory for a function (R367). -/
def hostScan (c : Chip) (f : Nat) : Bool :=
  c.chk.any (fun e => awake c (Fin.ofNat 2 (e.1 / 4)) &&
    (match e.2.scan with | some s => s.table.isNone && decide (s.fn = f) | none => false))

/-- A function's reads have drained and its entries complete: QUIESCED sets (R312, R313). The rings of a complex that is
gated are left as they are (R355). -/
def funcQuiesced (k : Clk) (f : Nat) (c : Chip) : Chip :=
  let rs := (ringsOf c f).filter (fun r => awake c (ringCx r))
  if f ∈ c.funcStop ∧ rs.any (fun r => txInFlight c r) = false ∧ hostScan c f = false then
    let c := rs.foldl (fun c r => ringStopped k r c) c
    let c := Chip.cause { c with funcStop := c.funcStop.filter (· ≠ f) } .func 8
    if Chip.flag c .func (0x100 + 4 * f) 31 then { c with funcOn := f :: c.funcOn } else c
  else c

/-- A ring's open CMD job waits for the data of its next entry (R335). -/
def cmdDataDue (g : Ring) : Bool :=
  match g.jobs.find? (fun j => j.res.isNone) with
  | some j =>
    let before := ((g.jobs.takeWhile (fun i => decide (i.id ≠ j.id))).map (·.n)).sum
    (match ((g.ents.drop before).take j.n)[g.done.length]? with
     | some (some e) => decide (memNat e 22 1 = 1) || sesEntry e
     | _ => false)
  | none => false

/-- Host memory reads in flight for a ring: one for every sixteen entries not yet fetched, one for the data of a CMD entry
(R48, R316). Assumption 140 (DESIGN CHOICE, safe). -/
def ringReads (g : Ring) : Nat := ceilDiv (g.ents.countP (·.isNone)) 16 + b2n (decide (g.kind = 4) && cmdDataDue g)

/-- DMA_FUNC_STAT[f]: QUIESCED, and the host memory reads in flight of its rings, RUNNING or STOPPING, and of the check
units (R341, R367). -/
def funcStat (c : Chip) (f : Nat) : Nat :=
  let reads := ((c.rings.filter (fun e => decide (e.2.owner = f))).map (fun e => ringReads e.2)).sum
  let scans := c.chk.countP (fun e => match e.2.scan with | some s => s.table.isNone && decide (s.fn = f) | none => false)
  2 ^ 31 * b2n (!decide (f ∈ c.funcOn) && !decide (f ∈ c.funcStop)) + (reads + scans) % 1024

/-! TX jobs (R327 to R329). -/

/-- Bytes of the TX staging store of a complex in use. -/
def txStaged (c : Chip) (x : Cx) : Nat :=
  ((c.rings.filter (fun e => decide (e.1 / 2048 = x.val))).map (fun e => (e.2.jobs.map (·.held)).sum)).sum

/-- A job of the ring waits at its port on a paused class. -/
def txPaused (k : Clk) (c : Chip) (r : Nat) : Bool :=
  c.hostQ.any (fun e => e.2.any (fun h => decide (h.ring = r) && pauseHolds c (Fin.ofNat 512 e.1) h.cls (Clk.abs k)))

/-- The reads of a TX job's data, entry by entry (R328). -/
def txReads (owner : Nat) (es : List (List Byte)) (c : Chip) : Chip :=
  es.foldl (fun c e => hostRead owner (memNat e 0 8) (memNat e 8 2) c) c

/-- The next TX job of a ring is read into the staging store: `data` are the bytes of its frame (R328). -/
def txJobStart (k : Clk) (r : Nat) (data : List Byte) (c : Chip) : Chip :=
  match Chip.ring c r with
  | none => c
  | some g =>
    match readJob 32 (2 ^ g.size) (freeEnts g) with
    | .good m =>
      let es := ((freeEnts g).take m).map (·.getD [])
      let total := (es.map (fun e => memNat e 8 2)).sum
      let e := es.headD []
      let dest := memNat e 12 2
      let port : Fin 512 := Fin.ofNat 512 dest
      let core := bit dest 15
      let cls := memNat e 14 1
      let q := kvGet [] c.hostQ port.val
      let full := !core && decide (q.length ≥ 16)
      if ringState c r ≠ 1 ∨ g.kind ≠ 0 ∨ Chip.accepting c (dmaPage r) = false ∨ jobOk c r g m = false ∨
          txStaged c (ringCx r) + total > 524288 ∨ full = true ∨ txPaused k c r = true then c
      else if !core && (!Chip.isUp c port || portQuiesce c port) then
        ringScan k r (settle r (pushDone r m 5 c))
      else
        let h : HostFrame := {
          ring := r, job := g.jobNo, fn := g.owner, cls := cls, bytes := slice data 0 total
          ref := if bit (memNat e 15 1) 1 then some (memNat e 16 8) else none }
        let c := txReads g.owner es c
        let c := setRing r { g with
          jobs := g.jobs ++ [⟨g.jobNo, ix (ringC c r + jobEnts g), m, total, none, false⟩], jobNo := g.jobNo + 1 } c
        ringScan k r (if core then { c with coreQ := kvPut c.coreQ (dest % 64) (kvGet [] c.coreQ (dest % 64) ++ [h]) }
          else { c with hostQ := kvPut c.hostQ port.val (q ++ [h]) })
    | _ => c

/-- The frame of a core job as it enters the dispatch queue (R156, R195, R328). Assumption 69 (DEDUCED, unsafe). -/
def coreFrame (k : Clk) (c : Chip) (pg : Fin 64) (h : HostFrame) : Frame :=
  let d := (Chip.getLive c (bsqPage pg) 0x070).toNat
  let body := h.bytes ++ List.replicate (60 - h.bytes.length) 0
  { id := 0, port := 8 * pg.val, pg := pg.val, host := some (h.ring, h.fn), sequ := 8, rank := 0, since := Clk.abs k
    bytes := withFcs (body ++ [0, 0, 0, 0]) false, cut := false, stamp := Clk.stamp k, cfg := c.regs, cls := bits d 27 24
    queue := bits d 15 0 + bits d 16 16 * 65536, unlocked := decide (Chip.timeState c ≠ 2) }

/-- A core job's frame enters its PG's dispatch queue in free segments, while the queue has room (R22, R176, R328): one
that finds no place is discarded and counted at admission (R197). Its job completes with the ingress stamp as its last
segment has entered the bus (R329). -/
def coreInject (k : Clk) (pg : Fin 64) (c : Chip) : Chip :=
  match kvGet [] c.coreQ pg.val with
  | [] => c
  | h :: rest =>
    if queueLen c pg.val ≥ 8 ∨ busFree c pg.val = false then c
    else
      let f := coreFrame k c pg h
      let r := admitFrame k f (busExtra pg.val none (ceilDiv f.bytes.length 64) c)
      let c := { r.1 with coreQ := kvPut r.1.coreQ pg.val rest }
      txComplete h 0 f.stamp (match r.2 with | some id => endFrame k id {} c | none => c)

/-! CMD jobs (R334 to R337). -/

/-- The next entry of the open CMD job of a RUNNING ring, its ring and its job. -/
def cmdNext (c : Chip) (r : Nat) : Option (Ring × RJob × List Byte) :=
  match Chip.ring c r with
  | none => none
  | some g =>
    if ringState c r ≠ 1 ∨ g.kind ≠ 4 then none
    else
      match g.jobs.find? (fun j => j.res.isNone && !j.lost) with
      | none => none
      | some j => ((jobEntries g j.id)[g.done.length]?).map (fun e => (g, j, e))

/-- The owner that an entry names (R334). -/
def cmdOwner (c : Chip) (r : Nat) (e : List Byte) : Option Page :=
  let w := memNat e 14 2
  ownerPage c.part (ringCx r) (memNat e 12 1) (w % 2 ^ 14) (bit w 15)

/-- The completion of a CMD entry (R336). -/
def cmdDoneEntry (e : List Byte) (result status : Nat) : List Byte :=
  let cw := memNat e 28 4
  leBytes 4 result ++ List.replicate 20 0 ++ slice e 24 4 ++ ctrlWord (bit cw 30) (bit cw 29) false status

/-- The completions of a job whose batch failed: 1, its inserts and deletes are rejected; 2, all its entries are bad
(R237). -/
def cmdVerdict (fail : Nat) (es done : List (List Byte)) : List (List Byte) :=
  (es.zip done).map (fun x =>
    let op := memNat x.1 22 1
    if fail = 2 then cmdDoneEntry x.1 0 2
    else if fail = 1 ∧ (op = 4 ∨ op = 5) ∧ memNat x.2 28 1 = 0 then cmdDoneEntry x.1 0 9
    else x.2)

/-- An entry of the open job done; after the LAST one its batch commits and the job completes (R236, R336). -/
def cmdStep (k : Clk) (r : Nat) (result status : Nat) (c : Chip) : Chip :=
  match cmdNext c r with
  | none => c
  | some (g, j, e) =>
    let done := g.done ++ [cmdDoneEntry e result status]
    let c := setRing r { g with done := done } c
    if done.length < j.n then c
    else
      let ok (op : Nat) : Nat := ((jobEntries g j.id).zip done).countP (fun b =>
        decide (memNat b.1 22 1 = op) && decide (memNat b.2 28 1 = 0))
      let c := if g.fail = 0 then commitBatch (ringCx r) g.batch (ok 4) (ok 5) c else c
      let c := setRing r { g with done := [], batch := 0, fail := 0 } c
      let bad := g.fail = 2 ∨ done.any (fun b => decide (memNat b 28 1 = 2)) = true
      let c := if bad then
          badEvent k r g.owner j.idx c
        else c
      ringScan k r (jobDone r j.id (cmdVerdict g.fail (jobEntries g j.id) done) c)

/-- A job's batch withdrawn at once, as it fails (R237). -/
def cmdFail (k : Clk) (r fail : Nat) (c : Chip) : Chip :=
  match Chip.ring c r with
  | none => c
  | some g =>
    let c := withdrawBatch k (ringCx r) g.batch c
    match Chip.ring c r with
    | some g => setRing r { g with batch := 0, fail := max fail g.fail } c
    | none => c

/-- Is the entry a session operation of number `op` that names the session table of the ring's complex? -/
def sesOwnerOk (c : Chip) (r : Nat) (e : List Byte) : Bool :=
  decide (cmdOwner c r e = some (sesPage (ringCx r))) && decide (memNat e 13 1 = 0)

/-- The keys that a job's INSERTs and DELETEs from the current entry on name: operation, key and profile. `blocks` are
the data blocks of its session entries from there on, in ring order. -/
def jobKeys (c : Chip) (r : Nat) (g : Ring) (j : RJob) (blocks : List (List Byte)) : List (Nat × List Byte × Nat) :=
  let es := ((jobEntries g j.id).drop g.done.length).filter sesEntry
  ((es.zip blocks).filter (fun b => cmdEntryOk b.1 && decide (memNat b.1 22 1 ≤ 5) && sesOwnerOk c r b.1 &&
    decide (memNat b.1 8 4 = 64) && decide (memNat (slice b.2 0 64) 60 4 = 0))).map
    (fun b => (memNat b.1 22 1, slice b.2 0 40, bits (memNat (slice b.2 0 64) 48 8) 3 1))

/-- Does a job both insert and delete one key (R237)? -/
def jobClash (ks : List (Nat × List Byte × Nat)) : Bool :=
  ks.any (fun a => decide (a.1 = 4) && ks.any (fun b => decide (b.1 = 5) && decide (a.2 = b.2)))

/-- The malformed entries that stand next in the open job of a session batch complete, at most `n` of them; an INSERT or
DELETE among them fails the batch (R237, R323, R336). -/
def cmdSkipFrom (k : Clk) (r : Nat) : Nat → Chip → Chip
  | 0, c => c
  | n + 1, c =>
    match cmdNext c r with
    | some (_, _, e) =>
      if cmdEntryOk e then c
      else
        let op := memNat e 22 1
        cmdSkipFrom k r n (cmdStep k r 0 2 (if op = 4 ∨ op = 5 then cmdFail k r 1 c else c))
    | none => c

def cmdSkip (k : Clk) (r : Nat) (c : Chip) : Chip :=
  match cmdNext c r with
  | some (_, j, _) => cmdSkipFrom k r j.n c
  | none => c

/-- Before the first entry of a job that is carried out: a job that inserts and deletes one key changes nothing (R237).
`blocks` are the data blocks of the job's session entries from its next entry on. Assumption 113 (DEDUCED, unsafe). -/
def cmdOpen (k : Clk) (r : Nat) (blocks : List (List Byte)) (c : Chip) : Chip :=
  match cmdNext c r with
  | some (g, j, _) =>
    let before := (jobEntries g j.id).take g.done.length
    if before.all (fun e => !cmdEntryOk e) && jobClash (jobKeys c r g j blocks) then cmdFail k r 2 c else c
  | none => c

/-- A CMD entry carried out: the malformed entries around it complete, and the job's keys are looked at first. -/
def cmdRun (k : Clk) (r : Nat) (blocks : List (List Byte)) (f : Chip → Chip) (c : Chip) : Chip :=
  cmdSkip k r (f (cmdOpen k r blocks (cmdSkip k r c)))

/-- Rows written or invalidated one by one until one is refused: rows done and the status of the refusal (R335). -/
def cmdRows (c : Chip) (owner : Option Page) (t : Nat) (f : Page → Nat → Nat → Chip → Chip) :
    Nat → Nat → Nat → Chip × Nat × Nat
  | 0, _, i => (c, i, 0)
  | n + 1, row, i =>
    match tableCheck c owner t row true, owner with
    | 0, some p => cmdRows (f p row i c) owner t f n (row + 1) (i + 1)
    | s, _ => (c, i, s)

/-- The completion status of a table status (R336): BAD_TABLE and BAD_ROW are BAD_ENTRY, LOCKED is TABLE_REJECT. -/
def cmdStatus (s : Nat) : Nat := if s = 0 then 0 else if s ≤ 2 then 2 else 9

/-- Bytes of an entry of a table, 0 where there is none. -/
def entryBytes (c : Chip) (owner : Option Page) (t : Nat) : Nat :=
  match owner.bind (fun p => tableOf c.part p t) with
  | some i => i.bytes
  | none => 0

/-- The open job of a ring inserts and deletes one key: its entries change nothing (R237). -/
def jobBad (c : Chip) (r : Nat) : Bool := match Chip.ring c r with | some g => decide (g.fail = 2) | none => false

/-- CMD WRITE of COUNT rows; `data` are the bytes at ADDR (R335). -/
def cmdWrite (k : Clk) (r : Nat) (data : List Byte) (c : Chip) : Chip :=
  match cmdNext c r with
  | none => c
  | some (g, _, e) =>
    if memNat e 22 1 ≠ 1 then c
    else if jobBad c r then cmdStep k r 0 2 c
    else
      let t := memNat e 13 1
      let n := memNat e 20 2
      let owner := cmdOwner c r e
      let w := entryBytes c owner t
      if w = 0 ∨ memNat e 8 4 ≠ n * w then cmdStep k r 0 2 c
      else
        let c := hostRead g.owner (memNat e 0 8) (n * w) c
        let a := cmdRows c owner t (fun p row i c => tableWrite k p t row (slice data (w * i) w) c) n (memNat e 16 3) 0
        cmdStep k r a.2.1 (cmdStatus a.2.2) a.1

/-- CMD INVALIDATE of COUNT rows (R335). -/
def cmdInvalidate (k : Clk) (r : Nat) (c : Chip) : Chip :=
  match cmdNext c r with
  | none => c
  | some (_, _, e) =>
    if memNat e 22 1 ≠ 2 then c
    else if jobBad c r then cmdStep k r 0 2 c
    else
      let t := memNat e 13 1
      let a := cmdRows c (cmdOwner c r e) t (fun p row _ c => tableInvalidate k p t row c) (memNat e 20 2) (memNat e 16 3) 0
      cmdStep k r a.2.1 (cmdStatus a.2.2) a.1

/-- Rows read one by one: the bytes, the rows done, and the completion status; `errs` are the ECC errors met, by row
number (R336). -/
def cmdReadRows (k : Clk) (owner : Option Page) (t : Nat) (errs : List (Nat × EccErr)) :
    Nat → Nat → Chip → List Byte → Nat → Chip × List Byte × Nat × Nat
  | 0, _, c, acc, i => (c, acc, i, 0)
  | n + 1, row, c, acc, i =>
    match tableCheck c owner t row false, owner with
    | 0, some p =>
      let a := readError k p t row (kvFind errs row) (tableRead c p t row) c
      if a.2.2 then (a.1, acc, i, 9) else cmdReadRows k owner t errs n (row + 1) a.1 (acc ++ a.2.1) (i + 1)
    | s, _ => (c, acc, i, cmdStatus s)

/-- CMD READ of COUNT rows (R335, R336). -/
def cmdRead (k : Clk) (r : Nat) (errs : List (Nat × EccErr)) (c : Chip) : Chip :=
  match cmdNext c r with
  | none => c
  | some (g, _, e) =>
    if memNat e 22 1 ≠ 3 then c
    else if jobBad c r then cmdStep k r 0 2 c
    else
      let t := memNat e 13 1
      let n := memNat e 20 2
      let owner := cmdOwner c r e
      let w := entryBytes c owner t
      if w = 0 then cmdStep k r 0 2 c
      else if memNat e 8 4 < n * w then cmdStep k r 0 3 c
      else
        let a := cmdReadRows k owner t errs n (memNat e 16 3) c [] 0
        cmdStep k r a.2.2.1 a.2.2.2 (hostWrite g.owner (memNat e 0 8) a.2.1 a.1)

/-- The operands in a session data block of 64 bytes (R335). -/
def blockOp (op : Nat) (evictOk : Bool) (d : List Byte) : KeyOp :=
  let ctl := memNat d 48 8
  { op := op, key := slice d 0 40, profile := bits ctl 3 1, ctrl := ctl, seq := memNat d 40 8, meter := memNat d 56 2
    stream := memNat d 58 2, evict := evictOk }

/-- Result word of a session operation (R336). -/
def rowResult (row : Option Nat) : Nat := match row with | some i => 2 ^ 31 + i | none => 0

/-- A job's batch: taken with its first session entry (R236). None while it waits: all three numbers are in use, or the
engine takes no new job (R238). -/
def sesBatch (r : Nat) (g : Ring) (c : Chip) : Option Chip :=
  if g.batch ≠ 0 ∨ g.fail > 0 then some c
  else if engineHeld c (ringCx r) then none
  else
    let b := takeBatch (ringCx r) c
    b.2.map (fun n => setRing r { g with batch := n } b.1)

/-- INSERT or DELETE of a job's batch (R236, R237, R336). -/
def sesChange (k : Clk) (r : Nat) (op : Nat) (data : List Byte) (c : Chip) : Chip :=
  match cmdNext c r with
  | none => c
  | some (g, _, e) =>
    let x := ringCx r
    let d := slice data 0 64
    let o := blockOp (op - 3) (bit (memNat e 23 1) 0) d
    if memNat e 22 1 ≠ op then c
    else if !sesOwnerOk c r e || decide (memNat e 8 4 ≠ 64) || decide (memNat d 60 4 ≠ 0) then
      cmdStep k r 0 2 (cmdFail k r 1 c)
    else
      match sesBatch r g (hostRead g.owner (memNat e 0 8) 64 c) with
      | none => c
      | some c =>
        let h := (Chip.ring c r).getD g
        let c := kopMeet k 1 x o c
        let both := match findKey c x o.key o.profile with
          | some i => decide (bits (sesCtl c x i) 12 11 = h.batch) && (decide (op = 5) != bit (sesCtl c x i) 13)
          | none => false
        if h.fail = 2 then cmdStep k r 0 2 c
        else if h.fail > 0 then cmdStep k r 0 9 c
        else if Chip.locked c (sesPage x) then cmdStep k r 0 9 (cmdFail k r 1 c)
        else if both then cmdStep k r 0 2 (cmdFail k r 2 c)
        else
          let a := if op = 4 then kopInsert k x o h.batch c else kopDelete x o h.batch c
          if a.2.1 = 0 then cmdStep k r (rowResult a.2.2) 0 a.1 else cmdStep k r 0 9 (cmdFail k r 1 a.1)

/-- FIND and UPDATE act at once (R236): FIND writes the row found to ADDR. Assumption 67 (DEDUCED, unsafe). -/
def sesDirect (k : Clk) (r : Nat) (op : Nat) (data : List Byte) (c : Chip) : Chip :=
  match cmdNext c r with
  | none => c
  | some (g, _, e) =>
    let x := ringCx r
    let d := slice data 0 64
    let o := blockOp (if op = 6 then 3 else 4) false d
    let len := memNat e 8 4
    if memNat e 22 1 ≠ op then c
    else if !sesOwnerOk c r e then cmdStep k r 0 2 c
    else if op = 6 ∧ len < 4 then cmdStep k r 0 3 c
    else if len ≠ 64 ∨ memNat d 60 4 ≠ 0 then cmdStep k r 0 2 c
    else
      match sesBatch r g (hostRead g.owner (memNat e 0 8) 64 c) with
      | none => c
      | some c =>
        if jobBad c r then cmdStep k r 0 2 c
        else if op = 7 ∧ Chip.locked c (sesPage x) = true then cmdStep k r 0 9 c
        else
          let c := kopMeet k 1 x o c
          let a := if op = 6 then kopFind x o c else kopUpdate x o c
          if a.2.1 = 0 then
            let c := if op = 6 then hostWrite g.owner (memNat e 0 8) (leBytes 4 (rowResult a.2.2)) a.1 else a.1
            cmdStep k r (rowResult a.2.2) 0 c
          else cmdStep k r 0 9 a.1

/-- CMD SWAP: waits while DRAINING is 1, then writes SLC_GEN_NEXT and SWAP (R185, R335). -/
def cmdSwap (k : Clk) (r : Nat) (c : Chip) : Chip :=
  match cmdNext c r with
  | none => c
  | some (_, _, e) =>
    if memNat e 22 1 ≠ 8 then c
    else if jobBad c r then cmdStep k r 0 2 c
    else
      match cmdOwner c r e with
      | some (.cx x .slc i) =>
        let p : Page := .cx x .slc i
        if Chip.flag c p 0x050 31 then c
        else
          let lock := Chip.locked c p
          let c := if lock then c else Chip.put c p 0x040 (BitVec.ofNat 64 (memNat e 16 4 &&& 0xFFFF03FF))
          let a := swapCmd k (Fin.ofNat 8 (4 * x.val + i.val)) lock c
          cmdStep k r 0 (if a.2 then 0 else 9) a.1
      | _ => cmdStep k r 0 2 c

/-! Host memory errors (R50, R338). -/

/-- One error counted in CPX_HOST_ERR_CNT: 0 read error status, 1 completion timeout, 2 undeliverable write. -/
def countHostErr (x : Cx) (which : Nat) (c : Chip) : Chip :=
  let p := onePage x .cpx
  match which with
  | 0 => Chip.setFld c p 0x110 31 0 (satAdd 0xFFFFFFFF (Chip.fld c p 0x110 31 0) 1)
  | 1 => Chip.setFld c p 0x110 47 32 (satAdd 0xFFFF (Chip.fld c p 0x110 47 32) 1)
  | _ => Chip.setFld c p 0x110 63 48 (satAdd 0xFFFF (Chip.fld c p 0x110 63 48) 1)

/-- The DMA_ERROR event of a ring (R338). -/
def dmaErrorEvent (k : Clk) (r cause index : Nat) (c : Chip) : Chip :=
  match Chip.ring c r with
  | some g => ringEvent k r g.owner 3 (leBytes 2 r ++ leBytes 1 cause ++ [0] ++ leBytes 4 (ix index)) c
  | none => c

/-- The first `n` entries not fetched marked as lost to a read error. -/
def loseEnts : Nat → List (Option (List Byte)) → List (Option (List Byte))
  | _, [] => []
  | 0, es => es
  | n + 1, none :: es => some [] :: loseEnts n es
  | n + 1, some e :: es => some e :: loseEnts (n + 1) es

/-- A fetch of `n` entries of a ring failed. -/
def fetchError (k : Clk) (r n : Nat) (timeout : Bool) (c : Chip) : Chip :=
  let c := countHostErr (ringCx r) (b2n timeout) c
  match Chip.ring c r with
  | none => c
  | some g =>
    if ringState c r ≠ 1 ∨ g.ents.all (·.isSome) = true then c
    else
      let i := (g.ents.findIdx? (·.isNone)).getD 0
      let c := fetchReads r n g c
      let c := dmaErrorEvent k r (1 + b2n timeout) (ringC c r + i) c
      ringScan k r (setRing r { g with ents := loseEnts (min n 16) g.ents } c)

/-- The read of the current CMD entry's data failed: it completes DMA_ERROR, and the job's batch is withdrawn (R50, R336). -/
def cmdDataError (k : Clk) (r : Nat) (timeout : Bool) (c : Chip) : Chip :=
  match cmdNext c r with
  | none => c
  | some (g, j, e) =>
    if memNat e 22 1 ≠ 1 ∧ sesEntry e = false then c
    else
      let c := hostRead g.owner (memNat e 0 8) (memNat e 8 4) c
      cmdStep k r 0 6 (cmdFail k r 1 (dmaErrorEvent k r (1 + b2n timeout) (j.idx + g.done.length) c))

/-- A read of the data of the next TX job, or of the current CMD entry, failed (R50, R336). -/
def dataError (k : Clk) (r : Nat) (timeout : Bool) (c : Chip) : Chip :=
  let c := countHostErr (ringCx r) (b2n timeout) c
  match Chip.ring c r with
  | none => c
  | some g =>
    if ringState c r ≠ 1 then c
    else if g.kind = 0 then
      match readJob 32 (2 ^ g.size) (freeEnts g) with
      | .good m =>
        let c := txReads g.owner (((freeEnts g).take m).map (·.getD [])) c
        ringScan k r (settle r (pushDone r m 6 (dmaErrorEvent k r (1 + b2n timeout) (ringC c r + jobEnts g) c)))
      | _ => c
    else cmdRun k r [] (cmdDataError k r timeout) c

/-- An undeliverable write, for an entry of a ring where the endpoint names one. -/
def writeError (k : Clk) (x : Cx) (about : Option (Nat × Nat)) (c : Chip) : Chip :=
  let c := countHostErr x 2 c
  match about with
  | some (r, i) => dmaErrorEvent k r 3 i c
  | none => c

end Sys2Proof.Machine
end

