-- ==== Sys2Proof/Machine/Icu.lean ====
section
/-!
DEFINITION. The interrupt controller and the Pilot (R53, R343 to R361), and a complex in STANDBY (R355, R359).
-/
namespace Sys2Proof.Machine

/-! Levels of the sources (R343, R344). -/

/-- A page requests an interrupt (R69); a page the part lacks never does. -/
def pageRequest (c : Chip) (p : Page) : Bool :=
  Page.present c.part p && decide (Chip.get c p 0x010 &&& Chip.get c p 0x014 ≠ 0)

/-- Request of a page with some causes left out, as they drive sources of their own. -/
def requestLess (c : Chip) (p : Page) (not : Word) : Bool :=
  Page.present c.part p && decide (Chip.get c p 0x010 &&& Chip.get c p 0x014 &&& ~~~not ≠ 0)

/-- One of the causes of a mask is set. -/
def causeSet (c : Chip) (p : Page) (mask : Word) : Bool :=
  Page.present c.part p && decide (Chip.get c p 0x010 &&& mask ≠ 0)

/-- FAULT is set in some page of the complex. -/
def cxFault (c : Chip) (x : Cx) : Bool :=
  c.regs.any (fun e => decide (cxBase x ≤ e.1) && decide (e.1 < cxBase x + 0x1000000) && decide (e.1 % 0x1000 = 0x00C) &&
    bit e.2.toNat 2)

/-- TAKEOVER, LEASE_LOST, DUAL and PARTNER_LOST; WIT_FAIL (R400). -/
def sagLease : Word := 0x8700
def sagWitness : Word := 0x0800
/-- TIME_LOST (R143). -/
def timeLost : Word := 0x0100

/-- Level of the source of a PG (R103, R343); in STANDBY it follows WAKE alone (R355). -/
def pgLevel (c : Chip) (g : Fin 64) : Bool :=
  let x : Cx := Fin.ofNat 2 (g.val / 32)
  let p := pgrPage g
  if x ∈ c.standby then decide (Chip.get c p 0x010 &&& Chip.get c p 0x014 &&& 0x400 ≠ 0)
  else pageRequest c p || pageRequest c (bsqPage g) || (List.range 8).any (fun i =>
    let n : Fin 512 := Fin.ofNat 512 (8 * g.val + i)
    pageRequest c (prtPage n) || pageRequest c (lnePage n) || pageRequest c (stpPage n) || pageRequest c (schPage n))

/-- The level of a source now. Assumption 97 (DEDUCED, safe). -/
def sourceLevel (c : Chip) (n : Nat) : Bool :=
  let on (x : Nat) (f : Cx → Bool) : Bool := awake c (Fin.ofNat 2 x) && f (Fin.ofNat 2 x)
  if n = 1 then causeSet c .sag sagLease
  else if n = 2 then causeSet c .sag sagWitness
  else if n = 3 ∨ n = 4 then on (n - 3) (cxFault c)
  else if n = 5 then causeSet c .tim timeLost
  else if n = 6 ∨ n = 7 then on (n - 6) (fun x => Chip.flag c (onePage x .cpx) 0x18C 0)
  else if 16 ≤ n ∧ n < 80 then
    hasCx c.part (Fin.ofNat 2 ((n - 16) / 32)) && pgLevel c (Fin.ofNat 64 (n - 16))
  else if 80 ≤ n ∧ n < 88 then
    let s : Fin 8 := Fin.ofNat 8 (n - 80)
    on (s.val / 4) (fun _ => pageRequest c (slcPage s) || pageRequest c (prsPage s) || pageRequest c (glzPage s))
  else if n = 88 ∨ n = 90 then
    on ((n - 88) / 2) (fun x => [CxType.cpx, .ses, .mtr, .whl, .dor, .tel].any (fun t => pageRequest c (onePage x t)))
  else if n = 89 ∨ n = 91 then
    on ((n - 89) / 2) (fun x => (List.range 256).any (fun i => pageRequest c (.cx x .dma (Fin.ofNat 256 i))))
  else if n = 92 then pageRequest c .cap || pageRequest c .icu
  else if n = 93 then pageRequest c .func
  else if n = 94 then requestLess c .sag (sagLease ||| sagWitness)
  else if n = 95 then requestLess c .tim timeLost
  else if n = 96 ∨ n = 97 then on (n - 96) (fun x => pageRequest c (onePage x .jrn))
  else if n = 98 then pageRequest c .sel
  else if 128 ≤ n ∧ n < 136 then on ((n - 128) / 4) (fun x => pageRequest c (.cx x .chk (Fin.ofNat 256 ((n - 128) % 4))))
  else if n = 136 ∨ n = 137 then on (n - 136) (fun x => pageRequest c (onePage x .swp))
  else if n = 138 ∨ n = 139 then on (n - 138) (fun x => pageRequest c (onePage x .hlt))
  else if n = 140 ∨ n = 141 then on (n - 140) (fun x => pageRequest c (onePage x .log))
  else if n = 142 then pageRequest c .pil
  else if 512 ≤ n ∧ n < 1024 then
    c.regs.any (fun e => match ringOfCfg e.1 with
      | some r => awake c (ringCx r) && decide (Chip.live c (dmaPage r) (ringOff r + 0x10) 8 0 = n - 512) && notifyHolds c r
      | none => false)
  else false

/-- A number put into a rising list of numbers, or taken out. -/
def insertNat (n : Nat) : List Nat → List Nat
  | [] => [n]
  | a :: as => if n < a then n :: a :: as else if n = a then a :: as else a :: insertNat n as

def setLevel (n : Nat) (high : Bool) (l : List Nat) : List Nat := if high then insertNat n l else l.filter (· ≠ n)

def setIcu (i : IcuSt) (c : Chip) : Chip := { c with icu := i }

/-- A source's level as it reaches the controller (R344, R345, R350). -/
def sampleSource (n : Nat) (c : Chip) : Chip :=
  if n = 0 then c
  else
    let high := sourceLevel c n
    let cl := c.icu.claims.map (fun e =>
      if e.2.source = n && !high && !e.2.wrote then (e.1, { e.2 with low := true }) else e)
    setIcu { c.icu with level := setLevel n high c.icu.level, claims := cl } c

/-- A level change that reaches the controller in this clock: a claim read of the clock does not count it (R348). -/
def levelChange (k : Clk) (n : Nat) (c : Chip) : Chip :=
  if n = 0 then c
  else
    let now := Clk.abs k
    let seen := match c.icu.was with
      | some (t, l) => if t = now then l else c.icu.level
      | none => c.icu.level
    sampleSource n (setIcu { c.icu with was := some (now, seen) } c)

/-- The chip as a claim read sees it: the levels are those before the changes of this clock (R348). -/
def claimView (k : Clk) (c : Chip) : Chip :=
  match c.icu.was with
  | some (t, l) => if t = Clk.abs k then setIcu { c.icu with level := l } c else c
  | none => c

/-- A source is claimed by some target. -/
def isClaimed (c : Chip) (n : Nat) : Bool := c.icu.claims.any (fun e => decide (e.2.source = n))

/-- A source is PENDING (R345). -/
def isPending (c : Chip) (n : Nat) : Bool := if n = 0 then c.icu.zero else decide (n ∈ c.icu.level) && !isClaimed c n

/-- ICU_LEVEL of a source, or the pending state of source 0. -/
def icuLevel (c : Chip) (n : Nat) : Bool := if n = 0 then c.icu.zero else decide (n ∈ c.icu.level)

/-- A group's hold-off timer runs (R352). -/
def heldOff (k : Clk) (c : Chip) (n : Nat) : Bool := decide (Clk.abs k < kvGet 0 c.icu.holdoff (n / 16))

/-- A source is eligible for a target (R346). -/
def eligible (k : Clk) (c : Chip) (t n : Nat) : Bool :=
  Chip.enabled c .icu && isPending c n && Chip.flag c .icu (0x400 + 0x80 * t + 4 * (n / 32)) (n % 32) && !heldOff k c n

/-- The lowest-numbered eligible source of a target. -/
def nextSource (k : Clk) (c : Chip) (t : Nat) : Option Nat := (0 :: c.icu.level).find? (fun n => eligible k c t n)

/-- The line of a target (R53, R346, R351). -/
def lineOf (k : Clk) (c : Chip) (t : Nat) : Bool :=
  (nextSource k c t).isSome && !Chip.flag c .icu (0x200 + 0x20 * t) 0 && (kvFind c.icu.dip t).isNone

/-! Claim and completion (R347 to R352). -/

/-- A read that covers ICU_TGT_CLAIM[t]: the number returned (R347, R354). -/
def icuClaim (k : Clk) (t : Nat) (c : Chip) : Chip × Nat :=
  if !Chip.enabled c .icu then (c, 0xFFFF)
  else
    match kvFind c.icu.claims t with
    | some cl => (c, cl.source)
    | none =>
      match nextSource k (claimView k c) t with
      | none => (c, 0xFFFF)
      | some n =>
        let gone := decide (n ≠ 0) && !decide (n ∈ c.icu.level)
        let i := { c.icu with claims := kvPut c.icu.claims t { source := n, low := gone } }
        (setIcu (if n = 0 then { i with zero := false } else i) c, n)

/-- HOLDOFF of a group (R352). -/
def holdoffOf (c : Chip) (g : Nat) : Nat :=
  if g = 0 then 0 else Chip.fld c .icu (0x140 + 4 * (g / 2)) (16 * (g % 2) + 15) (16 * (g % 2))

/-- A write of ICU_TGT_COMPLETE[t] (R349, R350, R352). Assumption 98 (DEDUCED, unsafe). -/
def icuComplete (k : Clk) (t n : Nat) (c : Chip) : Chip :=
  let now := Clk.abs k
  let c := Chip.put c .icu (0x208 + 0x20 * t) (BitVec.ofNat 64 n)
  if n = 0xFFFF then c
  else
    let c := setIcu { c.icu with dip := kvPut c.icu.dip t (now + 4) } c
    match kvFind c.icu.claims t with
    | some cl =>
      if cl.source = n then
        let c := if cl.low && decide (n ≠ 0) then Chip.bump c .icu (0x210 + 0x20 * t) else c
        let h := holdoffOf c (n / 16)
        let i := { c.icu with
          claims := kvErase c.icu.claims t
          holdoff := if h = 0 then kvErase c.icu.holdoff (n / 16) else kvPut c.icu.holdoff (n / 16) (now + 64 * h) }
        sampleSource n (setIcu i c)
      else icuFault t n c
    | none => icuFault t n c
where
  /-- A claim-order fault (R349). -/
  icuFault (t n : Nat) (c : Chip) : Chip :=
    let c := Chip.bump c .icu (0x218 + 0x20 * t)
    let c := if isClaimed c 0 then c else setIcu { c.icu with zero := true } c
    if Chip.flag c .icu 0x300 31 then c
    else Chip.put c .icu 0x300 (BitVec.ofNat 64 (2 ^ 31 + t * 2 ^ 16 + n % 2 ^ 16))

/-- A write of a master in the window, for the claims of its targets (R350). -/
def masterWrote (m : Master) (c : Chip) : Chip :=
  let mgmt := decide (m = .mgmt)
  if c.icu.claims.isEmpty then c
  else setIcu { c.icu with claims := c.icu.claims.map (fun e =>
    if Config.targetMgmt e.1 == mgmt then (e.1, { e.2 with wrote := true }) else e) } c

/-- Four clocks low have passed after a COMPLETE: the line may rise (R53). -/
def lineReassert (k : Clk) (t : Nat) (c : Chip) : Chip :=
  match kvFind c.icu.dip t with
  | some d => if d ≤ Clk.abs k then setIcu { c.icu with dip := kvErase c.icu.dip t } c else c
  | none => c

/-- A group's timer reaches zero. -/
def holdoffExpiry (k : Clk) (g : Nat) (c : Chip) : Chip :=
  match kvFind c.icu.holdoff g with
  | some d => if d ≤ Clk.abs k then setIcu { c.icu with holdoff := kvErase c.icu.holdoff g } c else c
  | none => c

/-- Soft reset of the ICU page: claims cleared, levels re-sampled (R345, R354). -/
def icuReset (c : Chip) : Chip :=
  (c.icu.level ++ (List.range 1024)).foldl (fun c n => sampleSource n c) (setIcu {} c)

/-- ICU_PEND[i] and ICU_LEVEL[i] (R360). -/
def wordOf (f : Nat → Bool) (i : Nat) : Nat := ((List.range 32).map (fun j => b2n (f (32 * i + j)) * 2 ^ j)).sum

/-- ICU_TGT_STAT[t]. -/
def targetStat (k : Clk) (c : Chip) (t : Nat) : Nat :=
  let line := 2 ^ 30 * b2n (lineOf k c t)
  match kvFind c.icu.claims t with
  | some cl => 2 ^ 31 + line + 2 ^ 29 * b2n (decide (cl.source ≠ 0) && !decide (cl.source ∈ c.icu.level)) + cl.source
  | none => line

/-! The Pilot (R356, R357, R361). -/

/-- Watch slot `n` watches a source whose level is high. -/
def watchHigh (c : Chip) (n : Nat) : Bool :=
  Chip.liveFlag c .pil (0x080 + 4 * n) 31 && icuLevel c (Chip.live c .pil (0x080 + 4 * n) 9 0)

/-- A wake event, if the Pilot is armed, enabled and a watched level is high. -/
def pilotWake (k : Clk) (c : Chip) : Chip :=
  let hits := (List.range 32).filter (fun n => watchHigh c n)
  if Chip.enabled c .pil && Chip.flag c .pil 0x040 0 && !hits.isEmpty then
    let c := hits.foldl (fun c n => Chip.setFld c .pil 0x048 n n 1) c
    let c := Chip.setFld (Chip.setFld c .pil 0x040 0 0 0) .pil 0x044 1 0 2
    let c := Chip.bump (Chip.cause (Chip.setFld c .pil 0x044 8 8 1) .pil 8) .pil 0x100
    c.standby.foldl (fun c x => Chip.emit c (.powerUp x)) (Chip.put c .pil 0x108 (BitVec.ofNat 64 (shortStamp k)))
  else c

/-- A write of PIL_CTL. -/
def pilotCtl (k : Clk) (arm : Bool) (c : Chip) : Chip :=
  let c := Chip.setFld c .pil 0x040 0 0 (b2n arm)
  if arm then pilotWake k (Chip.setFld c .pil 0x044 1 0 1)
  else if Chip.fld c .pil 0x044 1 0 = 1 then Chip.setFld c .pil 0x044 1 0 0 else c

/-- No complex is in STANDBY and PIL_EVENT reads zero: WAKE_N rises, and a Pilot that is WOKEN is IDLE (R357). One that has
been armed again stays ARMED. -/
def pilotIdle (c : Chip) : Chip :=
  if c.standby = [] ∧ Chip.fld c .pil 0x048 31 0 = 0 then
    let c := Chip.setFld c .pil 0x044 8 8 0
    if Chip.fld c .pil 0x044 1 0 = 2 then Chip.setFld c .pil 0x044 1 0 0 else c
  else c

/-- The WAKE_N pin is driven low (R54, R357). -/
def wakeLow (c : Chip) : Bool := Chip.enabled c .pil && Chip.flag c .pil 0x044 8

/-! STANDBY (R355, R358, R359). -/

/-- A store keyed by chip-wide port, PG or ring without the entries of a complex: `w` keys to a complex. -/
def dropCx {β : Type} (x : Cx) (w : Nat) (l : List (Nat × β)) : List (Nat × β) := l.filter (fun e => decide (e.1 / w ≠ x.val))

/-- A port as its complex is gated: taken down if it is UP, and its frames lost. -/
def gatePort (k : Clk) (x : Cx) (i : Nat) (c : Chip) : Chip :=
  let n := laneOf x i
  let c := if Chip.isUp c n then
      let d := Chip.setFld (leaveUp k n 5 c) (prtPage n) 0x04C 7 7 1
      setPort n { Chip.port d n with gated := true, tries := [] } d
    else c
  match kvFind c.ports n.val with
  | some p => setPort n { p with rx := none, tx := [], fcPend := false } c
  | none => c

/-- A ring as its complex is gated: its jobs in hand are lost, frames staged for it too, and journal records that stand in its
open buffer are to be written again (R300, R359). -/
def gateRing (g : Ring) : Ring :=
  { g with
    jobs := g.jobs.map (fun j => if j.res.isNone then { j with lost := true, held := 0 } else j)
    rxq := [], fill := 0, gap := false }

/-- A check unit as its complex is gated: its scan is lost. -/
def gateScan (s : ChkSt) : ChkSt := { s with scan := none }

/-- The rings, check units, slices and journal of a complex as it is gated (R359). -/
def gateUnits (x : Cx) (c : Chip) : Chip :=
  let j := Chip.jrnOf c x
  setJrn x { j with pend := [], out := j.out.map (fun _ => none) } { c with
    rings := c.rings.map (fun e => if ringCx e.1 = x then (e.1, gateRing e.2) else e)
    chk := c.chk.map (fun e => if e.1 / 4 = x.val then (e.1, gateScan e.2) else e)
    swaps := c.swaps.filter (fun e => decide (e.1 / 4 ≠ x.val))
    mtrMod := kvErase c.mtrMod x.val }

/-- The chip power-gates a complex: work in flight is lost without completion (R359).
Assumption 99 (DEDUCED, unsafe). -/
def standbyEntry (k : Clk) (x : Cx) (c : Chip) : Chip :=
  if !awake c x then c
  else
    let c := (List.range 256).foldl (fun c i => gatePort k x i c) (gateUnits x c)
    let c := eraseFrames (fun f => decide (f.pg / 32 = x.val)) c
    synceCheck k { c with
      standby := x :: c.standby
      hostQ := dropCx x 256 c.hostQ
      coreQ := dropCx x 32 c.coreQ
      drops := c.drops.filter (fun d => decide (d.2.1 ≠ x.val))
      bus := c.bus.filter (fun e => decide (e.1 % 64 / 32 ≠ x.val))
      twRun := c.twRun.filter (fun e => decide (e.1 / 64 ≠ x.val))
      ses := c.ses.map (fun e => if e.1 = x.val then (e.1, { e.2 with kop := none, learn := [] }) else e) }

/-- A ring of a complex that resumes, whose function was disabled meanwhile: it stops with its function's other rings (R312), or
is DISABLED where these have stopped, for no host memory access follows QUIESCED. -/
def resumeRing (k : Clk) (r : Nat) (c : Chip) : Chip :=
  match Chip.ring c r with
  | some g =>
    if funcRuns c g.owner then c
    else if g.owner ∈ c.funcStop then stopRing k r .owner c
    else setRingState r 0 { c with rings := kvErase c.rings r }
  | none => c

/-- A complex is powered and its state restored (R358): its ports that were UP set LINK_DOWN and start an attempt. -/
def complexResume (k : Clk) (x : Cx) (c : Chip) : Chip :=
  if x ∈ c.standby then
    let c := ((c.rings.map (·.1)).filter (fun r => decide (ringCx r = x))).foldl (fun c r => resumeRing k r c) c
    (List.range 256).foldl (fun c i =>
      let n := laneOf x i
      let p := Chip.port c n
      if p.gated then startAttempt k n (linkDown n (setPort n { p with gated := false } c)) else c)
      { c with standby := c.standby.filter (· ≠ x) }
  else c

end Sys2Proof.Machine
end

