-- ==== Sys2Proof/Machine/Check.lean ====
section
/-!
DEFINITION. The check-value units (R362 to R370).
-/
namespace Sys2Proof.Machine

def chkPage (x : Cx) (u : Fin 4) : Page := .cx x .chk (Fin.ofNat 256 u.val)
def chkKey (x : Cx) (u : Fin 4) : Nat := 4 * x.val + u.val
def Chip.chkOf (c : Chip) (x : Cx) (u : Fin 4) : ChkSt := kvGet {} c.chk (chkKey x u)
def setChk (x : Cx) (u : Fin 4) (s : ChkSt) (c : Chip) : Chip := { c with chk := kvPut c.chk (chkKey x u) s }

/-- Fields of a latched CHK_CTL. -/
def chkPoly (ctl : Nat) : Nat := if bits ctl 1 0 = 3 then 0 else bits ctl 1 0
def chkFold (ctl : Nat) : Nat := if bits ctl 6 5 = 3 then 0 else bits ctl 6 5
def chkWide (ctl : Nat) : Bool := decide (chkPoly ctl = 2)
def chkRecord (ctl : Nat) : Bool := bit ctl 4
/-- Bytes of a RECORD block's check field. -/
def chkField (ctl : Nat) : Nat := if chkWide ctl then 8 else 4

/-- A value taken to the check's width. -/
def chkWidth (ctl v : Nat) : Nat := if chkWide ctl then v % 2 ^ 64 else v % 2 ^ 32

/-- One byte into the running register (R362). -/
def chkByte (ctl s : Nat) (b : Byte) : Nat :=
  match chkPoly ctl with
  | 0 => crcByteR 0xEDB88320 s b
  | 1 => crcByteR 0x82F63B78 s b
  | _ => crcByteN 64 0x42F0E1EBA9EA3693 s b

/-- The final value of a register (R362). -/
def chkFinal (ctl s : Nat) : Nat := if bit ctl 2 then s ^^^ chkWidth ctl (2 ^ 64 - 1) else s

/-- A fold value taken into the register (R363). -/
def chkFoldIn (ctl s f : Nat) : Nat :=
  if chkWide ctl then s ^^^ (f % 2 ^ 64) else s ^^^ ((f % 2 ^ 32) ^^^ (f % 2 ^ 64 / 2 ^ 32))

/-- A unit as it is fed: its state, register, first failing block, and bytes fed. -/
structure ChkRun where
  st    : ChkSt
  reg   : Nat
  fails : List Nat
deriving DecidableEq, Repr

/-- One byte fed: `blk` is the block size in force, `addr` the ADDR fold value of a block that begins with it (R363,
R364). -/
def chkFeed1 (blk addr : Nat) (r : ChkRun) (b : Byte) : ChkRun :=
  let s := r.st
  let ctl := s.ctl
  if blk = 0 then { r with reg := chkByte ctl r.reg b }
  else
    let reg :=
      if s.pos = 0 then
        let start := if chkRecord ctl then chkWidth ctl s.seed else r.reg
        match chkFold ctl with
        | 1 => chkFoldIn ctl start addr
        | 2 => chkFoldIn ctl start (s.base + s.block)
        | _ => start
      else r.reg
    if chkRecord ctl then
      let n := chkField ctl
      if s.pos + n < blk then { r with st := { s with pos := s.pos + 1 }, reg := chkByte ctl reg b }
      else if s.pos + 1 < blk then { r with st := { s with pos := s.pos + 1, tail := s.tail ++ [b] }, reg := reg }
      else
        let ok := decide (leNat (s.tail ++ [b]) = chkFinal ctl reg)
        { st := { s with
            pos := 0, block := s.block + 1, tail := []
            good := s.good + 1, bad := s.bad + b2n (!ok) }
          reg := reg
          fails := if ok then r.fails else r.fails ++ [s.block] }
    else
      let last := decide (s.pos + 1 ≥ blk)
      { r with st := { s with pos := if last then 0 else s.pos + 1, block := s.block + b2n last }, reg := chkByte ctl reg b }

/-- Bytes fed in order: `addr i` is the ADDR fold value of a block that begins with byte `i` of them. -/
def chkFeedFrom (blk : Nat) (addr : Nat → Nat) : Nat → List Byte → ChkRun → ChkRun
  | _, [], r => r
  | i, b :: bs, r => chkFeedFrom blk addr (i + 1) bs (chkFeed1 blk (addr i) r b)

/-- Bytes fed to a unit. -/
def chkFeed (x : Cx) (u : Fin 4) (blk : Nat) (addr : Nat → Nat) (bs : List Byte) (c : Chip) : Chip :=
  let p := chkPage x u
  let r := chkFeedFrom blk addr 0 bs ⟨Chip.chkOf c x u, (Chip.get c p 0x080).toNat, []⟩
  let c := setChk x u r.st (Chip.bumpBy (Chip.put c p 0x080 (BitVec.ofNat 64 r.reg)) p 0x088 bs.length)
  let first := decide ((Chip.chkOf c x u).bad = r.fails.length)
  let c := Chip.bumpBy c p 0x108 r.fails.length
  match r.fails with
  | f :: _ => if first then Chip.put c p 0x090 (BitVec.ofNat 64 f) else c
  | [] => c

def setChkStatus (x : Cx) (u : Fin 4) (st : Nat) (c : Chip) : Chip := Chip.setFld c (chkPage x u) 0x074 11 8 st

/-- INIT (R364, R369): true if it did not fail. `feed` says that no SCAN was written with it.
Assumption 82 (DEDUCED, unsafe). -/
def chkInit (x : Cx) (u : Fin 4) (feed : Bool) (c : Chip) : Chip × Bool :=
  let p := chkPage x u
  let ctl := (Chip.get c p 0x040).toNat
  let blk := bits ctl 31 16
  let n := chkField ctl
  if chkRecord ctl && (decide (blk % 4 ≠ 0) || decide (blk < 2 * n) || (decide (chkFold ctl = 1) && feed)) then
    (setChkStatus x u 1 c, false)
  else
    let seed := (Chip.get c p 0x048).toNat
    let st : ChkSt := { ctl := ctl, seed := seed, base := (Chip.get c p 0x050).toNat, expect := (Chip.get c p 0x058).toNat
                        from_ := (Chip.get c p 0x060).toNat, busy := (Chip.chkOf c x u).busy }
    let c := Chip.put (setChk x u st c) p 0x080 (BitVec.ofNat 64 (chkWidth ctl seed))
    let c := Chip.put (Chip.put c p 0x088 0) p 0x090 0
    (setChkStatus x u 0 (Chip.setFld c p 0x074 2 2 0), true)

/-- CHECK (R364, R365). -/
def chkCheck (x : Cx) (u : Fin 4) (c : Chip) : Chip :=
  let p := chkPage x u
  let s := Chip.chkOf c x u
  let v := chkFinal s.ctl (Chip.get c p 0x080).toNat
  let ok := if chkRecord s.ctl then decide (s.bad = 0) else decide (v = chkWidth s.ctl s.expect)
  let c := Chip.put c p 0x078 (BitVec.ofNat 64 (if chkRecord s.ctl then s.good else v))
  let c := if chkRecord s.ctl && decide (s.pos ≠ 0) then Chip.bump c p 0x098 else c
  let c := Chip.setFld c p 0x074 4 2 (if ok then 3 else 5)
  if ok then c else Chip.bump (Chip.cause c p 9) p 0x100

/-- A scan ends with a status: DONE, and a waiting CHECK if it is OK (R369). -/
def chkScanDone (x : Cx) (u : Fin 4) (st : Nat) (check again : Bool) (c : Chip) : Chip :=
  let p := chkPage x u
  let c := setChk x u { Chip.chkOf c x u with scan := none } c
  let c := Chip.cause (setChkStatus x u (if again then 5 else st) (Chip.setFld c p 0x074 1 1 0)) p 8
  if check && decide (st = 0) then chkCheck x u c else c

/-- Clocks in which a row of a scanned table is read, one word a clock (R368). -/
def rowClocks (c : Chip) (t : Option (Page × Nat)) : Nat :=
  match t.bind (fun o => tableOf c.part o.1 o.2) with
  | some i => ceilDiv i.bytes 16
  | none => 0

/-- SCAN (R367 to R369): it starts, or ends at once. -/
def chkScan (k : Clk) (x : Cx) (u : Fin 4) (check : Bool) (c : Chip) : Chip :=
  let p := chkPage x u
  let a := (Chip.chkOf c x u).from_
  let len := Chip.fld c p 0x068 31 0
  let fn := Chip.fld c p 0x06C 5 0
  let start (t : Option (Page × Nat)) : Chip :=
    setChk x u { Chip.chkOf c x u with scan := some ⟨t, a, len, fn, check, false, 0, Clk.abs k + rowClocks c t⟩ } (Chip.setFld c p 0x074 1 1 1)
  let done (st : Nat) : Chip := chkScanDone x u st check false c
  if Chip.flag c p 0x008 1 then done 8
  else if len = 0 then done 0
  else if Chip.flag c p 0x06C 31 then
    match ownerPage c.part x (bits a 63 56) (bits a 45 32) (bit a 47) with
    | none => done 6
    | some o =>
      match tableOf c.part o (bits a 55 48) with
      | none => done 6
      | some i => if bits a 23 0 + len > i.rows then done 6 else start (some (o, bits a 55 48))
  else if funcRuns c fn then start none
  else done 3

/-- A write of CHK_CMD (R369). -/
def chkCmd (k : Clk) (x : Cx) (u : Fin 4) (v : Nat) (c : Chip) : Chip :=
  let s := Chip.chkOf c x u
  match s.scan with
  | some r => if v % 8 = 0 then c else setChk x u { s with scan := some { r with again := true } } c
  | none =>
    let i := if bit v 0 then chkInit x u (!bit v 1) c else (c, true)
    if !i.2 then i.1
    else if bit v 1 then chkScan k x u (bit v 2) i.1
    else if bit v 2 then chkCheck x u i.1 else i.1

/-- Rows fed one by one; false where an uncorrectable word ended the scan (R368). -/
def chkRows (k : Clk) (x : Cx) (u : Fin 4) (o : Page) (t word : Nat) (errs : List (Nat × EccErr)) :
    Nat → Nat → Chip → Chip × Bool
  | 0, _, c => (c, true)
  | n + 1, row, c =>
    let a := readError k o t row (kvFind errs row) (tableRead c o t row) c
    if a.2.2 then (a.1, false)
    else
      let w := word / 2 ^ 24 * 2 ^ 24 + row
      chkRows k x u o t word errs n (row + 1) (chkFeed x u a.2.1.length (fun _ => w) a.2.1 a.1)

/-- The unit runs a table scan with rows left to read. -/
def scansTable (s : ChkSt) : Bool :=
  match s.scan with
  | some r => r.table.isSome && decide (r.rows < r.len)
  | none => false

/-- A table scan reads and feeds its next row in this clock; one with an uncorrectable word ends it (R368, R404). -/
def scanRow (k : Clk) (x : Cx) (u : Fin 4) (c : Chip) : Chip :=
  match (Chip.chkOf c x u).scan with
  | some r =>
    match r.table with
    | some (o, t) =>
      if r.rows < r.len ∧ r.next ≤ Clk.abs k then
        let a := chkRows k x u o t r.start [] 1 (r.start % 2 ^ 24 + r.rows) c
        if a.2 then
          setChk x u { Chip.chkOf a.1 x u with
            scan := some { r with rows := r.rows + 1, next := r.next + rowClocks a.1 r.table } } a.1
        else chkScanDone x u 4 r.check r.again a.1
      else c
    | none => c
  | none => c

/-- The table scans of a complex in one clock. -/
def scanTick (k : Clk) (x : Cx) (c : Chip) : Chip :=
  if c.chk.any (fun e => decide (e.1 / 4 = x.val) && scansTable e.2) then
    (List.range 4).foldl (fun c u => scanRow k x (Fin.ofNat 4 u) c) c
  else c

/-- The running scan ends: `data` are the bytes read from host memory, `errs` the ECC errors met in the table rows that it
still reads (R367, R368). Rows of a table are read one after the other as clocks pass, and those left as the scan ends.
Assumption 156 (DESIGN CHOICE, safe). -/
def scanEnd (k : Clk) (x : Cx) (u : Fin 4) (data : List Byte) (errs : List (Nat × EccErr)) (c : Chip) : Chip :=
  let s := Chip.chkOf c x u
  match s.scan with
  | none => c
  | some r =>
    match r.table with
    | some (o, t) =>
      let a := chkRows k x u o t r.start errs (r.len - r.rows) (r.start % 2 ^ 24 + r.rows) c
      chkScanDone x u (if a.2 then 0 else 4) r.check r.again a.1
    | none =>
      let on := funcRuns c r.fn
      let bs := if on then slice data 0 r.len else data.take r.len
      let c := hostRead r.fn r.start bs.length c
      chkScanDone x u (if on then 0 else 3) r.check r.again (chkFeed x u (bits s.ctl 31 16) (fun i => r.start + i) bs c)

/-- A read of the running host scan failed after `data` was fed (R50, R367). -/
def scanError (x : Cx) (u : Fin 4) (data : List Byte) (timeout : Bool) (c : Chip) : Chip :=
  let s := Chip.chkOf c x u
  let c := countHostErr x (b2n timeout) c
  match s.scan with
  | some ⟨none, start, len, fn, check, again, _, _⟩ =>
    let c := hostRead fn start (min len (data.length + 1)) c
    chkScanDone x u (if funcRuns c fn then 2 else 3) check again (chkFeed x u (bits s.ctl 31 16) (fun i => start + i) (data.take len) c)
  | _ => c

/-- A write of a CHK_DATA register of `n` bytes at offset `o` (R366). -/
def chkData (k : Clk) (x : Cx) (u : Fin 4) (o n v : Nat) (c : Chip) : Chip :=
  let p := chkPage x u
  let s := Chip.chkOf c x u
  if Chip.flag c p 0x074 0 || s.scan.isSome then
    Chip.bump (Chip.cause (Chip.setFld c p 0x074 5 5 1) p 10) p 0x110
  else
    let blk := bits s.ctl 31 16
    let c := Chip.put c p o (BitVec.ofNat 64 (v % 2 ^ (8 * max n 4)))
    let c := chkFeed x u blk (fun i => s.base + (s.block + (s.pos + i) / blk) * blk) (leBytes n v) c
    let c := setChk x u { Chip.chkOf c x u with busy := Clk.abs k + n } c
    Chip.setFld c p 0x074 0 0 1

/-- A register-fed write is finished: BUSY clears (R366). -/
def chkFeedDone (k : Clk) (x : Cx) (u : Fin 4) (c : Chip) : Chip :=
  if (Chip.chkOf c x u).busy ≤ Clk.abs k then Chip.setFld c (chkPage x u) 0x074 0 0 0 else c

end Sys2Proof.Machine
end

