-- ==== Sys2Proof/Machine/Pair.lean ====
section
/-!
DEFINITION. The Saggar pair: pair link, roles, witness, heartbeats, slip and takeover (R375 to R398, R400).
-/
namespace Sys2Proof.Machine

def setPair (p : PairSt) (c : Chip) : Chip := { c with pair := p }

/-- ROLE of SAG_STAT: 0 DISABLED, 1 STANDBY, 2 CLAIMING, 3 ACTIVE. -/
def pairRole (c : Chip) : Nat := Chip.fld c .sag 0x068 2 0
def setRole (r : Nat) (c : Chip) : Chip := Chip.setFld c .sag 0x068 2 0 r
def pairSync (c : Chip) : Bool := Chip.flag c .sag 0x068 3
def setSync (b : Bool) (c : Chip) : Chip := Chip.setFld c .sag 0x068 3 3 (b2n b)
def roleEpoch (c : Chip) : Nat := Chip.fld c .sag 0x06C 31 0
def adoptEpoch (e : Nat) (c : Chip) : Chip := Chip.put c .sag 0x06C (BitVec.ofNat 64 (e % 2 ^ 32))
def peerId (c : Chip) : Nat := Chip.live c .sag 0x044 11 0
def witId (c : Chip) : Nat := Chip.live c .sag 0x044 27 16
def chipId (c : Chip) : Nat := Chip.live c .tim 0x04C 11 0

/-- SYNC cleared with its cause (R392). -/
def unsync (c : Chip) : Chip := Chip.cause (setSync false c) .sag 12

/-- The chip's cone report (R416). -/
def chipCone (c : Chip) : Word := Chip.get c (onePage 0 .hlt) 0x060

/-- T_miss in clocks (R385). -/
def missClocks (c : Chip) : Nat := max 1 (Chip.live c .sag 0x060 7 4) * 1600 + 800

/-- The pair port while it is UP. -/
def pairUp (c : Chip) : Option (Fin 512) := (Chip.pairPort c).bind (fun n => if Chip.isUp c n then some n else none)

/-- Lanes-in-port that are in the link (R375). -/
def pairLanes (c : Chip) : List Nat :=
  match pairUp c with
  | some n => lanesUp c n
  | none => []

/-- PAIR_HB_IN has toggled within 3.5 turns. -/
def pinAlive (k : Clk) (c : Chip) : Bool :=
  match c.pair.pinAt with
  | some t => decide (Clk.abs k ≤ t + 5600)
  | none => false

/-- SAG_STAT as it reads (R400). -/
def sagStat (k : Clk) (c : Chip) : Nat :=
  let v := (Chip.get c .sag 0x068).toNat
  let v := setBits v 11 8 (((pairLanes c).map (fun i => 2 ^ i)).sum)
  let v := setBits v 5 5 (b2n (pinAlive k c))
  setBits v 4 4 (b2n (decide (pairRole c ≠ 0) && c.pair.echo.isSome && decide (Clk.abs k < c.pair.lastHb + missClocks c)))

/-! Pair frames (R377 to R379). -/

/-- The 24-byte pair header. -/
def pairHeader (msg len epoch sender flags seq no : Nat) : List Byte :=
  [0x01, BitVec.ofNat 8 msg] ++ leBytes 2 len ++ leBytes 4 epoch ++ leBytes 2 sender ++ leBytes 2 flags ++ leBytes 4 seq ++
  leBytes 8 no

/-- A frame padded to its minimum, with room for the FCS. -/
def padFrame (bs : List Byte) : List Byte := bs ++ List.replicate (60 - bs.length) 0 ++ [0, 0, 0, 0]

/-- Where a pair frame sent now starts on a lane, as a port of mode 0x9 (R376): behind the frame ahead and its gap, and `ahead`
clocks later still. Assumption 138 (DEDUCED, unsafe). -/
def pairLaunch (k : Clk) (c : Chip) (lane ahead : Nat) : Nat :=
  let e := kvGet 0 c.pair.lineEnd lane
  let free := if e = 0 then 0 else e + wireTime 9 12
  nextStart ⟨9, false⟩ 8 (bitAt 9 (max ((Clk.abs k + txLatency 9 false - 3 + ahead) * 3200) free))

/-- The lane, among those that are up, whose latest frame leaves first: a frame for no lane in particular goes there (R375). -/
def pairLane (c : Chip) : Nat :=
  let e (i : Nat) : Nat := kvGet 0 c.pair.lineEnd i
  match pairLanes c with
  | i :: is => is.foldl (fun a b => if e b < e a then b else a) i
  | [] => 0

/-- Egress stamp of a pair frame sent now on a lane (R162, R376). -/
def pairTxStamp (k : Clk) (c : Chip) (n : Fin 512) (lane ahead : Nat) : Nat :=
  let b := pairLaunch k c lane ahead
  stampSum (timeAfter k c.time (bitClock 9 b - Clk.abs k)) 9 ((bitPos 9 b / modeBits 9 * 64 : Nat) : Int)
    (signed 32 (Chip.getLive c (stpPage n) (0x140 + 4 * 9)).toNat)

/-- A frame sent on the pair link: LINK_SEQ counts it, its stamp may be recorded, and it goes on a lane or on the local
loopback (R102, R174, R375, R377). -/
def linkSend (k : Clk) (n : Fin 512) (lane : Option Nat) (ahead msg flags no : Nat) (body : List Byte) (c : Chip) : Chip :=
  let h := pairHeader msg body.length (roleEpoch c) (chipId c) flags c.pair.seq no
  let bs := leBytes 6 (Chip.getLive c .sag 0x058).toNat ++ macSa c n ++ beBytes 2 (Chip.live c .sag 0x04C 15 0) ++ h ++ body
  let f : TxFrame := { kind := .pair, tag := 0, cls := 0, len := (padFrame bs).length, reqAt := Clk.abs k }
  let sent := withFcs (padFrame bs) false
  let i := lane.getD (pairLane c)
  let stamp := pairTxStamp k c n i ahead
  let leaves := bitTime 9 (pairLaunch k c i ahead) + wireTime 9 (sent.length + 8)
  let c := probeTx n stamp (setPair { c.pair with
    seq := (c.pair.seq + 1) % 2 ^ 32, lineEnd := kvPut c.pair.lineEnd i leaves } c)
  let p := Chip.port c n
  countSent n f sent
    (if Chip.lpbk c n = 1 then setPort n { p with loop := p.loop ++ [⟨stamp, sent, true⟩] } c else Chip.emit c (.pairTx i sent))

/-- The port that carries pair frames: the pair link is up, receives no remote fault, and is not looped back remotely (R96,
R165, R375). -/
def pairOut (c : Chip) : Option (Fin 512) := (pairUp c).filter (fun n => linkOpen c n && decide (Chip.lpbk c n ≠ 2))

/-- A pair header and what follows it, at offset `o` of a frame. -/
structure PairMsg where
  msg    : Nat
  len    : Nat
  epoch  : Nat
  sender : Nat
  flags  : Nat
  seq    : Nat
  no     : Nat
  body   : List Byte
  ok     : Bool
deriving DecidableEq, Repr

/-- The header and body that begin at byte `o`; `ok`: VERSION 1, and the frame holds LENGTH bytes of body and `tail`
bytes more. -/
def parsePair (bs : List Byte) (o tail : Nat) : PairMsg :=
  let len := memNat bs (o + 2) 2
  { msg := memNat bs (o + 1) 1, len := len, epoch := memNat bs (o + 4) 4, sender := memNat bs (o + 8) 2
    flags := memNat bs (o + 10) 2, seq := memNat bs (o + 12) 4, no := memNat bs (o + 16) 8
    body := slice bs (o + 24) len
    ok := decide (memNat bs o 1 = 1) && decide (o + 24 + len + tail ≤ bs.length) }

/-- The check of a witness message (R379). -/
def witCheck (key bs : List Byte) (o : Nat) (m : PairMsg) : Bool :=
  decide (slice bs (o + 24 + m.len) 8 = (cmac key (slice bs o (24 + m.len))).take 8)

/-- The key of the witness messages (R379). -/
def witKey (c : Chip) : Option (List Byte) := kvFind c.keys (Chip.live c .sag 0x040 21 20)

/-- A witness message put into a port's transmit path, as the MAC's own frames are, with a stamp of its own (R156, R174).
Under remote loopback the port sends none (R165). -/
def witSend (k : Clk) (n : Fin 512) (da tag : List Byte) (msg epoch sender reqId : Nat) (body key : List Byte) (c : Chip) :
    Chip :=
  let hb := pairHeader msg body.length epoch sender 0 reqId 0 ++ body
  let bs := padFrame (da ++ macSa c n ++ tag ++ beBytes 2 (Chip.live c .sag 0x04C 31 16) ++ hb ++ (cmac key hb).take 8)
  if Chip.modeAt c n = 0 ∨ linkOpen c n = false ∨ Chip.lpbk c n = 2 then c
  else
    let l := place c (Chip.port c n) n (txReady k c n 0) bs.length 0
    let stamp := bitStamp k c.time c n l.bit
    let f : TxFrame := {
      kind := .pair, tag := 0, cls := 0, len := bs.length, reqAt := Clk.abs k, cfg := some c.regs
      arrived := some (Clk.abs k), bytes := bs }
    let c := macSend n l stamp f (probeTx n stamp c)
    setPort n { Chip.port c n with lastStamp := stamp } c

/-! Requests to the witness (R380, R381). -/

/-- A request sent, or sent again; RELEASE expects no answer (R382). Without a key nothing is sent (R379). -/
def witRequest (k : Clk) (msg id : Nat) (c : Chip) : Chip :=
  match witKey c with
  | none => Chip.cause c .sag 11
  | some key =>
    let v := (Chip.getLive c .sag 0x048).toNat
    let n : Fin 512 := Fin.ofNat 512 (bits v 8 0)
    let tag := if bit v 31 then [0x81, 0x00] ++ beBytes 2 (bits v 30 28 * 2 ^ 13 + bits v 27 16) else []
    let body := leBytes 8 (chipCone c).toNat ++ leBytes 8 0
    let c := witSend k n (leBytes 6 (Chip.getLive c .sag 0x050).toNat) tag msg (roleEpoch c) (chipId c) id body key c
    if msg = 0x12 then c
    else
      let c := Chip.setFld c .sag 0x068 7 7 0
      if c.pair.reqs.any (fun r => decide (r.id = id)) then c
      else setPair { c.pair with reqs := c.pair.reqs ++ [{ msg := msg, id := id, first := k.turn }] } c

/-- The next REQ_ID taken. -/
def nextReq (c : Chip) : Chip × Nat := (setPair { c.pair with reqId := (c.pair.reqId + 1) % 2 ^ 32 } c, c.pair.reqId)

/-- QUERY sent. -/
def pairQuery (k : Clk) (c : Chip) : Chip :=
  let r := nextReq c
  witRequest k 0x13 r.2 (setPair { r.1.pair with lastAsk := k.turn } r.1)

/-- CLAIM sent with a new REQ_ID (R380). -/
def claimSend (k : Clk) (c : Chip) : Chip :=
  let r := nextReq c
  witRequest k 0x10 r.2 (setRole 2 (setPair { r.1.pair with claim := some (r.2, k.turn) } r.1))

/-- CLAIM written (R380). -/
def pairClaim (k : Clk) (c : Chip) : Chip := if pairRole c = 1 then claimSend k c else c

/-- A claim condition (R385): in CLAIMING it leads to a new CLAIM once the last has been answered.
Assumption 85 (DEDUCED, unsafe). -/
def claimCond (k : Clk) (c : Chip) : Chip :=
  if pairRole c = 1 ∨ (pairRole c = 2 ∧ c.pair.claim = none) then
    (if Chip.liveFlag c .sag 0x040 17 then claimSend k c else Chip.cause c .sag 15)
  else c

/-- An unanswered CLAIM repeated (R380). -/
def claimRepeat (k : Clk) (c : Chip) : Chip :=
  match c.pair.claim with
  | some (id, last) =>
    if pairRole c = 2 ∧ last + 16 ≤ k.turn then witRequest k 0x10 id (setPair { c.pair with claim := some (id, k.turn) } c) else c
  | none => c

/-- QUERY repeated while the pair link is lost (R385). -/
def queryRepeat (k : Clk) (c : Chip) : Chip :=
  if (pairRole c = 1 ∨ pairRole c = 2) ∧ c.pair.silence = 2 ∧ c.pair.lastAsk + 16 ≤ k.turn then pairQuery k c else c

/-- RENEW of an ACTIVE chip, once in each turn whose number is a multiple of 16 (R381). -/
def renewSend (k : Clk) (c : Chip) : Chip :=
  if pairRole c = 3 ∧ k.turn % 16 = 0 ∧ c.pair.renewTurn ≠ some k.turn then
    let r := nextReq (setPair { c.pair with renewTurn := some k.turn } c)
    witRequest k 0x11 r.2 r.1
  else c

/-- Requests without an answer for 32 turns (R381). -/
def witTimeout (k : Clk) (c : Chip) : Chip :=
  let due (r : WitReq) : Bool := !r.late && decide (r.first + 32 ≤ k.turn)
  let n := (c.pair.reqs.filter due).length
  if n = 0 then c
  else
    let p := { c.pair with
      reqs := c.pair.reqs.map (fun r => if due r then { r with late := true } else r), timeouts := c.pair.timeouts + n }
    let c := Chip.bumpBy (setPair p c) .sag 0x170 n
    if p.timeouts ≥ 4 then Chip.cause c .sag 11 else c

/-! Journals at a change of role (R296, R306, R307, R393, R394, R397). -/

/-- Events raised in a journal that runs, or waiting in one whose complex is gated; in one that does not run, only the mode
changes. -/
def jrnRole (k : Clk) (x : Cx) (shadow : Bool) (es : List JEvent) (c : Chip) : Chip :=
  let j := Chip.jrnOf c x
  if !j.running then setShadow x shadow c
  else if awake c x then jrnRaise k x es c
  else setJrn x { j with events := j.events ++ es } c

/-- Every journal into shadow mode (R296). -/
def allToShadow (k : Clk) (c : Chip) : Chip :=
  (complexes c.part).foldl (fun c x =>
    if Chip.inShadow c x then c else jrnRole k x true [.stop 2, .toShadow, .start 2] c) c

/-- Every journal out of shadow mode (R397). -/
def allToMain (k : Clk) (c : Chip) : Chip :=
  (complexes c.part).foldl (fun c x =>
    if Chip.inShadow c x then jrnRole k x false [.stop 0, .toMain, .start 0] c else c) c

/-- The journal of a complex at takeover (R307, R393). -/
def takeJournal (k : Clk) (oldEp newEp : Nat) (unsynced : Bool) (x : Cx) (c : Chip) : Chip :=
  match kvFind c.pair.heads x.val with
  | some h =>
    let t : JTake := ⟨h.agreed, h.tag, oldEp, newEp, h.mark, unsynced⟩
    jrnRole k x false [.mark, .gap, .close true, .seal, .start 3, .takeover t] c
  | none => jrnRole k x false [.stop 0, .toMain, .start 0] c

/-- Every valid GENERATE stream jumps by GUARD (R393). -/
def jumpStreams (c : Chip) : Chip :=
  let g := Chip.live c .sag 0x060 31 16
  (Chip.rowsOf c .cap 0).foldl (fun c s =>
    if streamMode c s = 2 then streamDirty s (Chip.setRowNat c .cap 0 s 0 8 (Chip.rowNat c .cap 0 s 0 8 + g)) else c) c

/-- Entries owed again to the slip (R388). -/
def oweAgain (es : List Dirty) (c : Chip) : Chip :=
  let new := es.filter (fun d => !c.dirty.contains d && !c.pair.again.contains d)
  setPair { c.pair with again := c.pair.again ++ new } c

/-- The open epoch, or the one to be closed, abandoned: its entries are owed again. -/
def dropSlip (c : Chip) : Chip :=
  let es := (match c.pair.closing with | some s => s.sent | none => []) ++
    (match c.pair.opened with | some s => s.sent | none => [])
  oweAgain es (setPair { c.pair with opened := none, closing := none } c)

/-- Takeover (R393). -/
def takeover (k : Clk) (epoch : Nat) (c : Chip) : Chip :=
  let old := roleEpoch c
  let u := !pairSync c
  let c := setRole 3 (adoptEpoch epoch c)
  let c := (complexes c.part).foldl (fun c x => takeJournal k old epoch u x c) c
  let c := Chip.bump (Chip.cause (jumpStreams c) .sag 8) .sag 0x158
  setPair { c.pair with claim := none, rxBuf := [], dead := none, ready := [] } c

/-- An ACTIVE chip loses its lease (R380, R394); a silence that goes on is recognised anew (R385). -/
def demote (k : Clk) (c : Chip) : Chip :=
  let c := Chip.bump (Chip.cause (setRole 1 c) .sag 9) .sag 0x160
  let c := unsync (allToShadow k (dropSlip c))
  setPair { c.pair with chain := none, claim := none, silence := 0, settled := false } (Chip.put c .sag 0x070 0)

/-- The lease ends (R380, R381). -/
def leaseExpiry (k : Clk) (c : Chip) : Chip :=
  if pairRole c = 3 ∧ (Chip.get c .sag 0x070).toNat ≤ k.turn then demote k c else c

/-- RELEASE written (R380). Assumption 84 (DEDUCED, safe). -/
def pairRelease (k : Clk) (c : Chip) : Chip :=
  if pairRole c ≠ 3 then c
  else
    let r := nextReq (demote k c)
    witRequest k 0x12 r.2 r.1

/-- A write of SAG_CMD: CLAIM, RELEASE and QUERY. -/
def sagCmd (k : Clk) (v : Nat) (c : Chip) : Chip :=
  let c := if bit v 0 then pairClaim k c else c
  let c := if bit v 1 then pairRelease k c else c
  if bit v 2 && decide (pairRole c ≠ 0) then pairQuery k c else c

/-! Enable and disable (R375, R380, R397). -/

/-- A commit with live ENABLE 1 (R380): journals in shadow mode, SYNC 0, QUERY. -/
def pairEnable (k : Clk) (c : Chip) : Chip :=
  let c := unsync (setRole 1 (allToShadow k c))
  let p := c.pair
  pairQuery k (setPair { p with
    lastHb := Clk.abs k, lastAct := Clk.abs k, silence := 0, settled := false, longGone := false, pinAt := none
    peerHigh := 0, echo := none, chain := none, failRow := 0, heads := [], reqs := [], claim := none, timeouts := 0
    hbOut := some false, rolePin := some false } c)

/-- A commit that makes ENABLE 0 (R397). -/
def pairDisable (k : Clk) (c : Chip) : Chip :=
  let c := if pairRole c = 3 then (fun r => witRequest k 0x12 r.2 r.1) (nextReq c) else c
  let c := setSync false (setRole 0 (allToMain k (dropSlip c)))
  let c := Chip.setFld (Chip.put c .sag 0x070 0) .sag 0x068 7 7 0
  setPair { c.pair with reqs := [], claim := none, silence := 0, hbOut := none, rolePin := none } c

/-- After a commit that can enable, disable or move the pair: CFG_ERR and the role (R375, R380). -/
def pairCheck (k : Clk) (c : Chip) : Chip :=
  if !hasSaggar c.part then c
  else
    let en := Chip.enabled c .sag
    let ok := (Chip.pairPort c).isSome
    let c := Chip.setFld c .sag 0x068 12 12 (b2n (en && !ok))
    if ok && decide (pairRole c = 0) then pairEnable k c
    else if !ok && decide (pairRole c ≠ 0) then pairDisable k c
    else c

/-- No epoch is being sent or applied: QUIESCED may set (R397). -/
def pairIdle (c : Chip) : Bool := c.pair.opened.isNone && c.pair.closing.isNone && c.pair.ready.isEmpty

/-- Soft reset of the SAG page after its disable: buffer and shadow marks go (R397); the witness rows and what they hold stay
(R449). -/
def pairReset (c : Chip) : Chip :=
  setPair { hbOut := none, rolePin := none, seq := c.pair.seq, reqId := c.pair.reqId, marks := c.pair.marks
            stamp0 := c.pair.stamp0, seq0 := c.pair.seq0, peerHigh := c.pair.peerHigh
            held := c.pair.held, witAt := c.pair.witAt } c

/-! Turn boundaries (R386, R388, R391). -/

/-- A turn boundary: boundary values, sideband pins, and the slip epochs. `peer` is the level of PAIR_PEER_ROLE. -/
def pairTurn (k : Clk) (peer : Bool) (c : Chip) : Chip :=
  if !hasSaggar c.part then c
  else
    let role := pairRole c
    let high := if peer && decide (role = 3) then c.pair.peerHigh + 1 else 0
    let marks := (complexes c.part).map (fun x =>
      (x.val, ((jrnNext c x true, Clk.stamp k) :: kvGet [] c.pair.marks x.val).take 64))
    let p := { c.pair with
      stamp0 := Clk.stamp k, seq0 := (complexes c.part).map (fun x => (x.val, jrnNext c x false)), marks := marks
      hbOut := c.pair.hbOut.map (fun b => !b), rolePin := c.pair.rolePin.map (fun _ => decide (role = 3)), peerHigh := high }
    let c := Chip.setFld (setPair p c) .sag 0x068 6 6 (b2n peer)
    let c := if role = 3 ∧ high = 2 then Chip.bump (Chip.cause c .sag 10) .sag 0x180 else c
    if k.turn % 16 ≠ 0 then c
    else
      let c : Chip := match c.pair.closing with | some s => oweAgain s.sent c | none => c
      let may := decide (role = 3) && decide (c.pair.silence = 0) && !Chip.flag c .sag 0x008 1 && (pairUp c).isSome
      setPair { c.pair with closing := c.pair.opened, opened := if may then some { no := k.turn / 16 } else none } c

/-- An edge of PAIR_HB_IN (R385): ignored without the unit or while it is disabled. -/
def pinEdge (k : Clk) (c : Chip) : Chip :=
  if hasSaggar c.part && decide (pairRole c ≠ 0) then setPair { c.pair with pinAt := some (Clk.abs k) } c else c

/-! Heartbeats (R384, R385, R387). -/

/-- The heartbeat of a lane (R378). -/
def heartbeat (k : Clk) (n : Fin 512) (lane ahead : Nat) (c : Chip) : Chip :=
  let role := pairRole c
  let cone := chipCone c
  let e := c.pair.echo
  let flags := b2n (decide (role = 3)) + 2 * b2n (pairSync c) + 4 * b2n (bit cone.toNat 63) + 8 * b2n e.isSome
  let echo := match e with | some (s, r, t) => leBytes 4 s ++ leBytes 12 (stamp96 r) ++ leBytes 12 t | none => List.replicate 28 0
  let body := leBytes 12 (stamp96 (pairTxStamp k c n lane ahead)) ++ echo ++ leBytes 8 cone.toNat
  let no := (Chip.get c .sag (if role = 3 then 0x080 else 0x078)).toNat
  Chip.bump (linkSend k n (some lane) ahead 0x01 flags no body c) .sag 0x100

/-- One heartbeat on every lane that is up, at clock 64 (R384); `ahead` is the clocks for which frames ahead hold a lane. -/
def heartbeatSend (k : Clk) (ahead : List (Nat × Nat)) (c : Chip) : Chip :=
  match pairOut c with
  | some n =>
    if pairRole c = 0 ∨ k.clock ≠ 64 ∨ c.pair.beatTurn = some k.turn then c
    else
      (pairLanes c).foldl (fun c l => heartbeat k n l (kvGet 0 ahead l) c) (setPair { c.pair with beatTurn := some k.turn } c)
  | none => c

/-- Does the port that a frame comes on take none, for it quiesces (R97)? -/
def drained (c : Chip) (n : Option (Fin 512)) : Bool := match n with | some n => portQuiesce c n | none => true

/-- A pair link frame passes R379, or is counted and gives none; one of a message type that is none of the link is not taken.
Assumption 89 (DEDUCED, safe). -/
def linkAccept (bs : List Byte) (msg : Nat) (roles : List Nat) (c : Chip) : Chip × Option PairMsg :=
  let m := parsePair bs 14 0
  if pairRole c = 0 ∨ drained c (pairUp c) = true ∨ wireNat bs 12 2 ≠ Chip.live c .sag 0x04C 15 0 ∨
      (m.msg ≠ msg ∧ m.msg ∈ [0x01, 0x02, 0x03]) then (c, none)
  else if !m.ok || decide (m.sender ≠ peerId c) then (Chip.bump c .sag 0x120, none)
  else if m.epoch ≠ roleEpoch c then (Chip.bump c .sag 0x118, none)
  else if m.msg ≠ msg ∨ (pairRole c) ∉ roles then (Chip.bump c .sag 0x120, none)
  else (c, some m)

/-- A stamp as a field of 12 bytes lays it out (R129). -/
def stampField (bs : List Byte) (o : Nat) : Nat := stampOf (memNat bs (o + 6) 6) (memNat bs o 6)

/-- The offset report of a heartbeat (R387). Assumption 88 (DEDUCED, unsafe). -/
def pairOffset (rx : Nat) (body : List Byte) : Int :=
  (stampDiff rx (stampField body 0) - stampDiff (stampField body 16) (stampField body 28)) / 2

/-- A heartbeat received (R384, R385, R387, R388). -/
def heartbeatRx (k : Clk) (cap : RxCapture) (bs : List Byte) (c : Chip) : Chip :=
  let r := linkAccept bs 0x01 [1, 2, 3] c
  match r.2, pairUp c with
  | some m, some n =>
    let w := startCapture k c n 9 cap
    let rx := ingressStamp c n w
    let active := bit m.flags 0
    let role := pairRole c
    let alone := !active && decide (c.pair.lastAct + missClocks c ≤ Clk.abs k)
    let c := Chip.put (Chip.bump (probeRx n w rx r.1) .sag 0x108) .sag 0x088 (BitVec.ofNat 64 (memNat m.body 40 8))
    let p := c.pair
    let c := setPair { p with
      lastHb := Clk.abs k, lastAct := if active then Clk.abs k else p.lastAct, silence := 0, settled := false
      longGone := false, echo := some (m.seq, rx, memNat m.body 0 12)
      unacked := if role = 3 then p.unacked.filter (fun e => decide (e.1 ≠ m.no)) else p.unacked } c
    let c := if role = 1 ∧ active = true ∧ bit m.flags 3 = true ∧ Chip.src c = 3 then offsetReport k (pairOffset rx m.body) c else c
    if (active && bit m.flags 2) || alone then claimCond k c else c
  | _, _ => r.1

/-- No valid heartbeat for T_miss (R385, R392). Assumption 86 (DEDUCED, unsafe). -/
def heartbeatMiss (k : Clk) (c : Chip) : Chip :=
  let p := c.pair
  let role := pairRole c
  if role = 0 ∨ Clk.abs k < p.lastHb + missClocks c then c
  else if role = 3 then
    if p.silence ≠ 0 then c else Chip.bump (setPair { p with silence := 1 } c) .sag 0x110
  else
    let kind := if p.settled || (Chip.liveFlag c .sag 0x040 18 && pinAlive k c) then 2 else 1
    if p.silence = kind then c
    else
      let c := Chip.bump (setPair { p with silence := kind } c) .sag 0x110
      if kind = 1 then claimCond k c else pairQuery k (unsync c)

/-- Heartbeats absent for 256 turns without a GRANT (R392). -/
def silenceUnsync (k : Clk) (c : Chip) : Chip :=
  if (pairRole c = 1 ∨ pairRole c = 2) ∧ c.pair.longGone = false ∧ c.pair.lastHb + 409600 ≤ Clk.abs k then
    unsync (setPair { c.pair with longGone := true } c)
  else c

/-! Answers of the witness (R379 to R381, R385, R392). -/

/-- A witness message for the port, of type `msg` or of none that is known; whether its check passes. -/
def witParse (c : Chip) (n : Fin 512) (bs : List Byte) (msg : Nat) : Option (PairMsg × Bool) :=
  let o := witType bs + 2
  let m := parsePair bs o 8
  if Chip.modeAt c n = 0 ∨ Chip.isUp c n = false ∨ portQuiesce c n = true ∨ isWitness c n bs = false ∨
      (m.msg ≠ msg ∧ m.msg ∈ [0x10, 0x11, 0x12, 0x13, 0x18, 0x19, 0x1A, 0x1B]) then none
  else some (m, m.ok && (match witKey c with | some key => witCheck key bs o m | none => false))

/-- An answer passes R379 and belongs to a request that `roles` and `asked` allow, or is counted. -/
def answerAccept (n : Fin 512) (bs : List Byte) (msg : Nat) (roles asked : List Nat) (c : Chip) :
    Chip × Option (PairMsg × WitReq) :=
  match witParse c n bs msg with
  | none => (c, none)
  | some (m, ok) =>
    if !ok || decide (m.sender ≠ 0x8000 + witId c) then (Chip.bump c .sag 0x120, none)
    else if m.epoch ≠ roleEpoch c then (Chip.bump c .sag 0x118, none)
    else
      match c.pair.reqs.find? (fun r => decide (r.id = m.seq) && asked.contains r.msg) with
      | some r => if m.msg = msg ∧ pairRole c ∈ roles then (c, some (m, r)) else (Chip.bump c .sag 0x120, none)
      | none => (Chip.bump c .sag 0x120, none)

/-- A request has its answer: WIT_OK, no timeouts in a row, WIT_FAIL clear (R381); a CLAIM is not repeated (R380). -/
def answered (r : WitReq) (c : Chip) : Chip :=
  let p := c.pair
  let c := setPair { p with
    reqs := p.reqs.filter (fun q => decide (q.id ≠ r.id)), timeouts := 0
    claim := if p.claim.map (·.1) = some r.id then none else p.claim } c
  Chip.setFld (Chip.setFld c .sag 0x068 7 7 1) .sag 0x010 11 11 0

/-- GRANT (R380, R381). -/
def pairGrant (k : Clk) (n : Fin 512) (bs : List Byte) (c : Chip) : Chip :=
  let r := answerAccept n bs 0x18 [2, 3] (if pairRole c = 2 then [0x10] else [0x11]) c
  match r.2 with
  | none => r.1
  | some (m, q) =>
    let held := memNat m.body 6 2
    let leaseEnd := q.first + held + 64
    if q.first + held + 32 < k.turn then Chip.bump r.1 .sag 0x118
    else
      let c := answered q r.1
      let old := (Chip.get c .sag 0x070).toNat
      if pairRole c = 2 then takeover k (memNat m.body 0 4) (Chip.put c .sag 0x070 (BitVec.ofNat 64 leaseEnd))
      else Chip.put c .sag 0x070 (BitVec.ofNat 64 (max old leaseEnd))

/-- DENY (R380, R385, R392). -/
def pairDeny (n : Fin 512) (bs : List Byte) (c : Chip) : Chip :=
  let r := answerAccept n bs 0x19 [2] [0x10] c
  match r.2 with
  | none => r.1
  | some (m, q) =>
    let c := setRole 1 (Chip.bump (adoptEpoch (memNat m.body 0 4) (answered q r.1)) .sag 0x168)
    let c := setPair { c.pair with claim := none } c
    if c.pair.silence = 0 then setSync false c
    else unsync (setPair { c.pair with silence := 2, settled := true } c)

/-- STATUS (R380, R385, R392). -/
def pairStatus (k : Clk) (n : Fin 512) (bs : List Byte) (c : Chip) : Chip :=
  let r := answerAccept n bs 0x1A [1, 2] [0x10, 0x11, 0x13] c
  match r.2 with
  | none => r.1
  | some (m, q) =>
    let c := adoptEpoch (memNat m.body 0 4) (answered q r.1)
    let vacant := decide (memNat m.body 8 1 = 1)
    let c := if !vacant && decide (memNat m.body 4 2 = peerId c) && decide (c.pair.silence ≠ 0)
      then unsync (setPair { c.pair with silence := 2, settled := true } c) else c
    if vacant then claimCond k c else c

/-- DEPOSE (R380): an ACTIVE chip is demoted, another adopts NEW_EPOCH. -/
def pairDepose (k : Clk) (n : Fin 512) (bs : List Byte) (c : Chip) : Chip :=
  let r := answerAccept n bs 0x1B [1, 2, 3] [0x10, 0x11, 0x13] c
  match r.2 with
  | none => r.1
  | some (m, q) =>
    let c := answered q r.1
    if pairRole c = 3 then demote k c else adoptEpoch (memNat m.body 0 4) c

/-! The witness (R382, R383): SAG table 0x02. -/

def witRow (c : Chip) (r o n : Nat) : Nat := Chip.rowNat c .sag 2 r o n

/-- An instant of a witness row in clocks: its turn is the row's, its clock is kept beside the row (R382). A row written by the
host gives clock 0. -/
def witInstant (c : Chip) (r o kept : Nat) : Nat := if kept / 1600 = witRow c r o 8 then kept else witRow c r o 8 * 1600

/-- LAST of a row, and the first receipt of its pending claim (R382). -/
def witLast (c : Chip) (r : Nat) : Nat := witInstant c r 12 (kvGet (0, 0) c.pair.witAt r).1
def witFirst (c : Chip) (r : Nat) : Nat := witInstant c r 20 (kvGet (0, 0) c.pair.witAt r).2

/-- LAST, or the first receipt, is instant `at_`. -/
def setWitLast (r at_ : Nat) (c : Chip) : Chip :=
  let c := setPair { c.pair with witAt := kvPut c.pair.witAt r (at_, witFirst c r) } c
  Chip.setRowNat c .sag 2 r 12 8 (at_ / 1600)
def setWitFirst (r at_ : Nat) (c : Chip) : Chip :=
  let c := setPair { c.pair with witAt := kvPut c.pair.witAt r (witLast c r, at_) } c
  Chip.setRowNat c .sag 2 r 20 8 (at_ / 1600)

/-- No lease is held: HOLDER is none, or LAST + L has come; L is 102,502.4 clocks and WIT_MARGIN turns (R382). -/
def vacantAt (c : Chip) (r now : Nat) : Bool :=
  decide (witRow c r 8 2 = 0xFFFF) || decide (witLast c r + 102503 + 1600 * Chip.live c .sag 0x060 15 8 ≤ now)

/-- The row of the pair a chip is a member of. -/
def witPair (c : Chip) (id : Nat) : Option Nat :=
  (List.range 16).find? (fun r => bit (witRow c r 28 1) 0 && (decide (witRow c r 0 2 = id) || decide (witRow c r 2 2 = id)))

/-- An answer sent (R378, R382). -/
def witReply (k : Clk) (f : WitFrom) (msg r heldTurns : Nat) (c : Chip) : Chip :=
  match witKey c with
  | none => Chip.cause c .sag 11
  | some key =>
    let body := leBytes 4 (witRow c r 4 4) ++ leBytes 2 (witRow c r 8 2) ++ leBytes 2 heldTurns ++
      leBytes 1 (b2n (vacantAt c r (Clk.abs k))) ++ List.replicate 7 0
    witSend k (Fin.ofNat 512 f.port) f.mac f.tag msg f.epoch (0x8000 + chipId c) f.reqId body key c

/-- A claim of member `id` granted, counted from its first receipt at `first`: HELD is the whole turns since, and LAST the
receipt plus HELD. -/
def witGrant (k : Clk) (f : WitFrom) (r id first : Nat) (c : Chip) : Chip :=
  let held := (Clk.abs k - first) / 1600
  let c := Chip.setRowNat c .sag 2 r 4 4 (witRow c r 4 4 + 1)
  let c := Chip.setRowNat (Chip.setRowNat c .sag 2 r 8 2 id) .sag 2 r 10 2 0xFFFF
  let c := setWitLast r (first + held * 1600) c
  witReply k f 0x18 r held (setPair { c.pair with held := kvErase c.pair.held r } c)

/-- HOLDER renews or claims: GRANT, and a pending claim is denied. -/
def witRenew (k : Clk) (f : WitFrom) (r : Nat) (c : Chip) : Chip :=
  let c := witReply k f 0x18 r 0 (setWitLast r (Clk.abs k) c)
  let pend := witRow c r 10 2
  if pend = 0xFFFF then c
  else
    let from_ := kvFind c.pair.held r
    let c := setPair { c.pair with held := kvErase c.pair.held r } (Chip.setRowNat c .sag 2 r 10 2 0xFFFF)
    match from_ with
    | some g => witReply k g 0x19 r 0 c
    | none => c

/-- A held claim granted (R382). -/
def witHeldGrant (k : Clk) (r : Fin 16) (c : Chip) : Chip :=
  let c := meetRows k 3 .sag 2 [r.val] c
  let pend := witRow c r 10 2
  match kvFind c.pair.held r.val with
  | some f =>
    if Chip.liveFlag c .sag 0x040 24 && bit (witRow c r 28 1) 0 && decide (pend ≠ 0xFFFF) && vacantAt c r (Clk.abs k) then
      witGrant k f r pend (witFirst c r) c
    else c
  | none => c

/-- A request taken by the serving witness (R379, R382, R383); a chip that does not serve takes none.
Assumption 90 (DEDUCED, safe). -/
def witnessRx (k : Clk) (n : Fin 512) (bs : List Byte) (msg : Nat) (c : Chip) : Chip :=
    match witParse c n bs msg with
    | none => c
    | some (m, ok) =>
      if !Chip.liveFlag c .sag 0x040 24 || decide (m.msg ≠ msg) then
        Chip.bump c .sag (if ok && decide (m.epoch ≠ roleEpoch c) then 0x118 else 0x120)
      else
      let c := meet k 3 (LookupErr.inTables .sag [2]) c
      match (if ok then witPair c m.sender else none) with
      | none => Chip.bump c .sag 0x120
      | some r =>
        let f : WitFrom := ⟨n.val, slice bs 6 6, if witType bs = 16 then slice bs 12 4 else [], m.seq, m.epoch⟩
        let holder := decide (witRow c r 8 2 = m.sender)
        if m.epoch ≠ witRow c r 4 4 then witReply k f (if msg = 0x11 then 0x1B else 0x1A) r 0 c
        else if msg = 0x13 then witReply k f 0x1A r 0 c
        else if msg = 0x12 then
          if !holder then c
          else
            let c := Chip.setRowNat c .sag 2 r 8 2 0xFFFF
            match kvFind c.pair.held r with
            | some g => if witRow c r 10 2 ≠ 0xFFFF then witGrant k g r (witRow c r 10 2) (witFirst c r) c else c
            | none => c
        else if holder then witRenew k f r c
        else if msg = 0x11 then witReply k f 0x1B r 0 c
        else
          let again := decide (witRow c r 10 2 = m.sender)
          if vacantAt c r (Clk.abs k) then witGrant k f r m.sender (if again then witFirst c r else Clk.abs k) c
          else if again then c
          else
            let c := setWitFirst r (Clk.abs k) (Chip.setRowNat c .sag 2 r 10 2 m.sender)
            setPair { c.pair with held := kvPut c.pair.held r f } c

/-! The slip, sent (R388, R398). -/

/-- A block padded to 64 bytes. -/
def block64 (bs : List Byte) : List Byte := slice bs 0 64

def recHead (type n x : Nat) : List Byte := [BitVec.ofNat 8 type, BitVec.ofNat 8 n, BitVec.ofNat 8 x, 0]

/-- The record of an entry, as blocks. -/
def slipRecord (k : Clk) (d : Dirty) (c : Chip) : List (List Byte) :=
  let x : Cx := Fin.ofNat 2 d.cx
  match d.kind with
  | 1 =>
    let g (o n : Nat) : List Byte := Chip.row c (sesPage x) 0 d.idx o n
    let r := recHead 1 2 d.cx ++ leBytes 4 d.idx ++ g 0 40 ++ g 104 8 ++ g 40 8 ++ g 48 12 ++ g 60 12 ++ g 72 8 ++ g 80 8 ++
      g 88 4 ++ g 92 4 ++ g 96 2 ++ g 100 2 ++ g 102 2
    [block64 r, block64 (r.drop 64)]
  | 2 =>
    let m := (getMeter c x d.idx).refill (Clk.abs k)
    let b := meterBytes m
    [block64 (recHead 2 1 d.cx ++ leBytes 4 d.idx ++ slice b 0 32 ++ slice b 40 8 ++ leBytes 8 (shortStamp k))]
  | _ =>
    let st : RecovSt := kvGet {} c.recov d.idx
    [block64 (recHead 3 1 0 ++ leBytes 4 d.idx ++ leBytes 8 (Chip.rowNat c .cap 0 d.idx 0 8) ++ leBytes 2 st.point ++
      List.replicate 6 0 ++ leBytes 32 st.hist)]

/-- Every mirrored entry, in index order by kind. -/
def mirrored (c : Chip) : List Dirty :=
  (complexes c.part).flatMap (fun x =>
    ((c.rowsOf (sesPage x) 0).filter (fun r => sesValid c x r && bit (sesCtl c x r) 9)).map (fun r => (⟨1, x.val, r⟩ : Dirty))) ++
  (complexes c.part).flatMap (fun x =>
    ((c.rowsOf (mtrPage x) 0).filter (fun r => meterValid c x r && bit (getMeter c x r).ctl 4)).map
      (fun r => (⟨2, x.val, r⟩ : Dirty))) ++
  ((c.rowsOf .cap 0).filter (fun s => bit (streamCtl c s) 0 && bit (streamCtl c s) 3)).map (fun s => (⟨3, 0, s⟩ : Dirty))

def Dirty.before (a b : Dirty) : Bool :=
  decide (a.kind < b.kind) || (decide (a.kind = b.kind) && (decide (a.cx < b.cx) || (decide (a.cx = b.cx) && decide (a.idx < b.idx))))

/-- Is the error's row one that the slip may read: a mirrored table's (R388)? -/
def slipReads (c : Chip) (e : LookupErr) : Bool :=
  LookupErr.inTables .cap [0] e ||
  (complexes c.part).any (fun x => LookupErr.inTables (sesPage x) [0] e || LookupErr.inTables (mtrPage x) [0] e)

/-- Entries taken while their records fit in `room` blocks; the rest. -/
def takeRoom : Nat → List Dirty → List Dirty × List Dirty × Nat
  | room, [] => ([], [], room)
  | room, d :: ds =>
    let n := if d.kind = 1 then 2 else 1
    if n ≤ room then
      let r := takeRoom (room - n) ds
      (d :: r.1, r.2.1, r.2.2)
    else ([], d :: ds, room)

/-- One SLIP_DATA frame of at most `n` blocks: owed entries, entries owed again, then the refresh walk (R388). -/
def slipSend (k : Clk) (n : Fin 129) (c : Chip) : Chip :=
  match pairOut c, c.pair.opened with
  | some port, some s =>
    if pairRole c ≠ 3 ∨ c.pair.closing.isSome = true ∨ c.pair.silence ≠ 0 then c
    else
      let c := meet k 3 (slipReads c) c
      let nc := (complexes c.part).length
      let base := nc + s.blocks.length
      let a := takeRoom (min n.val (65535 - base)) c.dirty
      let b := if a.2.1.isEmpty then takeRoom a.2.2 c.pair.again else ([], c.pair.again, 0)
      let all := mirrored c
      let togo := match c.pair.walk with | some w => all.filter (fun d => Dirty.before w d) | none => all
      let w := if b.2.1.isEmpty then takeRoom b.2.2 togo else ([], togo, 0)
      let ended := b.2.1.isEmpty && w.2.1.isEmpty
      let es := a.1 ++ b.1 ++ w.1
      let blocks := es.flatMap (fun d => slipRecord k d c)
      let s := { s with blocks := blocks.reverse ++ s.blocks, sent := s.sent ++ es, pass := s.pass || ended }
      let walk := if ended then none else match w.1.getLast? with | some d => some d | none => c.pair.walk
      let c := setPair { c.pair with opened := some s, again := b.2.1, walk := walk } { c with dirty := a.2.1 }
      if blocks.isEmpty then c
      else
        Chip.bumpBy (linkSend k port none 0 0x02 0 s.no (leBytes 4 base ++ leBytes 4 0 ++ blocks.flatten) c) .sag 0x130 blocks.length
  | _, _ => c

/-- The journal head of a complex for the close turn (R398): none while a range closed by its clock 0 waits for its
seal. -/
def journalHead (k : Clk) (x : Cx) (c : Chip) : Option (List Byte) :=
  let j := Chip.jrnOf c x
  let at_ := k.turn * 1600
  let head (agreed : Nat) (tag : List Byte) (idw : Nat) : List Byte :=
    block64 (recHead 4 1 x.val ++ leBytes 4 0 ++ leBytes 8 agreed ++ slice tag 0 16 ++ leBytes 12 (stamp96 c.pair.stamp0) ++
      leBytes 2 idw)
  if !sealOn c x then
    some (head (kvGet 0 c.pair.seq0 x.val + 2 ^ 64 - 1) [] (idWord c x (Chip.live c (jrnPage x) 0x040 23 22) false))
  else if j.closed.any (fun r => !r.shadow && decide (r.closeC ≤ at_)) then none
  else
    match j.sealed.find? (fun e => decide (e.1 ≤ at_)) with
    | some (_, agreed, tag, idw) => some (head agreed tag idw)
    | none =>
      let v := (Config.firstHead x.val).toNat
      some (head (bits v 63 0) (leBytes 16 (bits v 191 64)) (bits v 207 192))

/-- CHECK of an epoch (R388): the slip-epoch use of the check units. -/
def slipCheck (no : Nat) (bs : List Byte) : Nat :=
  let r := chkFeedFrom 64 (fun _ => 0) 0 bs ⟨{ ctl := 70, seed := 2 ^ 64 - 1, base := no * 65536 }, 2 ^ 64 - 1, []⟩
  chkFinal 70 r.reg

/-- The close of the previous epoch, in the turn that begins a slip epoch (R24, R388).
Assumption 87 (DEDUCED, unsafe). -/
def slipClose (k : Clk) (c : Chip) : Chip :=
  match c.pair.closing with
  | none => c
  | some s =>
    if pairRole c ≠ 3 ∨ k.turn ≠ 16 * (s.no + 1) then c
    else if c.pair.silence ≠ 0 ∨ (pairOut c).isNone = true then oweAgain s.sent (setPair { c.pair with closing := none } c)
    else
      match pairOut c, (complexes c.part).mapM (fun x => journalHead k x c) with
      | some port, some heads =>
        let blocks := heads ++ s.blocks.reverse
        let c := Chip.bumpBy (linkSend k port none 0 0x02 0 s.no (leBytes 8 0 ++ heads.flatten) c) .sag 0x130 heads.length
        let c := linkSend k port none 0 0x03 (b2n s.pass) s.no
          (leBytes 4 blocks.length ++ leBytes 4 0 ++ leBytes 8 (slipCheck s.no blocks.flatten)) c
        let c := Chip.put c .sag 0x080 (BitVec.ofNat 64 s.no)
        let old := c.pair.unacked.filter (fun e => decide (e.1 + 2 ≤ s.no))
        let c := setPair { c.pair with
          closing := none
          unacked := c.pair.unacked.filter (fun e => decide (s.no < e.1 + 2)) ++ [(s.no, s.sent)] } c
        oweAgain (old.flatMap (·.2)) c
      | _, _ => c

/-- The close has missed its turn (R25, R26): the epoch is abandoned. True says that there was one. -/
def slipMissed (c : Chip) : Chip × Bool :=
  match c.pair.closing with
  | some s => (Chip.bump (oweAgain s.sent (setPair { c.pair with closing := none } c)) .sag 0x148, true)
  | none => (c, false)

/-! The slip, received (R389). -/

/-- An epoch discarded whole (R389, R392). -/
def slipDiscard (c : Chip) : Chip :=
  let n := c.pair.failRow + 1
  let c := Chip.bump (Chip.cause c .sag 14) .sag 0x140
  let c := setPair { c.pair with failRow := n, chain := none } c
  if n = 4 then unsync c else c

/-- Epochs before `no` whose SLIP_CLOSE has not come are discarded. -/
def slipOlder (no : Nat) (c : Chip) : Chip :=
  let old := c.pair.rxBuf.filter (fun e => decide (e.1 < no))
  let c := setPair { c.pair with rxBuf := c.pair.rxBuf.filter (fun e => decide (no ≤ e.1)) } c
  old.foldl (fun c _ => slipDiscard c) c

/-- Blocks in the slip buffer. -/
def slipHeld (c : Chip) : Nat := (c.pair.rxBuf.map (fun e => e.2.length)).sum + (c.pair.ready.map (fun e => e.blocks.length)).sum

/-- The 64-byte blocks of a body, with their numbers from `b` on. -/
def numbered : Nat → Nat → List Byte → List (Nat × List Byte)
  | 0, _, _ => []
  | n + 1, b, bs => (b, bs.take 64) :: numbered n (b + 1) (bs.drop 64)

/-- A slip frame that passes R379: none is taken while QUIESCE_REQ is set, and epochs accepted before are applied (R66,
R397). Assumption 159 (DEDUCED, unsafe). -/
def slipAccept (bs : List Byte) (msg : Nat) (c : Chip) : Chip × Option PairMsg :=
  let r := linkAccept bs msg [1, 2] c
  if Chip.flag c .sag 0x008 1 then (r.1, none) else r

/-- SLIP_DATA received. -/
def slipDataRx (bs : List Byte) (c : Chip) : Chip :=
  let r := slipAccept bs 0x02 c
  match r.2 with
  | none => r.1
  | some m =>
    let c := slipOlder m.no r.1
    if c.pair.dead = some m.no then c
    else
      let new := numbered ((m.len - 8) / 64) (memNat m.body 0 4) (m.body.drop 8)
      if slipHeld c + new.length > 65536 then
        slipDiscard (setPair { c.pair with rxBuf := kvErase c.pair.rxBuf m.no, dead := some m.no } c)
      else
        let got := new.foldl (fun l b => kvPut l b.1 b.2) (kvGet [] c.pair.rxBuf m.no)
        setPair { c.pair with rxBuf := kvPut c.pair.rxBuf m.no got } c

/-- SLIP_CLOSE received. -/
def slipCloseRx (bs : List Byte) (c : Chip) : Chip :=
  let r := slipAccept bs 0x03 c
  match r.2 with
  | none => r.1
  | some m =>
    let c := slipOlder m.no r.1
    if c.pair.dead = some m.no then setPair { c.pair with dead := none } c
    else
      let got := kvGet [] c.pair.rxBuf m.no
      let c := setPair { c.pair with rxBuf := kvErase c.pair.rxBuf m.no } c
      let n := memNat m.body 0 4
      let pass := bit m.flags 0
      let blocks := (got.filter (fun b => decide (b.1 < n))).map (·.2)
      let newer := (!c.pair.applied || decide ((Chip.get c .sag 0x078).toNat < m.no)) && c.pair.ready.all (fun e => decide (e.no < m.no))
      if newer && decide (blocks.length = n) && decide (memNat m.body 8 8 = slipCheck m.no blocks.flatten) then
        setPair { c.pair with ready := c.pair.ready ++ [⟨m.no, blocks, pass⟩] } c
      else
        let c := slipDiscard c
        if pass then setPair { c.pair with chain := some m.no } c else c

/-! The slip, applied (R390 to R392). -/

/-- CONTROL of a session taken from the slip, but for BATCH, KIND and SEEN. -/
def slipControl (own new : Nat) : Nat := setBits (setBits new 13 11 (bits own 13 11)) 4 4 (bits own 4 4)

/-- A mirrored session merged (R390). -/
def applySession (k : Clk) (b : List Byte) (c : Chip) : Chip :=
  let x : Cx := Fin.ofNat 2 (bits (memNat b 2 1) 0 0)
  let p := sesPage x
  let key := slice b 8 40
  let ctl := memNat b 48 8
  let prof := bits ctl 3 1
  let w := 8 * (bits (Chip.getLive c p (0x228 + 0x30 * prof)).toNat 27 25 + 1)
  let found := findKey c x key prof
  let r : Chip × Option Nat × Bool :=
    match found with
    | some i => (c, some i, false)
    | none =>
      if !bit ctl 0 then (c, none, false)
      else
        let o : KeyOp := { op := 1, key := key, profile := prof, ctrl := ctl, seq := memNat b 56 8, meter := memNat b 114 2
                           stream := memNat b 116 2, evict := false }
        let q := kopInsert k x o 0 (kopMeet k 1 x o c)
        if q.2.1 = 3 then (Chip.bump q.1 .sag 0x150, none, true) else (q.1, q.2.2, true)
  match r.2.1 with
  | none => r.1
  | some i =>
    let c := r.1
    let fresh := r.2.2
    let own (o n : Nat) : Nat := Chip.rowNat c p 0 i o n
    let c' := Chip.setRowNat c p 0 i 104 8 (slipControl (own 104 8) ctl)
    let c' := Chip.setRowNat (Chip.setRowNat c' p 0 i 100 2 (memNat b 114 2)) p 0 i 102 2 (memNat b 116 2)
    let d := signed w ((memNat b 56 8 % 2 ^ w + 2 ^ w - own 40 8 % 2 ^ w) % 2 ^ w)
    let c' := if d > 0 then Chip.setRowNat c' p 0 i 40 8 (memNat b 56 8) else c'
    let more (so o n : Nat) (c : Chip) : Chip := Chip.setRowNat c p 0 i o n (max (own o n) (memNat b so n))
    let c' := more 88 72 8 (more 96 80 8 (more 104 88 4 (more 108 92 4 (more 112 96 2 c'))))
    let stamp (v : Nat) : Nat := stampOf (v / 2 ^ 48) (v % 2 ^ 48)
    let unseen := fresh || !bit (own 104 8) 4
    let c' := if unseen || decide (stampDiff (stamp (memNat b 64 12)) (stamp (own 48 12)) < 0)
      then Chip.setRow c' p 0 i 48 (slice b 64 12) else c'
    if unseen || decide (stampDiff (stamp (memNat b 76 12)) (stamp (own 60 12)) > 0)
      then Chip.setRow c' p 0 i 60 (slice b 76 12) else c'

/-- A mirrored meter merged (R390). -/
def applyMeter (k : Clk) (b : List Byte) (c : Chip) : Chip :=
  let x : Cx := Fin.ofNat 2 (bits (memNat b 2 1) 0 0)
  let i := memNat b 4 2
  let now := Clk.abs k
  let age := (stampDiff (Clk.stamp k) (extendShort k (memNat b 48 8))).toNat * 100 / 4194304
  let slip := meterOf (slice b 8 32 ++ leBytes 8 (now - age) ++ slice b 40 8)
  let slip := { slip with last := 0 }.refill age
  let own := { getMeter c x i with cir := slip.cir, pir := slip.pir, cbs := slip.cbs, pbs := slip.pbs }
  let old := (getMeter c x i).refill now
  let valid := meterValid c x i
  let m : Meter := { own with
    ctl := slip.ctl, last := now
    tc := if valid then min slip.tc old.tc else slip.tc
    tp := if valid then min slip.tp old.tp else slip.tp }
  Chip.setRow c (mtrPage x) 0 i 0 (meterBytes m)

/-- A mirrored stream merged (R390). -/
def applyStream (b : List Byte) (c : Chip) : Chip :=
  let s := memNat b 4 2
  let c := Chip.setRowNat c .cap 0 s 0 8 (max (Chip.rowNat c .cap 0 s 0 8) (memNat b 8 8))
  let own : RecovSt := kvGet {} c.recov s
  let pt := memNat b 16 2
  if signed 16 ((pt + 65536 - own.point % 65536) % 65536) > 0 then
    { c with recov := kvPut c.recov s { own with point := pt, hist := memNat b 24 32 } }
  else c

/-- A journal head stored, with its shadow mark (R391). -/
def applyHead (b : List Byte) (c : Chip) : Chip :=
  let x := bits (memNat b 2 1) 0 0
  let v := memNat b 32 12
  let lim := stampAdd (stampOf (v / 2 ^ 48) (v % 2 ^ 48)) (-((Chip.live c .sag 0x060 3 0 * 1024 * 65536 : Nat) : Int))
  let ms := kvGet [] c.pair.marks x
  let mark := match ms.find? (fun e => decide (stampDiff e.2 lim ≤ 0)) with
    | some e => e.1
    | none => match ms.getLast? with | some e => e.1 | none => jrnNext c (Fin.ofNat 2 x) true
  let c := setPair { c.pair with heads := kvPut c.pair.heads x ⟨memNat b 8 8, slice b 16 16, memNat b 44 2, mark⟩ } c
  Chip.put c .sag (0x090 + 8 * x) (BitVec.ofNat 64 mark)

/-- One slip record applied. -/
def applyRecord (k : Clk) (b : List Byte) (c : Chip) : Chip :=
  if !hasCx c.part (Fin.ofNat 2 (bits (memNat b 2 1) 0 0)) then c
  else
    match memNat b 0 1 with
    | 1 => applySession k b c
    | 2 => applyMeter k b c
    | 3 => applyStream b c
    | 4 => applyHead b c
    | _ => c

/-- Blocks in order, as records; `n` bounds their number. -/
def applyBlocks (k : Clk) : Nat → List (List Byte) → Chip → Chip
  | 0, _, c => c
  | _, [], c => c
  | n + 1, b :: bs, c =>
    let more := memNat b 1 1 - 1
    applyBlocks k n (bs.drop more) (applyRecord k (b ++ (bs.take more).flatten) c)

/-- The oldest accepted epoch applied (R389, R392). -/
def slipApply (k : Clk) (c : Chip) : Chip :=
  match c.pair.ready with
  | [] => c
  | e :: rest =>
    if pairRole c ≠ 1 ∧ pairRole c ≠ 2 then c
    else
      let c := setPair { c.pair with ready := rest } c
      let c := applyBlocks k e.blocks.length e.blocks c
      let c := Chip.put (Chip.bump c .sag 0x138) .sag 0x078 (BitVec.ofNat 64 e.no)
      let run := decide (c.pair.chain = some (e.no - 1)) && decide (0 < e.no)
      let p := { c.pair with
        applied := true, failRow := 0, chain := if run || e.pass then some e.no else none }
      if run && e.pass then setSync true (setPair p c) else setPair p c

end Sys2Proof.Machine
end

