-- ==== Sys2Proof/Machine/Health.lean ====
section
/-!
DEFINITION. Scrub, spare-row repair, the firing check and the cone report (R405 to R417), and the thermal throttle
(R438 to R444).
-/
namespace Sys2Proof.Machine

/-! Scrub and repair (R406 to R410). -/

/-- A row that is a hard fault: remapped to a free spare of its unit, or not for want of one (R408 to R410). -/
def hardFault (k : Clk) (p : Page) (t r : Nat) (bad : Bool) (c : Chip) : Chip :=
  let x := Page.home p
  let h := Chip.hltOf c x
  let u := repairUnit p t r
  let n := kvGet 0 h.spares u
  if h.remaps.any (fun m => decide (m.1 = p) && decide (m.2.1 = t) && decide (m.2.2.1 = r)) then c
  else if n ≥ 4 then
    Chip.log (Chip.cause (Chip.bump c (hltPage x) 0x128) (hltPage x) 9) k x 0x19 p (r % 2 ^ 24 + t * 2 ^ 24)
  else setHlt x { h with spares := kvPut h.spares u (n + 1), remaps := h.remaps ++ [(p, t, r, n, bad)] } c

/-- A table's number, for what is kept by table. -/
def tabKey (p : Page) (t : Nat) : Nat := Page.base p / 0x1000 * 256 + t

/-- An item of a state store that is no addressed table returns to its first-use state (R404, R449): a queue's notices, its wheel
entry, a node's, a place of a reorder buffer, an in-flight count, a record of a journal buffer, the slip buffer.
Assumption 160 (DESIGN CHOICE, unsafe). -/
def storeFresh (p : Page) (t r : Nat) (c : Chip) : Option Chip :=
  match p, t with
  | .cx x .whl _, 0xF0 =>
    let q := 65536 * x.val + r % 65536
    some (depthSync (qPort c q) (queueDepth q (setNotices q [] c)))
  | .cx x .whl _, 0xF1 => some (wheelRemove (65536 * x.val + r % 65536) c)
  | .cx x .sch i, 0xF1 => some (wheelRemove (if r < 8 then svcNode (laneOf x i.val) r else portNode (laneOf x i.val)) c)
  | .cx x .prs i, 0xF0 => some (eraseFrames (fun f => decide (f.pg / 8 = 4 * x.val + i.val) && decide (f.id = r)) c)
  | .cx _ .slc _, 0xF0 => some (Chip.setFld c p 0x054 (if r = 0 then 15 else 31) (if r = 0 then 0 else 16) 0)
  | .cx x .jrn _, 0xF0 =>
    let j := Chip.jrnOf c x
    some (setJrn x { j with buf := j.buf.eraseIdx r, out := j.out.eraseIdx r } c)
  | .sag, 0xF0 => some (setPair { c.pair with rxBuf := [], ready := [] } c)
  | _, _ => none

/-- A scrubber reads a word of a store that is no addressed table: a correctable one is rewritten (R404, R407). -/
def scrubStore (k : Clk) (p : Page) (t r : Nat) (e : Option EccErr) (c : Chip) : Chip :=
  let x := Page.home p
  if !Page.present c.part p || !awake c x then c
  else
    match storeFresh p t r c, eccMet e with
    | some d, some m =>
      (match eccLost m with
       | none => countCorr x c
       | some _ => Chip.log (countUncorr x (Chip.setFault d p)) k x 0x11 p (r % 2 ^ 24 + t * 2 ^ 24 + m.synd * 2 ^ 32))
    | _, _ => c

/-- What a scrubber finds of word number `i` (R407, R408): a correctable one is remembered; `shared` says that a frame's lookup
finds it too in this clock and answers for it (R405). -/
def scrubFinds (k : Clk) (p : Page) (t r word i : Nat) (shared : Bool) (e : EccErr) (c : Chip) : Chip :=
  let x := Page.home p
  match eccLost e with
  | none =>
    let c := tableCorr p t r e.synd 2 c
    let h := Chip.hltOf c x
    setHlt x { h with seen := if h.seen.contains (tabKey p t, i) then h.seen else (tabKey p t, i) :: h.seen } c
  | some _ =>
    if shared || foundNow k (Chip.hltOf c x) (wordKey p t r word) then c else tableUncorr k p t r word e.synd 2 c

/-- A pass over a table ends: what it found correctable is that of the previous pass (R408); that of the largest segment, the
session entries, counts (R406, R421). -/
def scrubPassEnd (p : Page) (t words : Nat) (c : Chip) : Chip :=
  let x := Page.home p
  let h := Chip.hltOf c x
  let mine (a : Nat × Nat) : Bool := decide (a.1 = tabKey p t)
  let c := setHlt x { h with
    seenPrev := h.seenPrev.filter (fun a => !mine a) ++ h.seen.filter mine, seen := h.seen.filter (fun a => !mine a) } c
  if words = 1048576 then Chip.bump c (hltPage x) 0x118 else c

/-- The scrubber of a table reads its next word: `e` is the error it meets, `hard` says that a candidate's word still fails when it
is written back and read again (R406 to R408). A table is one segment. Assumption 91 (DESIGN CHOICE, unsafe). -/
def scrubRead (k : Clk) (p : Page) (t r word : Nat) (e : Option EccErr) (hard shared : Bool) (c : Chip) : Chip :=
  match tableOf c.part p t with
  | none => scrubStore k p t r e c
  | some info =>
    let x := Page.home p
    let per := ceilDiv info.bytes 16
    let i := per * r + word
    let h := Chip.hltOf c x
    if !Page.present c.part p || !awake c x || decide (r ≥ info.rows) || decide (word ≥ per) ||
        decide (kvGet 0 h.scrubAt (tabKey p t) ≠ i) then c
    else
      let words := per * info.rows
      let s := standing p t r (some word) c
      let c := s.2
      let m := eccMet (e.or s.1)
      let again := match m with | some e => (eccLost e).isNone && h.seenPrev.contains (tabKey p t, i) | none => false
      let c := setHlt x { h with scrubAt := kvPut h.scrubAt (tabKey p t) ((i + 1) % words) } c
      let c := match m with | some e => scrubFinds k p t r word i shared e c | none => c
      let h := Chip.hltOf c x
      let bad := h.suspect.contains (wordKey p t r word)
      let c := if bad then setHlt x { h with suspect := h.suspect.filter (· ≠ wordKey p t r word) } c else c
      let c := if (bad || again) && hard then hardFault k p t r bad c else c
      if i + 1 = words then scrubPassEnd p t words c else c

/-- A row's copy to its spare completes and its address is redirected: the entry reads as before (R409, R421). -/
def remapDone (k : Clk) (p : Page) (t r : Nat) (c : Chip) : Chip :=
  let x := Page.home p
  let h := Chip.hltOf c x
  let test (m : Page × Nat × Nat × Nat × Bool) : Bool := decide (m.1 = p) && decide (m.2.1 = t) && decide (m.2.2.1 = r)
  match h.remaps.find? test with
  | none => c
  | some (_, _, _, spare, bad) =>
    let hp := hltPage x
    let row := (Chip.get c hp 0x120).toNat % 1024
    let c := setHlt x { h with remaps := h.remaps.filter (fun m => !test m) } c
    let rec_ := leBytes 1 (Page.code p) ++ leBytes 1 t ++ leBytes 2 (Page.instNum p) ++ leBytes 4 (r % 2 ^ 24) ++
      leBytes 1 spare ++ leBytes 1 (1 + 2 * b2n bad) ++ List.replicate 6 0
    let c := Chip.cause (Chip.bump (Chip.setRow c hp 0 row 0 rec_) hp 0x120) hp 8
    Chip.log c k x 0x18 p (r % 2 ^ 24 + t * 2 ^ 24 + spare * 2 ^ 32)

/-! The firing check (R411 to R415). -/

/-- Live HLT_MODE: true in windowed mode. Complex 0 holds it for both (R411). -/
def hltWindowed (c : Chip) : Bool := Chip.liveFlag c (hltPage 0) 0x040 0

/-- The parts that use the datapath may run: the HLT page is enabled, and in windowed mode a window is open. -/
def checkMay (c : Chip) (x : Cx) : Bool :=
  awake c x && Chip.enabled c (hltPage x) && (!hltWindowed c || (Chip.hltOf c x).window.isSome)

/-- An engine is drained: no head of its slice stands at it (R178). -/
def engineDrained (c : Chip) (sl : Fin 8) (e : Nat) : Bool :=
  !c.frames.any (fun f => decide (f.2.loc = .parsing) && decide (f.2.pg / 8 = sl.val) && decide (f.2.engine = e))

/-- An engine test begins, at clock 0 (R411, R413): a held engine first, each engine once in a rotation. -/
def engineTest (k : Clk) (sl : Fin 8) (e : Fin 16) (c : Chip) : Chip :=
  let x : Cx := Fin.ofNat 2 (sl.val / 4)
  let h := Chip.hltOf c x
  let all := (List.range 16).filter (fun e => Chip.liveFlag c (prsPage sl) 0x044 e)
  let left := all.filter (fun e => !h.rotated.contains (sl.val, e))
  let fresh := if left.isEmpty then all else left
  let first := fresh.filter (fun e => h.held.contains (sl.val, e))
  let choice := if first.isEmpty then fresh else first
  let soon := match kvFind h.lastTest sl.val with
    | some t => if hltWindowed c then decide (k.turn ≤ t) else decide (k.turn < t + 64)
    | none => false
  if !checkMay c x || !Chip.liveFlag c (hltPage x) 0x040 1 || throttled c x || decide (k.clock ≠ 0) || soon ||
      !choice.contains e.val || h.testing.any (fun t => decide (t.1 = sl.val)) ||
      decide (((enginesIn c sl).filter (fun a => decide (a ≠ e.val))).length < 14) then c
  else
    let rot := (if left.isEmpty then h.rotated.filter (fun t => decide (t.1 ≠ sl.val)) else h.rotated) ++ [(sl.val, e.val)]
    setHlt x { h with
      testing := h.testing ++ [(sl.val, e.val)], rotated := rot, lastTest := kvPut h.lastTest sl.val k.turn } c

/-- The engine under test of a slice, if its test still runs. -/
def underTest (c : Chip) (sl : Fin 8) : Option Nat :=
  let h := Chip.hltOf c (Fin.ofNat 2 (sl.val / 4))
  (h.testing.find? (fun t => decide (t.1 = sl.val) && !h.finished.contains t)).map (·.2)

/-- An engine not drained by clock 512 returns untested (R413). -/
def engineAbandon (k : Clk) (sl : Fin 8) (c : Chip) : Chip :=
  let x : Cx := Fin.ofNat 2 (sl.val / 4)
  match underTest c sl with
  | some e =>
    if k.clock < 512 ∨ engineDrained c sl e = true then c
    else
      let h := Chip.hltOf c x
      Chip.bump (setHlt x { h with testing := h.testing.filter (fun t => decide (t ≠ (sl.val, e))) } c) (hltPage x) 0x140
  | none => c

/-- A test's signature compared (R413): the engine returns at the next turn boundary, or is held. -/
def engineEnd (k : Clk) (sl : Fin 8) (sig : BitVec 32) (c : Chip) : Chip :=
  let x : Cx := Fin.ofNat 2 (sl.val / 4)
  let p := hltPage x
  match underTest c sl with
  | some e =>
    if engineDrained c sl e = false then c
    else
      let c := Chip.bump c p 0x130
      let h := Chip.hltOf c x
      if sig = Config.engineSig then setHlt x { h with finished := h.finished ++ [(sl.val, e)] } c
      else
        let held := if h.held.contains (sl.val, e) then h.held else h.held ++ [(sl.val, e)]
        let c := setHlt x { h with testing := h.testing.filter (fun t => decide (t ≠ (sl.val, e))), held := held } c
        Chip.log (Chip.cause (Chip.bump c p 0x138) p 10) k x 0x20 (prsPage sl) (e + sig.toNat * 2 ^ 32)
  | none => c

/-- A loopback frame sent and compared in a PG, one in a turn, where its buses have free segments and its store room: `bad` is
its first bad segment (R411, R414). -/
def loopbackFrame (k : Clk) (g : Fin 64) (bad : Option (Fin 16)) (c : Chip) : Chip :=
  let x : Cx := Fin.ofNat 2 (g.val / 32)
  let p := hltPage x
  let h := Chip.hltOf c x
  if !checkMay c x || !Chip.liveFlag c p 0x040 2 || throttled c x || decide (kvFind h.loopTurn g.val = some k.turn) ||
      decide (segmentsOf c g.val + 16 > 1024) || !busFree c g.val || !busFree c (64 + g.val) then c
  else
    let c := busExtra (64 + g.val) none 16 (busExtra g.val none 16 c)
    let c := Chip.bump c p 0x148
    let h := { h with loopTurn := kvPut h.loopTurn g.val k.turn }
    let others := h.loopBad.filter (· ≠ g.val)
    match bad with
    | none => setHlt x { h with loopBad := others } c
    | some s =>
      Chip.log (Chip.cause (Chip.bump (setHlt x { h with loopBad := others ++ [g.val] } c) p 0x150) p 11) k x 0x22 p
        (g.val % 32 + s.val * 2 ^ 8)

/-- The distribution is re-measured, once in a turn, and each lane's compensation moved by at most 2 ps, within 20 ps;
`want` gives the move of each lane (R411). -/
def distTrim (k : Clk) (x : Cx) (want : List (Nat × Int)) (c : Chip) : Chip :=
  let h := Chip.hltOf c x
  let turn := match h.window with | some t => decide (t = k.turn) | none => false
  if !awake c x || !Chip.enabled c (hltPage x) || !Chip.liveFlag c (hltPage x) 0x040 3 || (hltWindowed c && !turn) ||
      decide (h.trimTurn = some k.turn) then c
  else
    let clamp (l v : Int) : Int := max (-l) (min l v)
    setHlt x { h with trimTurn := some k.turn, comp := want.foldl (fun m w =>
      kvPut m (w.1 % 256) (clamp 20 (kvGet 0 h.comp (w.1 % 256) + clamp 2 w.2))) h.comp } c

/-- What the SerDes macro reports of a lane (R37, R94, R101): its figure of merit, and its equaliser where continuous
adaptation runs and is not held. -/
def laneRefresh (l : Fin 512) (r : LaneReport) (c : Chip) : Chip :=
  let p := lnePage l
  let v := r.fom % 65536
  let c := Chip.setFld (Chip.setFld c p 0x048 15 0 v) p 0x048 31 16 (min (Chip.fld c p 0x048 31 16) v)
  match r.dfe with
  | some ws =>
    if bit (laneStat c l) 0 then
      let word (j : Nat) : Nat := (ws.getD j 0).toNat
      let c := (List.range 4).foldl (fun c j => Chip.put c p (0x050 + 4 * j) (BitVec.ofNat 64 (word j))) c
      Chip.put (Chip.put c p 0x064 (BitVec.ofNat 64 (word 4))) p 0x060 (BitVec.ofNat 64 (min 124 (max 17 (word 5 % 128))))
    else c
  | none => c

/-- A lane that no port owns is not sampled. -/
def fomNone (x : Cx) (i : Nat) (c : Chip) : Chip :=
  let h := Chip.hltOf c x
  if (kvFind h.fomLow i).isSome then setHlt x { h with fomLow := kvErase h.fomLow i } c else c

/-- A figure of merit of a lane: refreshed, and sampled where `watch` is set (R101, R415). -/
def fomLane (k : Clk) (x : Cx) (watch : Bool) (lanes : List (Nat × LaneReport)) (c : Chip) (i : Nat) : Chip :=
  let l := laneOf x i
  let p := lnePage l
  match laneOwner c l with
  | none => if watch then fomNone x i c else c
  | some _ =>
    let c := match kvFind lanes i with
      | some r => laneRefresh l r c
      | none => c
    if !watch then c
    else
    let v := Chip.fld c p 0x048 15 0
    let c := if v < Chip.fld c p 0x04C 31 16 then Chip.cause c p 9 else c
    let h := Chip.hltOf c x
    if v < Chip.fld c p 0x04C 15 0 then
      let n := kvGet 0 h.fomLow i + 1
      let c := setHlt x { h with fomLow := kvPut h.fomLow i n } c
      if n = 16 then Chip.log (Chip.cause c p 10) k x 0x23 p (l.val + v * 2 ^ 16) else c
    else setHlt x { h with fomLow := kvErase h.fomLow i } c

/-- The figure-of-merit watch, once in a turn and where the health unit is enabled: `lanes` are the macro's reports by lane
position, which refresh the figures in any case. -/
def fomWatch (k : Clk) (x : Cx) (lanes : List (Nat × LaneReport)) (c : Chip) : Chip :=
  let h := Chip.hltOf c x
  let watch := Chip.enabled c (hltPage x) && decide (h.fomTurn ≠ some k.turn)
  if !awake c x then c
  else (List.range 256).foldl (fomLane k x watch lanes) (if watch then setHlt x { h with fomTurn := some k.turn } c else c)

/-! Windows (R412). -/

def logWindow (k : Clk) (x : Cx) (open_ : Bool) (c : Chip) : Chip :=
  Chip.log c k x 0x41 (hltPage x) (b2n open_ + Chip.live c (hltPage x) 0x044 15 0 * 2 ^ 16)

/-- A window opens at a turn boundary. Assumption 92 (DEDUCED, unsafe). -/
def windowOpen (k : Clk) (x : Cx) (c : Chip) : Chip :=
  logWindow k x true (Chip.setFld (setHlt x { Chip.hltOf c x with window := some k.turn } c) (hltPage x) 0x04C 0 0 1)

/-- An open window closes. -/
def windowClose (k : Clk) (x : Cx) (c : Chip) : Chip :=
  match (Chip.hltOf c x).window with
  | some _ => logWindow k x false (Chip.setFld (setHlt x { Chip.hltOf c x with window := none } c) (hltPage x) 0x04C 0 0 0)
  | none => c

/-- A write of HLT_WIN_CMD: OPEN and CLOSE, ignored in continuous mode. -/
def winCmd (x : Cx) (v : Nat) (c : Chip) : Chip :=
  if !hltWindowed c then c
  else
    let h := Chip.hltOf c x
    setHlt x { h with wantOpen := h.wantOpen || bit v 0, wantShut := h.wantShut || bit v 1 } c

/-- A periodic window opens at clock 0 of its turns. -/
def periodicOpen (k : Clk) (x : Cx) (c : Chip) : Chip :=
  let period := Chip.live c (hltPage x) 0x044 31 16
  if hltWindowed c && Chip.enabled c (hltPage x) && decide (period ≠ 0) && decide (k.turn % (16 * period) = 0) &&
      decide (k.clock = 0) && decide ((Chip.hltOf c x).window ≠ some k.turn) then windowOpen k x c
  else c

/-- A window ends after LEN turns. -/
def windowEnd (k : Clk) (x : Cx) (c : Chip) : Chip :=
  match (Chip.hltOf c x).window with
  | some t => if t + max 1 (Chip.live c (hltPage x) 0x044 15 0) ≤ k.turn then windowClose k x c else c
  | none => c

/-- Live HLT_MODE after a commit of complex 0's HLT page; `was` is the mode before it (R411). -/
def modeCommit (k : Clk) (was : Bool) (c : Chip) : Chip :=
  let now := hltWindowed c
  if was = now then c
  else
    let c := (complexes c.part).foldl (fun c x => Chip.setFld c (hltPage x) 0x04C 1 1 (b2n now)) c
    let c := Chip.log c k 0 0x40 (hltPage 0) (b2n was + 2 * b2n now)
    if now then c else (complexes c.part).foldl (fun c x => windowClose k x c) c

/-- What a turn boundary does: windows asked for open or close, engines that passed return (R412, R413). -/
def hltTurn (k : Clk) (x : Cx) (c : Chip) : Chip :=
  let h := Chip.hltOf c x
  let back := h.finished.filter (fun t => h.held.contains t)
  let c := setHlt x { h with
    testing := h.testing.filter (fun t => !h.finished.contains t), held := h.held.filter (fun t => !h.finished.contains t)
    finished := [], wantOpen := false, wantShut := false } c
  let c := back.foldl (fun c t => Chip.log c k x 0x21 (prsPage (Fin.ofNat 8 t.1)) t.2) c
  let c := if h.wantShut then windowClose k x c else c
  if h.wantOpen && hltWindowed c && Chip.enabled c (hltPage x) then windowOpen k x c else c

/-! The cone report (R416, R417). -/

/-- The fatal conditions of a report, as bits. -/
def fatalBits (c : Chip) (x : Cx) : Nat :=
  let h := Chip.hltOf c x
  let few := (List.range 4).any (fun i =>
    decide ((enginesIn c (Fin.ofNat 8 (4 * x.val + i))).length < 13))
  b2n few + 2 * b2n (decide (h.bus ≥ 4)) + 4 * b2n h.noSpare + 8 * b2n (h.loopBad.any (fun g => h.loopPrev.contains g)) +
  16 * b2n (decide (h.uncorr ≥ 16))

/-- DEGRADED of a report. -/
def degraded (c : Chip) (x : Cx) : Bool :=
  let h := Chip.hltOf c x
  h.spares.any (fun s => decide (s.2 > 0)) || !h.held.isEmpty || !h.fomLow.isEmpty || decide (h.uncorr + h.bus > 0)

/-- The cone report's word. -/
def coneWord (k : Clk) (x : Cx) (fatal : Bool) (c : Chip) : Nat :=
  let h := Chip.hltOf c x
  let engOut := ((List.range 4).map (fun i => (h.held.filter (fun t => decide (t.1 = 4 * x.val + i))).length)).foldl max 0
  b2n fatal * 2 ^ 63 + b2n (degraded c x) * 2 ^ 62 + b2n (hltWindowed c) * 2 ^ 61 + x.val * 2 ^ 60 +
  k.turn / 16 % 2 ^ 16 * 2 ^ 40 + (4 - (h.spares.map (·.2)).foldl max 0) * 2 ^ 32 + min 255 h.corr * 2 ^ 24 +
  min 255 (h.uncorr + h.bus) * 2 ^ 16 + min 15 engOut * 2 ^ 12 + min 15 h.loopBad.length * 2 ^ 8 + min 255 h.fomLow.length

/-- The chip's report: complex 0's, with FATAL and DEGRADED of complex 1's. -/
def chipReport (c : Chip) : Chip :=
  let a := Chip.get c (hltPage 0) 0x058
  let b := if hasCx c.part 1 then Chip.get c (hltPage 1) 0x058 else 0
  Chip.put c (hltPage 0) 0x060 (a ||| (b &&& 0xC000000000000000))

/-- The report of a complex, once in each turn that begins a slip epoch. -/
def healthReport (k : Clk) (x : Cx) (c : Chip) : Chip :=
  let h := Chip.hltOf c x
  let p := hltPage x
  if !awake c x || !Chip.enabled c p || decide (k.turn % 16 ≠ 0) || decide (h.built = some (k.turn / 16)) then c
  else
    let fatal := decide (fatalBits c x &&& Chip.live c p 0x040 12 8 ≠ 0)
    let deg := degraded c x
    let c := Chip.put c p 0x058 (BitVec.ofNat 64 (coneWord k x fatal c))
    let c := Chip.setFld (Chip.setFld c p 0x04C 3 3 (b2n deg)) p 0x04C 2 2 (b2n fatal)
    let c := setHlt x { h with
      corr := 0, uncorr := 0, bus := 0, noSpare := false, loopPrev := h.loopBad, built := some (k.turn / 16) } c
    let c := Chip.cause (chipReport c) p 13
    if fatal then Chip.cause (Chip.setFld c p 0x04C 4 4 1) p 12 else c

/-! The thermal throttle (R438 to R444). -/

/-- The junction sensor read in a turn, `v` in units of 0.25 °C (R438, R441). Assumption 94 (DEDUCED, unsafe). -/
def tempReading (k : Clk) (x : Cx) (v : BitVec 16) (c : Chip) : Chip :=
  let p := cpxPage x
  let t := Chip.thermOf c x
  if !hasCx c.part x || decide (t.read_ = some k.turn) then c
  else
    let s := signed 16 v.toNat
    let top := max s (signed 16 (Chip.fld c p 0x180 31 16))
    let c := Chip.put c p 0x180 (BitVec.ofNat 64 (unsigned 16 top * 2 ^ 16 + v.toNat))
    let thr : Int := Chip.live c p 0x184 7 0 * 4
    let low : Int := thr - Chip.live c p 0x184 11 8 * 4
    let warn := decide (s ≥ low)
    let c := if warn && !Chip.flag c p 0x18C 1 then Chip.cause c p 9 else c
    let c := Chip.setFld c p 0x18C 1 1 (b2n warn)
    let hot := if s ≥ thr then t.hot + 1 else 0
    let cool := if throttled c x && decide (s < low) then t.cool + 1 else 0
    let due :=
      if !throttled c x && decide (hot ≥ 4) then some (true, false, v.toNat)
      else if throttled c x && decide (cool ≥ 64) && !Chip.liveFlag c p 0x184 24 then some (false, false, v.toNat)
      else t.due
    setTherm x { t with read_ := some k.turn, hot := hot, cool := cool, due := due, pin := false } c

/-- A commit of the CPX page: WARN follows the new threshold at the latest reading, and a throttle whose FORCE is gone is
lifted at the next turn boundary if 64 readings in a row were cool (R441). -/
def thermCommit (x : Cx) (c : Chip) : Chip :=
  let p := cpxPage x
  let t := Chip.thermOf c x
  let v := Chip.fld c p 0x180 15 0
  let low : Int := Chip.live c p 0x184 7 0 * 4 - Chip.live c p 0x184 11 8 * 4
  let warn := t.read_.isSome && decide (signed 16 v ≥ low)
  let c := if warn && !Chip.flag c p 0x18C 1 then Chip.cause c p 9 else c
  let c := Chip.setFld c p 0x18C 1 1 (b2n warn)
  if throttled c x && decide (t.cool ≥ 64) && !Chip.liveFlag c p 0x184 24 && t.due.isNone then
    setTherm x { t with due := some (false, false, v) } c
  else c

/-- A turn boundary: the throttle is applied or lifted; turns throttled are counted (R441, R443). -/
def thermTurn (k : Clk) (x : Cx) (c : Chip) : Chip :=
  let p := cpxPage x
  let t := Chip.thermOf c x
  let force := Chip.liveFlag c p 0x184 24
  let due := if !throttled c x && force then some (true, true, Chip.fld c p 0x180 15 0) else t.due
  let c := if throttled c x then Chip.bump c p 0x198 else c
  match due with
  | some (true, byForce, v) =>
    if throttled c x then setTherm x { t with due := none, forced := force } c
    else
      let c := Chip.bump (Chip.cause (Chip.setFld c p 0x18C 0 0 1) p 8) p 0x190
      let late := (Chip.hltOf c x).testing
      Chip.log (setTherm x { t with due := none, hot := 0, cool := 0, forced := force, late := late } c) k x 0x50 p
        (1 + 2 * b2n byForce + v * 2 ^ 16)
  | some (false, _, v) =>
    if force then setTherm x { t with due := none, forced := true } c
    else
      Chip.log (setTherm x { t with due := none, hot := 0, cool := 0, late := [] } (Chip.setFld c p 0x18C 0 0 0)) k x 0x50 p
        (2 * b2n t.forced + v * 2 ^ 16)
  | none => if throttled c x then setTherm x { t with forced := force } c else c

end Sys2Proof.Machine
end

