-- ==== Sys2Proof/Machine/Reads.lean ====
section
/-!
DEFINITION. What a register reads (R3, R4, R12, R13, R64, R65, R67): its stored value, or the state it shows.
-/
namespace Sys2Proof.Machine

/-- QUIESCED of a page: the live ENABLE is 0, or a quiesce has completed (R65, R66). A journal that a commit disabled
completes its sequence first (R298, R306). -/
def Chip.quiesced (c : Chip) (p : Page) : Bool :=
  if Chip.enabled c p then Chip.flag c p 0x00C 0
  else
    match p with
    | .cx x .jrn _ => jrnIdle c x
    | _ => true

/-- HDR_STAT (R65): COMMIT_PEND, BUSY and QUIESCED are the state of the page. Assumption 39 (DEDUCED, unsafe). -/
def hdrStat (k : Clk) (c : Chip) (p : Page) : Nat :=
  let v := (Chip.get c p 0x00C).toNat
  setBits (setBits (setBits v 4 4 (b2n (c.commits.any (fun r => decide (r.page = p))))) 1 1 (b2n (Chip.busy c k p))) 0 0
    (b2n (Chip.quiesced c p))

/-- Registers and fields of features the part lacks read zero and ignore writes (R4, R308): the bits of a register that
the part has. -/
def partMask (part : Part) (p : Page) (o : Nat) : Nat :=
  match p with
  | .cx _ .jrn _ =>
    if hasSeal part && hasSaggar part then 2 ^ 64 - 1
    else if o = 0x040 then (if hasSeal part then 2 ^ 64 - 1 else 0xFF0FFFFF)
    else if o = 0x050 ∨ o = 0x058 ∨ o = 0x078 then (if hasSeal part then 2 ^ 64 - 1 else 0)
    else if 0x060 ≤ o ∧ o ≤ 0x070 then (if hasSaggar part && (hasSeal part || decide (o = 0x060)) then 2 ^ 64 - 1 else 0)
    else 2 ^ 64 - 1
  | .cx _ .ses _ =>
    if !hasSaggar part && decide (0x22C ≤ o) && decide (o < 0x380) && decide ((o - 0x22C) % 0x30 = 0) then
      2 ^ 64 - 1 - 2 ^ 8
    else 2 ^ 64 - 1
  | _ => 2 ^ 64 - 1

/-- PROG_CNT and ORIGIN of TIM_CAL_STAT, read from the store (R154). -/
def calStore (c : Chip) : Nat :=
  c.time.calProg % 2 ^ 16 * 2 ^ 16 + (if Chip.flag c .tim 0x044 7 then 0 else Chip.rowNat c .tim 0 0 6 1) * 2 ^ 8

/-- The reset value of the register at an offset, as the part and the calibration store give it (R1, R61, R131, R151,
R154): CPX_CAP is the part's, the capability page is enabled, TIM_INCR is nominal, PROG_CNT and ORIGIN come from the
store, and a calibration field has its power-up load value. ADJ_PEND, CAL_DONE and CAL_BAD read 0 during BUSY.
Assumption 148 (DEDUCED, unsafe). -/
def resetShown (c : Chip) (p : Page) (o : Nat) : Nat :=
  match p, o with
  | .cap, 0x040 => capWord c.part
  | .cap, 0x008 => 1
  | .cx _ .cpx _, 0x040 => capWord c.part
  | .tim, 0x050 => nominalIncr
  | .tim, 0x104 => calStore c
  | _, _ => (kvGet (Page.resetAt p o) c.time.calVals (Page.base p + o)).toNat &&& partMask c.part p o

/-- The value a register shows that is not its stored one. -/
def shown (k : Clk) (c : Chip) (p : Page) (o : Nat) : Option Nat :=
  match p with
  | .cap =>
    if o = 0x040 then some (capWord c.part)
    else if o = 0x008 then some (setBits (Chip.get c p o).toNat 2 0 (Chip.fld c p o 1 1 * 2 + 1)) else none
  | .tim =>
    if o = 0x050 then some k.incr
    else if o = 0x104 then some (calStore c + Chip.fld c .tim 0x104 7 0)
    else none
  | .icu =>
    if 0x040 ≤ o ∧ o < 0x0C0 then some (wordOf (isPending c) ((o - 0x040) / 4))
    else if 0x0C0 ≤ o ∧ o < 0x140 then some (wordOf (icuLevel c) ((o - 0x0C0) / 4))
    else if o = 0x140 then some ((Chip.get c p o).toNat / 2 ^ 16 * 2 ^ 16)
    else if 0x200 ≤ o ∧ o < 0x300 then
      let t := (o - 0x200) / 0x20
      if o % 0x20 = 4 then some (match kvFind c.icu.claims t with | some cl => cl.source | none => 0xFFFF)
      else if o % 0x20 = 0xC then some (targetStat k c t) else none
    else none
  | .sag => if o = 0x068 then some (sagStat k c) else none
  | .func => if 0x200 ≤ o ∧ o < 0x300 then some (funcStat c ((o - 0x200) / 4)) else none
  | .pil => if o = 0x044 then some (setBits (Chip.get c p o).toNat 8 8 (b2n (wakeLow c))) else none
  | .sel => none
  | .cx x t i =>
    let n := laneOf x i.val
    match t with
    | .cpx => if o = 0x040 then some (capWord c.part) else none
    | .pgr => if o = 0x044 then some (laneSummary c (Fin.ofNat 64 (32 * x.val + i.val))) else none
    | .lne => if o = 0x044 then some (laneStat c n) else none
    | .prt =>
      if o = 0x04C then some (linkStat c n)
      else if o = 0x12C then some (Chip.get (pauseSync (Clk.abs k) n c) p o).toNat else none
    | .prs => if o = 0x048 then some (engStat c (Fin.ofNat 8 (4 * x.val + i.val))) else none
    | .glz =>
      if o = 0x058 then
        some (leNat ((List.range 8).map (fun g =>
          BitVec.ofNat 8 (recircQueue c (32 * x.val + 8 * i.val + g)).length)))
      else none
    | .whl =>
      let s := Chip.schedOf c x
      if o = 0x040 then some (Clk.abs k)
      else if o = 0x048 then some (s.coarse.length * 2 ^ 32 + s.fine.length)
      else if o = 0x050 then
        some (((c.notices.filter (fun e => decide (e.1 / 65536 = x.val))).map (fun e => e.2.length)).sum)
      else none
    | .tel => if o = 0x048 then some (64 * ((k.turn + 1) % 1024)) else none
    | .hlt => if o = 0x04C then some (setBits (Chip.get c p o).toNat 1 1 (b2n (hltWindowed c))) else none
    | .log => if o = 0x044 then some ((Chip.logSt c x).entry % 2 ^ 32) else none
    | _ => none

/-- HLT_CTL of complex 1 shows the mode that complex 0 holds (R411, R421). -/
def modeShown (c : Chip) (p : Page) (o v : Nat) : Nat :=
  match p with
  | .cx x .hlt _ => if o = 0x040 ∧ x = 1 then setBits v 0 0 (b2n (hltWindowed c)) else v
  | _ => v

/-- The value of the register at its start offset, at its own offset or in the live view (R64). -/
def readReg (k : Clk) (c : Chip) (p : Page) (live : Bool) (r : Reg) (o : Nat) : Nat :=
  if o = 0x000 then Page.hdrId p
  else if Chip.busy c k p then
    if o = 0x00C then 3
    else if o = 0x028 ∨ o = 0x020 ∨ o = 0x024 then (Chip.get c p o).toNat
    else if o = 0x010 then (Chip.get c p o).toNat / 4 % 2 * 4
    else if o = 0x004 then Page.hdrCap c.part p
    else resetShown c p o
  else if o = 0x004 then Page.hdrCap c.part p
  else if o = 0x00C then hdrStat k c p
  else
    let v := match shown k c p o with
      | some v => v
      | none =>
        let v := Chip.get c p o &&& ~~~(Reg.mask r .wos ||| Reg.mask r .wok)
        modeShown c p o (if live then (merge (Reg.mask r .rws) v (Chip.getLive c p o)).toNat else v.toNat)
    v &&& partMask c.part p o

/-- `n` bytes of register space (4 or 8) from an aligned offset; reserved offsets read zero (R13, R73). -/
def readBytes (k : Clk) (c : Chip) (p : Page) (live : Bool) (o n : Nat) : Nat :=
  let half (o : Nat) : Nat :=
    match Page.regAt p o with
    | some r =>
      let s := Reg.start r o
      readReg k c p live r s / 2 ^ (8 * (o - s)) % 2 ^ 32
    | none => 0
  if n = 8 then
    match Page.regAt p o with
    | some r => if r.bytes = 8 then readReg k c p live r (Reg.start r o) else half o + 2 ^ 32 * half (o + 4)
    | none => half o + 2 ^ 32 * half (o + 4)
  else half o

end Sys2Proof.Machine
end

