-- ==== Sys2Proof/Machine/Sweep.lean ====
section
/-!
DEFINITION. The Sweep (R425 to R436).
-/
namespace Sys2Proof.Machine

def swpPage (x : Cx) : Page := onePage x .swp
def Chip.swpOf (c : Chip) (x : Cx) : SweepSt := kvGet {} c.sweep x.val
def setSwp (x : Cx) (s : SweepSt) (c : Chip) : Chip := { c with sweep := kvPut c.sweep x.val s }

/-- STATE of SWP_STAT: 0 IDLE, 1 RUNNING, 2 WAITING. -/
def swpState (c : Chip) (x : Cx) : Nat := Chip.fld c (swpPage x) 0x054 1 0
def setSwpState (x : Cx) (s : Nat) (c : Chip) : Chip := Chip.setFld c (swpPage x) 0x054 1 0 s
def setSwpStatus (x : Cx) (s : Nat) (c : Chip) : Chip := Chip.setFld c (swpPage x) 0x054 7 4 s

/-! The list (R425, R426). -/

/-- The descriptor of a list row. -/
def sweepDesc (c : Chip) (x : Cx) (r : Nat) : SweepDesc :=
  let b := Chip.row c (swpPage x) 0 r 0 16
  { ptype := memNat b 0 1, table := memNat b 1 1, inst := memNat b 2 2 % 2 ^ 14, regs := bit (memNat b 2 2) 14
    shared := bit (memNat b 2 2) 15, first := memNat b 4 4 % 2 ^ 24, count := memNat b 8 4 % 2 ^ 25
    off := memNat b 12 2, len := memNat b 14 2 }

/-- The rows of a pass: from row 0 up to the first with VALID 0. -/
def sweepList (c : Chip) (x : Cx) : List SweepDesc :=
  ((List.range 256).takeWhile (fun r => bit (Chip.rowNat c (swpPage x) 0 r 4 4) 31)).map (sweepDesc c x)

/-- The descriptor is bad (R426). -/
def sweepBad (c : Chip) (x : Cx) (d : SweepDesc) : Bool :=
  match ownerPage c.part x d.ptype d.inst d.shared with
  | none => true
  | some p =>
    if d.regs then decide (d.first % 8 ≠ 0) || decide (d.first < 0x040) || decide (d.first + 8 * d.count > 0x800)
    else
      match tableOf c.part p d.table with
      | none => true
      | some i =>
        decide (d.first + d.count > i.rows) || decide (d.off + d.len > i.bytes) || decide (d.off % 8 ≠ 0) ||
        decide (d.len % 8 ≠ 0) || decide (d.len = 0)

/-- Bytes of one slice of a descriptor. -/
def SweepDesc.size (d : SweepDesc) : Nat := if d.regs then 8 else d.len

/-- Whole chunks and bytes of the last one after a descriptor is packed (R427): `a` is the state before it. -/
def packDesc (a : Nat × Nat) (d : SweepDesc) : Nat × Nat :=
  let l := d.size
  let fit := (4032 - a.2) / l
  if d.count ≤ fit then (a.1, a.2 + d.count * l)
  else
    let left := d.count - fit
    let per := 4032 / l
    let full := (left - 1) / per
    (a.1 + 1 + full, (left - full * per) * l)

/-- Chunks of a pass. -/
def sweepChunks (ds : List SweepDesc) : Nat :=
  let r := ds.foldl packDesc (0, 0)
  if r.2 = 0 then r.1 else r.1 + 1

/-- The slices of the chunk that begins at slice `i` of descriptor `d`, as descriptor and index; `room` bytes are left and
`n` bounds their number. -/
def chunkSlices (ds : List SweepDesc) : Nat → Nat → Nat → Nat → List (Nat × Nat)
  | 0, _, _, _ => []
  | n + 1, d, i, room =>
    match ds[d]? with
    | none => []
    | some e =>
      if i ≥ e.count then chunkSlices ds n (d + 1) 0 room
      else if e.size ≤ room then (d, i) :: chunkSlices ds n d (i + 1) (room - e.size)
      else []

/-- Where the slice after one stands. -/
def nextSlice (ds : List SweepDesc) (s : Nat × Nat) : Nat × Nat :=
  match ds[s.1]? with
  | some e => if s.2 + 1 < e.count then (s.1, s.2 + 1) else (s.1 + 1, 0)
  | none => s

/-! Passes (R428, R432, R435). -/

/-- A pass refused or ended without a record. -/
def sweepFail (x : Cx) (status : Nat) (c : Chip) : Chip :=
  let c := setSwpStatus x status (setSwpState x 0 c)
  let c := setSwp x { Chip.swpOf c x with running := false, asked := none } c
  Chip.bump (Chip.cause c (swpPage x) 9) (swpPage x) 0x120

/-- START written, or a commit with RUN 1, in IDLE. -/
def sweepStart (k : Clk) (x : Cx) (c : Chip) : Chip :=
  let s := Chip.swpOf c x
  if swpState c x ≠ 0 ∨ s.asked.isSome = true then c
  else Chip.bump (setSwp x { s with asked := some k.turn } c) (swpPage x) 0x060

/-- STOP written. -/
def sweepStop (k : Clk) (x : Cx) (c : Chip) : Chip :=
  let s := Chip.swpOf c x
  match swpState c x with
  | 1 =>
    if s.ended then setSwp x { s with stop := true } c
    else if s.due > k.turn then setSwp x { s with stop := true, ended := true, due := k.turn + 1 } c
    else setSwp x { s with stop := true } c
  | 2 => setSwpState x 0 c
  | _ => c

/-- A write of SWP_CMD. -/
def swpCmd (k : Clk) (x : Cx) (v : Nat) (c : Chip) : Chip :=
  let c := if bit v 0 then sweepStart k x c else c
  if bit v 1 then sweepStop k x c else c

/-- A commit of the SWP page: RUN (R435). -/
def swpCommit (k : Clk) (x : Cx) (c : Chip) : Chip :=
  if Chip.liveFlag c (swpPage x) 0x040 0 then sweepStart k x c
  else if swpState c x = 2 then setSwpState x 0 c else c

/-- A pass starts at a turn boundary. Assumption 93 (DEDUCED, unsafe). -/
def sweepPassStart (k : Clk) (x : Cx) (c : Chip) : Chip :=
  let p := swpPage x
  let s := Chip.swpOf c x
  let asked := match s.asked with | some t => decide (t < k.turn) | none => false
  let waited := decide (swpState c x = 2) && decide (s.start + Chip.live c p 0x040 31 16 ≤ k.turn) && decide (s.due ≤ k.turn)
  if !awake c x || !Chip.accepting c p || decide (k.clock ≠ 0) || !(asked || waited) then c
  else
    let c := meet k 1 (LookupErr.inTables p [0]) (if asked then c else Chip.bump c p 0x060)
    let c := setSwp x { s with asked := none } c
    let ds := sweepList c x
    let func := Chip.live c p 0x040 13 8
    let half := (Chip.get c p 0x060).toNat % 2
    let n := sweepChunks ds
    match ds.findIdx? (sweepBad c x) with
    | some r => sweepFail x 1 (Chip.put c p 0x058 (BitVec.ofNat 64 r))
    | none =>
      if n + 1 > Chip.live c p 0x050 19 0 then sweepFail x 2 c
      else if !funcRuns c func then sweepFail x 3 c
      else
        let c := setSwpState x 1 (Chip.setFld c p 0x054 8 8 half)
        let c := Chip.put (Chip.put c p 0x05C (BitVec.ofNat 64 n)) p 0x068 0
        setSwp x { running := true, list := ds, func := func, start := k.turn, due := k.turn, ended := decide (n = 0)
                   base := (Chip.getLive c p 0x048).toNat / 4096 * 4096 + half * Chip.live c p 0x050 19 0 * 4096 } c

/-! Chunks (R427 to R434). -/

/-- The slice of a chunk as bytes: all-ones where its read met an uncorrectable word (R433). True says so. -/
def readSlice (k : Clk) (x : Cx) (ds : List SweepDesc) (errs : List (Nat × EccErr)) (s : (Nat × Nat) × Nat) (c : Chip) :
    Chip × List Byte × Bool :=
  match ds[s.1.1]? with
  | none => (c, [], false)
  | some d =>
    match ownerPage c.part x d.ptype d.inst d.shared with
    | none => (c, List.replicate d.size 0, false)
    | some p =>
      if d.regs then (c, leBytes 8 (readBytes k c p false (d.first + 8 * s.1.2) 8), false)
      else
        let r := d.first + s.1.2
        let a := readError k p d.table r (kvFind errs s.2) (tableRead c p d.table r) c
        (a.1, if a.2.2 then List.replicate d.len 0xFF else slice a.2.1 d.off d.len, a.2.2)

def readSlices (k : Clk) (x : Cx) (ds : List SweepDesc) (errs : List (Nat × EccErr)) :
    List ((Nat × Nat) × Nat) → Chip → Chip × List Byte × Nat
  | [], c => (c, [], 0)
  | s :: ss, c =>
    let a := readSlice k x ds errs s c
    let b := readSlices k x ds errs ss a.1
    (b.1, a.2.1 ++ b.2.1, b2n a.2.2 + b.2.2)

/-- CHECK of a header or record folded with a turn or pass number (R431, R432). -/
def sweepCheck (fold : Nat) (bs : List Byte) : Nat :=
  crc32cFrom (0xFFFFFFFF ^^^ (fold % 2 ^ 32) ^^^ (fold / 2 ^ 32 % 2 ^ 32)) bs

/-- The chunk of this turn passed: written, or missed. -/
def chunkPassed (k : Clk) (x : Cx) (slices : List (Nat × Nat)) (c : Chip) : Chip :=
  let s := Chip.swpOf c x
  let p := swpPage x
  let n := (Chip.get c p 0x068).toNat + 1
  let pos := match slices.getLast? with | some e => nextSlice s.list e | none => s.pos
  let last := decide (n ≥ (Chip.get c p 0x05C).toNat) || s.stop
  setSwp x { s with pos := pos, last := k.turn, due := k.turn + 1, ended := last } (Chip.put c p 0x068 (BitVec.ofNat 64 n))

/-- Chip time `n` clocks ago, within the turn. -/
def timeBack (k : Clk) (n : Nat) : Clk :=
  let d : Int := (2 ^ 48 * 1000000000 * 2 ^ 48 : Nat)
  let t := ((((k.sec * 1000000000 + k.ns) * 2 ^ 48 + k.frac : Nat) : Int) - ((n * k.incr : Nat) : Int)) % d
  { k with
    sec := t.toNat / (1000000000 * 2 ^ 48), ns := t.toNat / 2 ^ 48 % 1000000000, frac := t.toNat % 2 ^ 48
    clock := k.clock - n }

/-- The slices of the next chunk. -/
def dueSlices (s : SweepSt) : List (Nat × Nat) := chunkSlices s.list (504 + 256) s.pos.1 s.pos.2 4032

/-- The chunk of a turn, in its window: data, then header (R429). -/
def sweepChunk (k : Clk) (x : Cx) (errs : List (Nat × EccErr)) (c : Chip) : Chip :=
  let s := Chip.swpOf c x
  let p := swpPage x
  if !awake c x || !s.running || s.ended || decide (s.due ≠ k.turn) || decide (k.clock < 64) then c
  else
    let n := (Chip.get c p 0x068).toNat
    let sl := dueSlices s
    let a := readSlices k x s.list errs sl.zipIdx c
    let data := a.2.1
    let first := sl.headD (0, 0)
    let lastFlag := decide (n + 1 ≥ (Chip.get c p 0x05C).toNat)
    let at64 := shortStamp (timeBack k (k.clock - 64))
    let h := leBytes 8 (Chip.get c p 0x060).toNat ++ leBytes 8 k.turn ++ leBytes 8 at64 ++ leBytes 4 n ++ leBytes 2 first.1 ++
      leBytes 2 sl.length ++ leBytes 4 first.2 ++ leBytes 2 data.length ++
      leBytes 2 (b2n lastFlag + 2 * b2n (decide (a.2.2 > 0))) ++ leBytes 2 a.2.2 ++ List.replicate 18 0
    let h := h ++ leBytes 4 (sweepCheck k.turn (h ++ data))
    let slot := s.base + 4096 * (n + 1)
    let c := hostWrite s.func slot h (hostWrite s.func (slot + 64) data a.1)
    let c := Chip.bumpBy (Chip.bump c p 0x100) p 0x118 a.2.2
    chunkPassed k x sl (setSwp x { s with uncorr := s.uncorr + a.2.2 } c)

/-- The record of a pass, in the Sweep window after its last chunk (R432). -/
def sweepRecord (k : Clk) (x : Cx) (c : Chip) : Chip :=
  let s := Chip.swpOf c x
  let p := swpPage x
  if !awake c x || !s.running || !s.ended || decide (k.turn < s.due) || decide (k.clock < 64) then c
  else
    let chunks := (Chip.get c p 0x05C).toNat
    let dur := if chunks = 0 then 0 else s.last + 1 - s.start
    let pass := (Chip.get c p 0x060).toNat
    let turnOf (o t : Nat) : Nat := if chunks = 0 then (Config.noChunkTurn pass o).toNat else t
    let r := leBytes 8 pass ++ leBytes 8 (turnOf 8 s.start) ++ leBytes 8 (turnOf 16 s.last) ++ leBytes 4 chunks ++ leBytes 4 s.missing ++
      leBytes 8 dur ++ leBytes 2 (b2n (decide (s.missing = 0) && decide (s.uncorr = 0)) + 2 * b2n s.stop) ++ List.replicate 18 0
    let c := hostWrite s.func s.base (r ++ leBytes 4 (sweepCheck pass r)) c
    let c := Chip.put (Chip.bump (Chip.cause c p 8) p 0x110) p 0x070 (BitVec.ofNat 64 dur)
    let c := setSwpStatus x (if s.stop then 4 else 0) c
    let wait := Chip.liveFlag c p 0x040 0 && !s.stop
    setSwpState x (if wait then 2 else 0) (setSwp x { s with running := false, due := k.turn + 1 } c)

/-- What a missed chunk has done: `read` of its slices read, and `wrote` bytes of them in its slot (R430). -/
def sweepPart (k : Clk) (x : Cx) (read wrote : Nat) (c : Chip) : Chip :=
  let s := Chip.swpOf c x
  let a := readSlices k x s.list [] ((dueSlices s).take read).zipIdx c
  let c := setSwp x { s with uncorr := s.uncorr + a.2.2 } (Chip.bumpBy a.1 (swpPage x) 0x118 a.2.2)
  if wrote = 0 then c else hostWrite s.func (s.base + 4096 * ((Chip.get c (swpPage x) 0x068).toNat + 1) + 64) (a.2.1.take wrote) c

/-- A chunk or a record misses its turn (R430, R432). True says that one was due. -/
def sweepMissed (k : Clk) (x : Cx) (read wrote : Nat) (c : Chip) : Chip × Bool :=
  let s := Chip.swpOf c x
  let p := swpPage x
  if !awake c x || !s.running || decide (s.due ≠ k.turn) then (c, false)
  else if s.ended then (Chip.bump (setSwp x { s with due := k.turn + 1 } c) p 0x108, true)
  else
    let c := sweepPart k x read wrote c
    let t := Chip.swpOf c x
    let c := Chip.cause (Chip.bump c p 0x108) p 10
    (chunkPassed k x (dueSlices s) (setSwp x { t with missing := t.missing + 1 } c), true)

/-- A turn boundary of a complex in STANDBY: its pass waits (R434). -/
def swpTurn (k : Clk) (x : Cx) (c : Chip) : Chip :=
  let s := Chip.swpOf c x
  if s.running && decide (x ∈ c.standby) then setSwp x { s with due := k.turn + 1 } c else c

/-- Passes whose host function has been disabled end without a record (R435). -/
def sweepFuncs (c : Chip) : Chip :=
  (complexes c.part).foldl (fun c x =>
    let s := Chip.swpOf c x
    if s.running && !funcRuns c s.func then sweepFail x 3 c else c) c

/-- No pass runs: QUIESCED may set (R435). -/
def sweepIdle (c : Chip) (x : Cx) : Bool := decide (swpState c x ≠ 1)

end Sys2Proof.Machine
end

