-- ==== Sys2Proof/Machine/Staging.lean ====
section
/-!
DEFINITION. The values that a write of a staged or plain field takes where its register narrows what is written: "staged
as", "taken as" and "ignores" of the field tables.
-/
namespace Sys2Proof.Machine

/-! Staged values of a due commit (R28, R29). -/

/-- The request was made before this turn: its commit is due (R28). Assumption 42 (DEDUCED, unsafe). -/
def CommitReq.due (r : CommitReq) (k : Clk) : Bool := decide (r.turn < k.turn)

/-- The due commit of a page. -/
def dueCommit (k : Clk) (c : Chip) (p : Page) : Option CommitReq :=
  c.commits.find? (fun r => decide (r.page = p) && r.due k)

/-- The page's stored registers are kept as they stood at clock 0 for a commit that is due in this turn (R29). -/
def keepStaged (k : Clk) (p : Page) (c : Chip) : Chip :=
  match dueCommit k c p with
  | some r =>
    if r.snap.isSome then c
    else
      let b := Page.base p
      let regs := c.regs.filter (fun e => decide (b ≤ e.1) && decide (e.1 < b + 0x800))
      { c with commits := c.commits.map (fun q => if q = r then { q with snap := some regs } else q) }
  | none => c

/-! What a write stores. -/

/-- `v` with the field hi:lo brought into the range a to b. -/
def clampFld (v hi lo a b : Nat) : Nat := setBits v hi lo (min b (max a (bits v hi lo)))

/-- SES_PROF_SEQ: WIN of w - 1 or more becomes 0 (R239). -/
def seqNorm (v : Nat) : Nat :=
  if bits v 24 19 + 1 ≥ 8 * (bits v 27 25 + 1) then setBits v 24 19 0 else v

/-- The value stored for `v` written to the register at offset `o` of a page. -/
def stageNorm (p : Page) (o v : Nat) : Nat :=
  match p with
  | .tim => if o = 0x0C8 then clampFld v 19 0 1 500000 else v
  | .icu => if o = 0x140 then setBits v 15 0 0 else v
  | .cx _ .prs _ => if o = 0x04C then clampFld v 15 0 256 65535 else v
  | .cx _ .prt _ =>
    if o = 0x104 then clampFld v 13 0 64 16383
    else if o = 0x108 then clampFld v 5 0 0 32
    else if o = 0x10C then clampFld v 4 0 12 31
    else if o = 0x11C then clampFld v 15 0 1 65535
    else v
  | .cx _ .lne _ => if o = 0x060 then clampFld v 6 0 17 124 else v
  | .cx _ .dor _ => if o = 0x044 then clampFld v 19 0 1 1048575 else v
  | .cx _ .tel _ => if o = 0x040 then clampFld v 31 16 1 65535 else v
  | .cx _ .cpx _ =>
    if o = 0x184 then clampFld (clampFld (clampFld v 20 16 13 16) 11 8 1 15) 7 0 85 110 else v
  | .cx _ .hlt _ => if o = 0x044 then clampFld v 15 0 1 65535 else v
  | .cx _ .glz _ => if o = 0x048 ∧ bits v 2 1 = 1 then setBits v 2 1 0 else v
  | .cx _ .ses _ => if 0x200 ≤ o ∧ o < 0x380 ∧ (o - 0x200) % 0x30 = 0x28 then seqNorm v else v
  | _ => v

/-- A written value that the page refuses whole, with the cause it sets (R85, R177). -/
def stageRefused (p : Page) (o v : Nat) : Option Nat :=
  match p with
  | .cx _ .pgr _ => if o = 0x040 ∧ breakoutValid v = false then some 8 else none
  | .cx _ .prs _ =>
    if o = 0x044 ∧ ((List.range 16).filter (fun i => bit v i)).length < 13 then some 8 else none
  | _ => none

end Sys2Proof.Machine
end

