-- ==== Sys2Proof/Machine/Cal.lean ====
section
/-!
DEFINITION. The calibration store's operations (R150 to R153).
-/
namespace Sys2Proof.Machine

/-- One record applied: to the staged copy, and to the live copy and the reset values at power-up (R151). A commit that
is due in this turn keeps the values of clock 0 (R29). -/
def calApply1 (k : Clk) (power : Bool) (r : Nat) (c : Chip) : Chip :=
  let rec_ := calRec c r
  match calTarget c rec_ with
  | none => Chip.bump c .tim 0x198
  | some (p, g, o) =>
    let m := Reg.mask g .rws
    let v := BitVec.ofNat 64 (stageNorm p o (merge m (Chip.get c p o) (BitVec.ofNat 64 rec_.val)).toNat)
    let c := Chip.put (if k.clock = 0 then c else keepStaged k p c) p o v
    if power then
      let c := Chip.putLive c p o v
      { c with time := { c.time with calVals := kvPut c.time.calVals (Page.base p + o) v } }
    else c

/-- The store's records applied in order. -/
def calApply (k : Clk) (power : Bool) (c : Chip) : Chip :=
  (List.range (calN c 0)).foldl (fun c i => calApply1 k power (i + 1) c) c

/-- STP_STAT of every port brought up to date. -/
def stpAll (c : Chip) : Chip := (List.range 512).foldl (fun c i => stpStat (Fin.ofNat 512 i) c) c

/-- The power-up load (R151), once after chip reset. -/
def calPowerup (k : Clk) (c : Chip) : Chip :=
  if Chip.flag c .tim 0x044 6 || Chip.flag c .tim 0x044 7 then c
  else
  let c := meet k 1 (LookupErr.inTables .tim [0]) c
  if calValid c 0 then
    stpAll (Chip.cause (Chip.setFld (calApply k true c) .tim 0x044 6 6 1) .tim 16)
  else stpAll (Chip.cause (Chip.setFld c .tim 0x044 7 7 1) .tim 17)

/-- Bytes of one TIM table copied over another's. -/
def calMove (src dst : Nat) (c : Chip) : Chip :=
  let a := rowKey .tim src 0
  let b := rowKey .tim dst 0
  let got := c.mem.filter (fun e => decide (a ≤ e.1) && decide (e.1 < rowKey .tim src 4096))
  let d := Chip.clearTable c .tim dst
  { d with mem := got.foldl (fun m e => memPut m (b + (e.1 - a)) e.2) d.mem }

/-- COPY: the store as it reads goes into the staging image. -/
def calCopyDo (c : Chip) : Chip :=
  if c.time.calTorn then
    (List.range 4096).foldl (fun d r => Chip.setRow d .tim 1 r 0 (tableRead c .tim 0 r)) c
  else calMove 0 1 c

/-- The unlock sequence has completed, and its first write lies within one turn, 1,600 clocks (R152). -/
def calUnlocked (k : Clk) (c : Chip) : Bool :=
  match c.time.unlocked with
  | some t => decide (Clk.abs k ≤ t + 1600)
  | none => false

/-- A write of TIM_CAL_UNLOCK (R152): `locked` pages discard it before. Assumption 36 (DEDUCED, unsafe). -/
def calUnlock (k : Clk) (v : Nat) (c : Chip) : Chip :=
  if v = 0xC0DE then { c with time := { c.time with unlock1 := some (Clk.abs k), unlocked := none } }
  else
    let ok : Bool := match c.time.unlock1 with
      | some t => decide (v = 0xF17E) && decide (Clk.abs k ≤ t + 1600)
      | none => false
    { c with time := { c.time with unlock1 := none, unlocked := if ok then c.time.unlock1 else none } }

/-- The status of an operation that runs nothing. -/
def calRefuse (st : Nat) (c : Chip) : Chip := Chip.setFld c .tim 0x104 7 4 st

/-- An operation starts: BUSY, and the turn by which it completes. -/
def calStart (k : Clk) (op turns : Nat) (c : Chip) : Chip :=
  Chip.setFld { c with time := { c.time with calOp := some (op, k.turn + turns) } } .tim 0x104 0 0 1

/-- A write of OP to TIM_CAL_CMD (R68, R152). Assumption 57 (DEDUCED, unsafe). -/
def calCmd (k : Clk) (op : Nat) (locked : Bool) (c : Chip) : Chip :=
  if c.time.calOp.isSome then c
  else if op = 1 ∨ op = 2 then calStart k op 4 c
  else if op = 3 then
    if locked || !calUnlocked k c then calRefuse 1 c
    else if c.time.calProg ≥ 1000 then calRefuse 2 c
    else calStart k 3 1953125 { c with time := { c.time with unlocked := none } }
  else calRefuse 3 c

/-- The running operation completes (R152). Assumption 35 (DEDUCED, unsafe). -/
def calDone (k : Clk) (c : Chip) : Chip :=
  match c.time.calOp with
  | none => c
  | some (op, _) =>
    let c := meet k 1 (LookupErr.inTables .tim [if op = 3 then 1 else 0]) { c with time := { c.time with calOp := none } }
    let fin (st : Nat) (c : Chip) : Chip := Chip.setFld (Chip.setFld c .tim 0x104 0 0 0) .tim 0x104 7 4 st
    if op = 1 then fin 0 (calCopyDo c)
    else if op = 2 then
      if calValid c 0 then fin 0 (calApply k false c) else fin 4 c
    else
      let c := calMove 1 0 { c with time := { c.time with calTorn := false, calProg := c.time.calProg + 1 } }
      fin (if calValid c 0 then 0 else 4) c

/-- Loss of power while PROGRAM runs leaves the store invalid (R152). Assumption 34 (DEDUCED, safe). -/
def calPowerLoss (t : TimeSt) : TimeSt :=
  match t.calOp with
  | some (3, _) => { t with calTorn := true, calOp := none }
  | _ => { t with calOp := none }

end Sys2Proof.Machine
end

