-- ==== Sys2Proof/Machine/Quiesce.lean ====
section
/-!
DEFINITION. Quiesce (R66): what each unit holds as work, what a request and its release do; and soft reset (R67, R447 to
R452).
-/
namespace Sys2Proof.Machine

/-! The journal's start and stop (R306). -/

/-- The journal runs, or will once its waiting events are performed. Assumption 46 (DEDUCED, unsafe). -/
def jrnWillRun (j : JrnSt) : Bool :=
  match j.events.reverse.find? (fun e => match e with | .start _ => true | .stop _ => true | _ => false) with
  | some (.start _) => true
  | some _ => false
  | none => j.running

/-- GAP, STOP and the final seal, if the journal runs. -/
def jrnStop (k : Clk) (x : Cx) (cause : Nat) (c : Chip) : Chip :=
  if jrnWillRun (Chip.jrnOf c x) then jrnRaise k x [.stop cause, .seal] c else c

/-- START, if the journal does not run. -/
def jrnStart (k : Clk) (x : Cx) (cause : Nat) (c : Chip) : Chip :=
  if jrnWillRun (Chip.jrnOf c x) then c else jrnRaise k x [.start cause] c

/-! Work in flight. -/

/-- Rings of a DMA page. -/
def pageRings (x : Cx) (i : Nat) : List Nat := (List.range 8).map (fun j => ringKey x (8 * i + j))

/-- The frame stands between stage 5 and stage 10. -/
def Frame.inPipe (f : Frame) : Bool := decide (f.loc ≠ .released) && decide (f.loc ≠ .gone)

/-- A port holds no requested frame, and none of its frames is in the pipeline (R97). -/
def portIdle (c : Chip) (n : Fin 512) : Bool :=
  (Chip.port c n).tx.isEmpty && !c.frames.any (fun e => decide (e.2.port = n.val) && e.2.host.isNone && e.2.inPipe)

/-- The unit of a page has no work in flight. -/
def unitIdle (c : Chip) (p : Page) : Bool :=
  match p with
  | .sag => pairIdle c
  | .func => c.funcStop.isEmpty
  | .sel => c.keyLoad.isNone
  | .cx x t i =>
    (match t with
     | .prt => portIdle c (laneOf x i.val)
     | .pgr => (List.range 8).all (fun j => portIdle c (laneOf x (8 * i.val + j)))
     | .prs => !c.frames.any (fun e => decide (Frame.prs e.2 = p) && e.2.inPipe)
     | .glz => !c.frames.any (fun e => decide (Frame.glz e.2 = p) && e.2.inPipe &&
         (decide (e.2.loc = .recirc) || decide (e.2.loc = .reentered) || (e.2.two && decide (e.2.loc = .parsing))))
     | .ses => !c.frames.any (fun e => decide (e.2.pg / 32 = x.val) && decide (e.2.loc = .stage8)) &&
         (match (Chip.sesOf c x).kop with | none => true | some r => r.op.isSome) &&
         decide (Chip.fld c p 0x048 7 5 = 0) &&
         !c.rings.any (fun e => decide (ringCx e.1 = x) && decide (e.2.fail > 0) && e.2.jobs.any (fun j => j.res.isNone && !j.lost))
     | .mtr => (atStage9 c x).isEmpty &&
         !c.frames.any (fun e => decide (e.2.pg / 32 = x.val) && e.2.mtrUse.isSome && !e.2.ended)
     | .sch => (Chip.port c (laneOf x i.val)).tx.all (fun f =>
         f.arrived.isSome || (match f.kind with | .queue _ => false | _ => true))
     | .jrn => jrnIdle c x
     | .dma => (pageRings x i.val).all (fun r => match Chip.ring c r with | some g => g.jobs.isEmpty | none => true)
     | .chk => (Chip.chkOf c x (Fin.ofNat 4 i.val)).scan.isNone
     | .swp => sweepIdle c x
     | _ => true)
  | _ => true

/-- The page sets QUIESCED at once (R154, R202, R354, R421, R422): it has no work that a quiesce would wait for.
Assumption 41 (DEDUCED, unsafe). -/
def quiesceAtOnce (p : Page) : Bool :=
  match p with
  | .sag => false
  | .func => false
  | .sel => false
  | .cx _ t _ => decide (t ∉ [.prt, .pgr, .prs, .glz, .ses, .mtr, .sch, .jrn, .dma, .chk, .swp])
  | _ => true

/-- QUIESCE_REQ is set: what the unit does at once. -/
def quiesceStart (k : Clk) (p : Page) (c : Chip) : Chip :=
  let c := if quiesceAtOnce p then Chip.setFld c p 0x00C 0 0 1 else c
  match p with
  | .cx x .ses _ => setSes x { Chip.sesOf c x with learn := [] } c
  | .cx x .jrn _ => jrnStop k x 1 c
  | _ => c

/-- QUIESCE_REQ is cleared: the unit accepts work again, and QUIESCED clears. -/
def quiesceEnd (k : Clk) (p : Page) (c : Chip) : Chip :=
  let c := Chip.setFld c p 0x00C 0 0 0
  match p with
  | .cx x .jrn _ => if Chip.enabled c p then jrnStart k x 1 c else c
  | _ => c

/-- The unit has finished the work it held: QUIESCED sets (R66). -/
def quiesceFinish (p : Page) (c : Chip) : Chip :=
  if Chip.flag c p 0x008 1 && unitIdle c p then Chip.setFld c p 0x00C 0 0 1 else c

/-! Soft reset. -/

/-- Every page of a complex. -/
def cxPages (x : Cx) : List Page :=
  allTypes.flatMap (fun t => (List.range (typeCount t)).map (fun i => .cx x t (Fin.ofNat 256 i)))

/-- Work that ends, or is asked to end, as a soft reset of a page begins (R67, R312, R342, R369, R397, R435). -/
def resetBegin (k : Clk) (p : Page) (c : Chip) : Chip :=
  let c := Chip.setFld (quiesceStart k p c) p 0x008 1 1 1
  let c := Chip.put (Chip.put (Chip.setFld c p 0x010 2 2 0) p 0x020 0) p 0x024 0
  let c := { c with commits := c.commits.filter (fun r => decide (r.page ≠ p)) }
  let c := Chip.put c p 0x01C 0
  match p with
  | .sag => pairDisable k c
  | .func => sweepFuncs ((c.funcOn).foldl (fun c f => funcWrite k f 0 c) c)
  | .cx x .chk i =>
    let u : Fin 4 := Fin.ofNat 4 i.val
    (match (Chip.chkOf c x u).scan with | some s => chkScanDone x u 7 s.check false c | none => c)
  | .cx x .swp _ => setSwpStatus x 5 (setSwp x {} c)
  | _ => c

/-- A register by which a ring shows what it still sends after a soft reset of its page (R340). -/
def ringKept (c : Chip) (p : Page) (a : Nat) : Bool :=
  match p with
  | .cx x .dma i => (pageRings x i.val).any (fun r =>
      (match Chip.ring c r with | some g => g.wiped | none => false) &&
      ringOwn.any (fun o => decide (a = Page.base p + ringOff r + o)))
  | _ => false

/-- A page's fields at their reset values, but for HDR_SCRATCH and what has been captured since BUSY set. A stamp page's
EARLY goes with them (R161). Assumption 151 (DEDUCED, unsafe). -/
def resetFields (p : Page) (c : Chip) : Chip :=
  let b := Page.base p
  let err := Chip.fld c p 0x010 2 2
  let keep (a : Nat) : Bool :=
    decide (a < b) || decide (b + 0x1000 ≤ a) || decide (a = b + 0x020) || decide (a = b + 0x024) || decide (a = b + 0x028) ||
    ringKept c p a
  let c := { c with regs := c.regs.filter (fun e => keep e.1) }
  let c := if err = 1 then Chip.setFld c p 0x010 2 2 1 else c
  (c.time.calVals.filter (fun e => decide (b ≤ e.1) && decide (e.1 < b + 0x800))).foldl
    (fun c e => Chip.putLive (Chip.put c p (e.1 - b) e.2) p (e.1 - b) e.2) c

/-- The queue nodes of a complex that the model holds anything of. -/
def cxQueues (c : Chip) (x : Cx) : List Nat :=
  ((Chip.rowsOf c (whlPage x) 0) ++ (Chip.rowsOf c (whlPage x) 1)).eraseDups.map (fun r => 65536 * x.val + r)

/-- The frames of some PGs forgotten, with the ranks and release slots of those PGs (R197, R449). -/
def dropPgs (pgs : Nat → Bool) (c : Chip) : Chip :=
  let c := eraseFrames (fun f => pgs f.pg) c
  { c with
    ranks := c.ranks.filter (fun e => !pgs (e.1 / 9))
    relSlot := c.relSlot.filter (fun e => !pgs e.1)
    bus := c.bus.filter (fun e => !pgs (e.1 % 64))
    passed := c.passed.filter (fun e => !pgs e.1) }

/-- The port of a page goes to its first-use state; copies already requested are still answered. -/
def portFresh (k : Clk) (n : Fin 512) (c : Chip) : Chip :=
  let c := portStop k n false c
  let p := Chip.port c n
  setPort n {
    tx := p.tx, free := p.free, lineEnd := p.lineEnd, deficit := p.deficit, probeRx := p.probeRx, probeTx := p.probeTx } c

/-- A ring stopped by a soft reset of its page (R340): one that still has a frame on its way out stays STOPPING. -/
def ringWipe (k : Clk) (r : Nat) (c : Chip) : Chip :=
  let c := stopRing k r .disabled c
  let c := match Chip.ring c r with
    | some g => setRing r { g with why := if g.why = some .reset then some .disabled else g.why, wiped := true } c
    | none => c
  let c := ringStopped k r c
  { c with
    push := kvErase c.push r
    acks := if (Chip.ring c r).isSome then c.acks else kvErase c.acks r }

/-- A unit's internal state at its first use (R449, R452). Assumption 40 (DEDUCED, unsafe). -/
def resetUnit (k : Clk) (p : Page) (c : Chip) : Chip :=
  let now := Clk.abs k
  match p with
  | .cap =>
    let c := Chip.clearTable { c with recov := [] } .cap 1
    ((Chip.rowsOf c .cap 0).filter (fun r => entryValid c .cap 0 r 16)).foldl (fun c s => streamWritten k s c) c
  | .tim =>
    { c with time := { adj := c.time.adj, before := c.time.before, calOp := c.time.calOp, calProg := c.time.calProg, calTorn := c.time.calTorn,
                       calVals := c.time.calVals } }
  | .icu => icuReset c
  | .pil => c
  | .sag => pairReset c
  | .func => c
  | .sel => zeroizeAll { c with keyLoad := none }
  | .cx x t i =>
    let sl := 4 * x.val + i.val
    let n := laneOf x i.val
    match t with
    | .slc =>
      { c with
        swaps := c.swaps.filter (fun e => decide (e.1 ≠ sl))
        frames := c.frames.map (fun e =>
          if decide (e.2.pg / 8 = sl) then (e.1, { e.2 with counted := false }) else e) }
    | .pgr => brkApply k (Fin.ofNat 64 (32 * x.val + i.val)) 0 c
    | .prt => portFresh k n c
    | .lne => (match laneOwner c n with | some o => laneLost k o n c | none => c)
    | .stp => setPort n { Chip.port c n with probeRx := false, probeTx := false } c
    | .prs =>
      dropPgs (fun g => decide (g / 8 = sl)) { c with
        disp := kvErase c.disp sl
        slowCnt := c.slowCnt.filter (fun e => decide (e.1 / 32 ≠ sl)) }
    | .bsq => Chip.clearTable (Chip.clearTable c p 2) p 3
    | .glz =>
      let c := eraseFrames (fun f => decide (f.pg / 8 = sl) && decide (f.loc = .recirc)) c
      Chip.clearTable (Chip.clearTable { c with recCnt := kvErase c.recCnt sl } p 2) p 3
    | .ses =>
      let c := [1, 2, 3].foldl (fun c b => if batchLive c x b then cleanBatch k x b c else withdrawBatch k x b c) c
      let c := { c with rings := c.rings.map (fun e =>
        if decide (ringCx e.1 = x) && decide (e.2.batch ≠ 0) then (e.1, { e.2 with batch := 0, fail := max 1 e.2.fail }) else e) }
      setSes x {} c
    | .mtr => Chip.clearTable { c with mtrMod := kvErase c.mtrMod x.val } p 1
    | .sch =>
      let qs := portQueues c n
      let c := qs.foldl (fun c q => emptied q (queueDepth q (setNotices q [] c))) c
      let c := (portNode n :: (List.range 8).map (fun j => svcNode n j)).foldl (fun c j => freshNode now j c) c
      c
    | .whl =>
      let qs := cxQueues c x
      let ports := (qs.filter (fun q => qValid c q)).map (fun q => qPort c q)
      let c := { c with notices := c.notices.filter (fun e => decide (e.1 / 65536 ≠ x.val)) }
      let c := qs.foldl (fun c q => queueDepth q (freshNode now q c)) c
      let s := Chip.schedOf c x
      let c := (s.fine ++ s.coarse).foldl (fun c e => wheelRemove e.2 c) c
      let c := setSched x { Chip.schedOf c x with fine := [], coarse := [], voided := [] } c
      let c := qs.foldl (fun c q => emptied (svcNode (qPort c q) (qCls c q)) c) c
      ports.eraseDups.foldl (fun c n => depthSync n c) c
    | .dor =>
      Chip.clearTable { c with
        doors := c.doors.filter (fun e => decide (e.1 / 512 ≠ x.val))
        owed := c.owed.filter (fun e => decide (e.1 / 65536 ≠ x.val)) } p 0
    | .jrn => setJrn x {} c
    | .dma => (pageRings x i.val).foldl (fun c r => ringWipe k r c) c
    | .chk => { c with chk := kvErase c.chk (4 * x.val + i.val) }
    | .hlt =>
      let h := Chip.hltOf c x
      setHlt x { spares := h.spares, remaps := h.remaps } c
    | .swp => setSwp x {} c
    | .tel =>
      Chip.clearTable (Chip.clearTable { c with tel := c.tel.filter (fun e => decide (e.1 / 65536 ≠ x.val)) } p 0) p 1
    | .cpx => setTherm x { pin := throttled c x || (Chip.thermOf c x).pin } c
    | .log => c

/-- What a page shows of what its reset ended or kept, and what its fields' reset values bring about (R94, R131, R306, R369,
R411, R435). Assumption 83 (DEDUCED, unsafe). -/
def resetShow (k : Clk) (before : Chip) (p : Page) (c : Chip) : Chip :=
  match p with
  | .tim =>
    let c := Chip.setFld (Chip.setFld c .tim 0x044 7 6 (Chip.fld before .tim 0x044 7 6)) .tim 0x044 5 5 (b2n c.time.adj.isSome)
    Chip.setFld c .tim 0x104 0 0 (b2n c.time.calOp.isSome)
  | .cx x .jrn _ => if Chip.inShadow before x then setShadow x true c else c
  | .cx x .chk i => if Chip.fld before p 0x074 11 8 = 7 then setChkStatus x (Fin.ofNat 4 i.val) 7 c else c
  | .cx x .swp _ => if Chip.fld before p 0x054 7 4 = 5 then setSwpStatus x 5 c else c
  | .cx x .stp i => stpStat (laneOf x i.val) c
  | .cx x .sch i => depthSync (laneOf x i.val) c
  | .cx x .hlt _ => if x = 0 then modeCommit k (hltWindowed before) c else c
  | .cx x .lne i =>
    let l := laneOf x i.val
    (match laneOwner c l with | some o => loadPreset (Chip.modeAt c o) l c | none => c)
  | _ => c

/-- One page reset whole. -/
def resetPage (k : Clk) (p : Page) (c : Chip) : Chip := resetShow k c p (resetFields p (resetUnit k p c))

/-- The windows of a complex at their reset values (R454). -/
def resetWindows (x : Cx) (c : Chip) : Chip :=
  let b := 0x3000000 + x.val * 0x800000
  { c with
    regs := c.regs.filter (fun e => decide (e.1 < b) || decide (b + 0x800000 ≤ e.1))
    twBuf := c.twBuf.filter (fun e => decide (e.1 / (64 * 512) ≠ x.val))
    twRun := c.twRun.filter (fun e => decide (e.1 / 64 ≠ x.val)) }

/-- The pages that a soft reset of a page resets: those of the complex, for its CPX page. -/
def resetPages (c : Chip) (p : Page) : List Page :=
  match p with
  | .cx x .cpx _ => (cxPages x).filter (Page.present c.part)
  | _ => [p]

/-- A write of 1 to SOFT_RESET: BUSY sets, and the unit quiesces (R67). In the CPX page it is the soft reset of the
complex. Assumption 38 (DEDUCED, unsafe). -/
def softReset (k : Clk) (p : Page) (c : Chip) : Chip :=
  let c := Chip.log c k (Page.home p) 0x60 p 0
  let c := (resetPages c p).foldl (fun c q => resetBegin k q c) c
  { c with resetting := c.resetting ++ [(p, k.turn + 4)] }

/-- A command runs in a window of the complex that a CPX page resets: the windows are reset once it has completed
(R454). -/
def windowRuns (c : Chip) (p : Page) : Bool :=
  match p with
  | .cx x .cpx _ => c.twRun.any (fun e => decide (e.1 / 64 = x.val))
  | _ => false

/-- The quiesce that a soft reset begins with is over: every page it resets is idle, or its four turns are past (R67).
Assumption 112 (DESIGN CHOICE, unsafe). -/
def resetReady (k : Clk) (c : Chip) (p : Page) : Bool :=
  !windowRuns c p && c.resetting.any (fun r => decide (r.1 = p) && (decide (r.2 ≤ k.turn) || (resetPages c p).all (fun q => unitIdle c q)))

/-- A soft reset completes: the unit and the fields are at their reset state, and BUSY clears. Sideband outputs stay as they
are (R54): THERM_N until the complex's next reading, FAULT_N until a level next reaches the ICU; a clock export whose port
the reset took down is squelched (R146). Assumption 144 (DESIGN CHOICE, unsafe). -/
def softResetDone (k : Clk) (p : Page) (c : Chip) : Chip :=
  if resetReady k c p then
    let c := (resetPages c p).foldl (fun c q => resetPage k q c) c
    let c := match p with
      | .cx x .cpx _ => resetWindows x c
      | _ => c
    synceCheck k { c with resetting := c.resetting.filter (fun r => decide (r.1 ≠ p)) }
  else c

end Sys2Proof.Machine
end

