-- ==== Sys2Proof/Machine/Commit.lean ====
section
/-!
DEFINITION. Commits (R28 to R32, R70, R71): which may be performed, the copy, what each unit does at one, and waiting.
-/
namespace Sys2Proof.Machine

/-- Two pages share a commit budget: of the same complex, or both shared (R31, R71). -/
def sameBudget (p q : Page) : Bool :=
  match p, q with
  | .cx x _ _, .cx y _ _ => decide (x = y)
  | .cx .., _ => false
  | _, .cx .. => false
  | _, _ => true

def budgetOf (p : Page) : Nat := if Page.isShared p then 8 else 32

/-- A due commit comes within its turn's budget, by order of the HDR_GEN writes (R31, R71). -/
def inBudget (k : Clk) (c : Chip) (p : Page) : Bool :=
  let ahead := (c.commits.takeWhile (fun r => !(decide (r.page = p) && r.due k))).filter (fun r => r.due k && sameBudget r.page p)
  decide (ahead.length + (c.committed.filter (fun q => sameBudget q p)).length < budgetOf p)

/-- The staged value of a register in a commit: as at clock 0 of the turn (R29). -/
def stagedIn (c : Chip) (r : CommitReq) (o : Nat) : Word :=
  match r.snap with
  | some regs => kvGet (Page.resetAt r.page o) regs (Page.base r.page + o)
  | none => Chip.get c r.page o

/-- The registers of a page with RWS fields, by offset, and the mask of those fields. -/
def rwsRegs (p : Page) : List (Nat × Word) :=
  ((Page.regs p).filter (fun g => decide (Reg.mask g .rws ≠ 0))).flatMap (fun g =>
    (List.range g.count).map (fun i => (g.off + i * g.stride, Reg.mask g .rws)))

/-- Every RWS field of a page copied to its live copy (R70); the capability page's ENABLE is no field (R61). -/
def copyLive (r : CommitReq) (c : Chip) : Chip :=
  (rwsRegs r.page).foldl (fun d e => Chip.putLive d r.page e.1 (merge e.2 (Chip.getLive d r.page e.1) (stagedIn c r e.1))) c

/-- What a unit does before its live copy changes. -/
def commitBefore (k : Clk) (r : CommitReq) (c : Chip) : Chip :=
  match r.page with
  | .cx x .prt i => creditSync (Clk.abs k) (laneOf x i.val) c
  | .cx x .pgr i => brkApply k (Fin.ofNat 64 (32 * x.val + i.val)) (stagedIn c r 0x040) c
  | _ => c

/-- The credit of a service node whose CBS mode the commit enables, or whose page it enables (R123): it is zero, and the node's
wheel entry moves to the E that this gives (R262, R269). Assumption 44 (DEDUCED, unsafe). -/
def creditZero (now : Nat) (before : Chip) (i : Nat) (on : Bool) (c : Chip) : Chip :=
  if (nodeCfg c i).avb && (on || !(nodeCfg before i).avb) then
    parkNode now i (setNode i { getNode c i with tc := 0, onWheel := false, clamped := false } (wheelRemove i c))
  else c

/-- What a unit does after its live copy has changed; `before` is the chip before the commit.
Assumption 45 (DEDUCED, unsafe); assumption 47 (DEDUCED, unsafe); assumption 129 (DESIGN CHOICE, unsafe). A commit that maps a running pause timer to a
further class sets no RX_PAUSED (R126): assumption 147 (DEDUCED, unsafe). -/
def commitAfter (k : Clk) (p : Page) (before c : Chip) : Chip :=
  let now := Clk.abs k
  let on := Chip.enabled c p && !Chip.enabled before p
  match p with
  | .tim =>
    let c := synceCommit k before (srcChanged (Chip.src before) c)
    let c := if on then { c with time := { c.time with ppsLast := none } } else c
    if Chip.live c .tim 0x0E8 1 0 = Chip.live before .tim 0x0E8 1 0 then c
    else Chip.setFld (Chip.setFld { c with time := { c.time with refFrom := k.turn } } .tim 0x044 4 4 0) .tim 0x0F0 63 63 0
  | .sag => pairCheck k c
  | .pil => pilotWake k c
  | .cx x .pgr _ => if x.val < 2 then pairCheck k c else c
  | .cx x .prt i =>
    let n := laneOf x i.val
    let c := portCommit k n c
    let c := Chip.setFld c p 0x108 21 16 (Chip.live c p 0x108 5 0)
    synceCheck k (stpStat n c)
  | .cx x .sch i =>
    let n := laneOf x i.val
    let svc := (List.range 8).map (fun j => svcNode n j)
    let c := (portNode n :: svc).foldl (fun c j => reshapeChanged now j before c) c
    svc.foldl (fun c j => creditZero now before j on c) c
  | .cx x .jrn _ =>
    if on then (if Chip.flag c p 0x008 1 then c else jrnStart k x 0 c)
    else if Chip.enabled c p then c else jrnStop k x 0 c
  | .cx x .dma i => (pageRings x i.val).foldl (fun c r => ringCommit k r c) c
  | .cx x .cpx _ => thermCommit x c
  | .cx x .hlt _ => if x = 0 then modeCommit k (hltWindowed before) c else c
  | .cx x .swp _ => swpCommit k x c
  | _ => c

/-- A due commit performed (R70). -/
def commitPage (k : Clk) (r : CommitReq) (c : Chip) : Chip :=
  let p := r.page
  let gen := bits (stagedIn c r 0x01C).toNat 31 16
  let d := copyLive r (commitBefore k r c)
  let d := Chip.cause (Chip.setFld d p 0x01C 15 0 gen) p 3
  let d := { d with commits := d.commits.erase r, committed := d.committed ++ [p] }
  commitAfter k p c d

/-- The commit of a page, in the commit window of a turn (R24, R28, R31).
Assumption 109 (DEDUCED, safe). -/
def configCommit (k : Clk) (p : Page) (c : Chip) : Chip :=
  match dueCommit k c p with
  | some r => if k.clock < 64 ∧ inBudget k c p = true ∧ p ∉ c.committed then commitPage k r c else c
  | none => c

/-- A due commit has not been performed by the end of its window: it waits, and counts once a turn (R25, R32). -/
def commitMissed (k : Clk) (p : Page) (c : Chip) : Chip :=
  match dueCommit k c p with
  | some r =>
    if 64 ≤ k.clock ∧ r.waited ≠ k.turn then
      let c := { c with commits := c.commits.map (fun q => if q = r then { q with waited := k.turn } else q) }
      let x := Page.home p
      let c := Chip.bump c (if Page.isShared p then .cap else onePage x .cpx) 0x118
      Chip.log (Chip.setLate c p) k x 0x01 p 1
    else c
  | none => c

/-- The requests as a turn begins: a second request of a page joins its first, and staged values count again as they
stand at clock 0 (R29). -/
def commitTurn (c : Chip) : Chip :=
  let keep (l : List CommitReq) (r : CommitReq) : List CommitReq :=
    if l.any (fun q => decide (q.page = r.page)) then l else l ++ [{ r with snap := none }]
  { c with commits := c.commits.foldl keep [], committed := [] }

/-- A write of STAGED (R28, R70): a value that differs from LIVE requests a commit. In the commit window of a turn in which
the page is due, the write belongs to the following turn's commit. Assumption 43 (DEDUCED, unsafe). -/
def genWrite (k : Clk) (p : Page) (g : Nat) (c : Chip) : Chip :=
  let inWindow : Bool := (dueCommit k c p).isSome && decide (k.clock < 64)
  let c := if inWindow then keepStaged k p c else c
  let c := Chip.setFld c p 0x01C 31 16 g
  if g % 65536 ≠ Chip.fld c p 0x01C 15 0 && !c.commits.any (fun r => decide (r.page = p) && !(inWindow && r.due k)) then
    { c with commits := c.commits ++ [{ page := p, turn := k.turn }] }
  else c

end Sys2Proof.Machine
end

