-- ==== Sys2Proof/Machine/Windows.lean ====
section
/-!
DEFINITION. The table access windows (R76 to R82, R454).
-/
namespace Sys2Proof.Machine

/-- Address of a window page; key of a window; byte key of its data buffer. -/
def twBase (x : Cx) (w : Fin 64) : Nat := 0x3000000 + x.val * 0x800000 + w.val * 0x1000
def twKey (x : Cx) (w : Fin 64) : Nat := 64 * x.val + w.val
def twBufKey (x : Cx) (w : Fin 64) : Nat := twKey x w * 512

/-- The register at an offset of a window page. -/
def twRegAt (o : Nat) : Option Reg := twRegs.find? (fun r => Reg.covers r o)

def twGet (c : Chip) (x : Cx) (w : Fin 64) (o : Nat) : Nat := (kvGet 0 c.regs (twBase x w + o)).toNat

def twPut (x : Cx) (w : Fin 64) (o v : Nat) (c : Chip) : Chip :=
  { c with regs := kvPut c.regs (twBase x w + o) (BitVec.ofNat 64 v) }

/-- STATUS and BUSY of CPX_TW_STAT set. -/
def twStat (x : Cx) (w : Fin 64) (status : Nat) (busy : Bool) (c : Chip) : Chip :=
  twPut x w 0x00C (status % 16 * 16 + b2n busy) c

/-- The owner that CPX_TW_SEL names. -/
def twOwner (c : Chip) (x : Cx) (w : Fin 64) : Option Page :=
  let v := twGet c x w 0
  ownerPage c.part x (bits v 31 24) (bits v 13 0) (bit v 15)

/-- The owner, or the complex, of a window's table reads BUSY (R454). -/
def twBlocked (k : Clk) (c : Chip) (x : Cx) (w : Fin 64) : Bool :=
  match twOwner c x w with
  | some p => Chip.busy c k p || (!Page.isShared p && Chip.busy c k (onePage x .cpx))
  | none => Chip.busy c k (onePage x .cpx)

/-- A write of OP to CPX_TW_CMD (R79 to R82, R454). Assumption 14 (DEDUCED, unsafe); assumption 49 (DEDUCED, unsafe). -/
def twCmd (k : Clk) (x : Cx) (w : Fin 64) (op : Nat) (c : Chip) : Chip :=
  match kvFind c.twRun (twKey x w) with
  | some r => { c with twRun := kvPut c.twRun (twKey x w) { r with again := true } }
  | none =>
    if twBlocked k c x w then twStat x w 5 false c
    else if op = 0 ∨ op > 3 then twStat x w 6 false c
    else
      let owner := twOwner c x w
      let t := bits (twGet c x w 0) 23 16
      let r := bits (twGet c x w 4) 23 0
      let st := tableCheck c owner t r (decide (op ≠ 1))
      let buf := memRead c.twBuf (twBufKey x w) 512
      let d := match owner with
        | some p => if st ≠ 0 then c
          else if op = 2 then tableOpen p t r c
          else if op = 3 then tableInvalidate k p t r c
          else c
        | none => c
      let got := match owner with
        | some p => if st ≠ 0 then [] else if op = 1 then tableRead c p t r else if op = 2 then buf else []
        | none => []
      let old := match owner with
        | some p => if st = 0 ∧ op = 2 then Chip.row c p t r 0 ((tableOf c.part p t).elim 0 (fun i => i.bytes)) else []
        | none => []
      let run : TwRun := {
        op := op, owner := owner, table := t, row := r, stat := st, data := got, again := false, old := old }
      twStat x w 0 true { d with twRun := kvPut d.twRun (twKey x w) run }

/-- The running command of a window completes; `ecc` is an error its READ met (R80, R82). A WRITE's last word is
written: the entry stands over any update made to the row meanwhile, with what its writing does (R81, R249).
Assumption 48 (DEDUCED, safe). -/
def twDone (k : Clk) (x : Cx) (w : Fin 64) (ecc : Option EccErr) (c : Chip) : Chip :=
  match kvFind c.twRun (twKey x w) with
  | none => c
  | some r =>
    let c := { c with twRun := kvErase c.twRun (twKey x w) }
    let res : Chip × Nat :=
      if r.op = 1 ∧ r.stat = 0 then
        match r.owner with
        | some p =>
          let a := readError k p r.table r.row ecc r.data c
          ({ a.1 with twBuf := memWrite a.1.twBuf (twBufKey x w) a.2.1 }, if a.2.2 then 4 else 0)
        | none => (c, r.stat)
      else if r.op = 2 ∧ r.stat = 0 then
        match r.owner with
        | some p => (tableWrite k p r.table r.row r.data (Chip.setRow c p r.table r.row 0 r.old), r.stat)
        | none => (c, r.stat)
      else (c, r.stat)
    let row := twGet res.1 x w 4
    let c := if res.2 = 0 ∧ bit row 31 = true then
        twPut x w 4 (setBits row 23 0 (bits row 23 0 + 1)) res.1
      else res.1
    twStat x w (if r.again then 5 else res.2) false c

/-- `n` bytes read from a window page (R79): the command register reads zero. -/
def twRead (c : Chip) (x : Cx) (w : Fin 64) (o n : Nat) : Nat :=
  let half (o : Nat) : Nat :=
    if 0x100 ≤ o ∧ o < 0x300 then leNat (memRead c.twBuf (twBufKey x w + (o - 0x100)) 4)
    else if (twRegAt o).isSome ∧ o ≠ 0x008 then twGet c x w o % 2 ^ 32 else 0
  if n = 8 then half o + 2 ^ 32 * half (o + 4) else half o

/-- Four bytes written to a window page. -/
def twWrite4 (k : Clk) (x : Cx) (w : Fin 64) (o v : Nat) (c : Chip) : Chip :=
  if 0x100 ≤ o ∧ o < 0x300 then { c with twBuf := memWrite c.twBuf (twBufKey x w + (o - 0x100)) (leBytes 4 v) }
  else if o = 0x008 then twCmd k x w (v % 8) c
  else if o = 0x000 ∨ o = 0x004 then
    match twRegAt o with
    | some r => twPut x w o (BitVec.ofNat 64 v &&& Reg.mask r .rw).toNat c
    | none => c
  else c

/-- `n` bytes written to a window page. -/
def twWrite (k : Clk) (x : Cx) (w : Fin 64) (o n v : Nat) (c : Chip) : Chip :=
  if n = 8 then twWrite4 k x w (o + 4) (v / 2 ^ 32) (twWrite4 k x w o (v % 2 ^ 32) c) else twWrite4 k x w o (v % 2 ^ 32) c

end Sys2Proof.Machine
end

