-- ==== Sys2Proof/Machine/Access.lean ====
section
/-!
DEFINITION. The register access port (R51, R60 to R75): what a read returns, what a write does to each field, and the
commands that registers issue.
-/
namespace Sys2Proof.Machine

/-! MODIFY of a meter (R250, R254). -/

/-- A write of MODIFY to MTR_MOD_CMD. Assumption 50 (DEDUCED, unsafe). -/
def modCmd (k : Clk) (x : Cx) (locked : Bool) (c : Chip) : Chip :=
  let p := mtrPage x
  match kvFind c.mtrMod x.val with
  | some r => { c with mtrMod := kvPut c.mtrMod x.val { r with again := true } }
  | none =>
    if locked then Chip.cause (Chip.setFld c p 0x060 7 4 4) p 8
    else
      let r := modifyMeter k x c
      Chip.setFld { r.1 with mtrMod := kvPut r.1.mtrMod x.val ⟨r.2, false⟩ } p 0x060 0 0 1

/-- The running MODIFY completes. -/
def modDone (x : Cx) (c : Chip) : Chip :=
  let p := mtrPage x
  match kvFind c.mtrMod x.val with
  | some r =>
    let c := Chip.setFld (Chip.setFld c p 0x060 0 0 0) p 0x060 7 4 (if r.again then 5 else r.status)
    Chip.cause { c with mtrMod := kvErase c.mtrMod x.val } p 8
  | none => c

/-! Locks (R68). -/

/-- ICU_TGT_COMPLETE at an offset of the ICU page. -/
def isComplete (p : Page) (s : Nat) : Bool := decide (p = .icu) && decide (0x200 ≤ s) && decide (s < 0x300) && decide (s % 0x20 = 8)

/-- A register that a locked page still takes writes of (R68, R354). -/
def lockFree (p : Page) (s : Nat) : Bool := decide (s ∈ [0x014, 0x018, 0x028]) || isComplete p s

/-- The bits of a register that a write stores: RW, RWS, and the key data; less those that ignore writes (R61, R140,
R309, R360, R421). -/
def plainMask (c : Chip) (p : Page) (r : Reg) (s : Nat) : Word :=
  let m := Reg.mask r .rw ||| Reg.mask r .rws
  match p with
  | .cap => if s = 0x008 then m &&& ~~~1 else m
  | .tim => if s = 0x0B8 ∧ Chip.src c ≠ 2 then 0 else m
  | .icu => if s = 0x140 then m &&& ~~~0xFFFF else m
  | .sel => m ||| Reg.mask r .wok
  | .cx x .hlt _ => if s = 0x040 ∧ x = 1 then m &&& ~~~1 else m
  | .cx _ .jrn _ => if 0x048 ≤ s ∧ s < 0x078 ∧ Chip.enabled c p = true then 0 else m
  | _ => m

/-- The WOS bits written that a locked page discards: FIND, SNAP, COPY and LOAD are performed. -/
def wosRefused (p : Page) (r : Reg) (s v : Nat) : Nat :=
  let m := v &&& (Reg.mask r .wos).toNat
  match p with
  | .tim => if s = 0x048 then m &&& 0xE else if s = 0x100 ∧ (m = 1 ∨ m = 2) then 0 else m
  | .cx _ .ses _ => if s = 0x13C ∧ m = 3 then 0 else m
  | _ => m

/-- A write of `v` to a register of a locked page that discards a field which would have changed or acted.
Assumption 52 (DEDUCED, unsafe). -/
def violates (c : Chip) (p : Page) (r : Reg) (s v : Nat) : Bool :=
  if !Chip.locked c p || lockFree p s then false
  else if s = 0x01C then decide (bits v 31 16 ≠ Chip.fld c p s 31 16)
  else
    let m := plainMask c p r s &&& ~~~Reg.mask r .wok
    let want := stageNorm p s (merge m (Chip.get c p s) (BitVec.ofNat 64 v)).toNat
    (decide (BitVec.ofNat 64 want ≠ Chip.get c p s) && (decide (m = 0) || (stageRefused p s want).isNone)) ||
    decide (wosRefused p r s v ≠ 0) || decide (Reg.mask r .wok ≠ 0)

/-! Fields (R12, R70, R74). -/

/-- A register's stored bits after a write of `v`. -/
def fieldWrite (k : Clk) (p : Page) (r : Reg) (s v : Nat) (c : Chip) : Chip :=
  let old := Chip.get c p s
  let plain := if Chip.locked c p && !lockFree p s then 0 else plainMask c p r s
  let want := stageNorm p s (merge plain old (BitVec.ofNat 64 v)).toNat
  match (if plain = 0 then none else stageRefused p s want) with
  | some b => Chip.cause c p b
  | none =>
    let w := BitVec.ofNat 64 v
    let new := (BitVec.ofNat 64 want &&& ~~~(w &&& Reg.mask r .w1c)) ||| (w &&& Reg.mask r .w1s)
    let c := if decide (Reg.mask r .rws ≠ 0) && decide (new ≠ old) && decide (k.clock ≠ 0) then keepStaged k p c else c
    Chip.put c p s new

/-- HDR_ERR_INFO (R65): VALID clears MORE and the address with itself. Assumption 58 (DEDUCED, safe). -/
def errWrite (p : Page) (v : Nat) (c : Chip) : Chip :=
  let c := Chip.onlyIf c (bit v 31) (fun c => Chip.setFld c p 0x020 31 31 0)
  if bit v 30 then Chip.put (Chip.setFld c p 0x020 31 30 0) p 0x024 0 else c

/-- HDR_CTL (R65 to R68): the new state of LOCK, QUIESCE_REQ and ENABLE, then the reset, which clears a LOCK set with it.
Assumption 126 (DESIGN CHOICE, unsafe). -/
def ctlWrite (k : Clk) (p : Page) (r : Reg) (v : Nat) (c : Chip) : Chip :=
  let locked := Chip.locked c p
  let was := Chip.flag c p 0x008 1
  let c := fieldWrite k p r 0x008 v c
  let now := Chip.flag c p 0x008 1
  let c := if !was && now then quiesceStart k p c else if was && !now then quiesceEnd k p c else c
  if bit v 2 && !locked then softReset k p c else c

/-- A header register written (R65 to R70). -/
def hdrWrite (k : Clk) (p : Page) (r : Reg) (s v : Nat) (c : Chip) : Chip :=
  if s = 0x008 then ctlWrite k p r v c
  else if s = 0x018 then Chip.put c p 0x010 (Chip.get c p 0x010 ||| (BitVec.ofNat 64 v &&& BitVec.ofNat 64 (Page.causes c.part p)))
  else if s = 0x01C then (if Chip.locked c p then c else genWrite k p (bits v 31 16) c)
  else if s = 0x020 then errWrite p v c
  else fieldWrite k p r s v c

/-! What registers do (each chapter's registers). -/

/-- LOG_CTL and LOG_MARK_CMD of a complex (R418, R420, R422). -/
def logHook (k : Clk) (x : Cx) (s v : Nat) (c : Chip) : Chip :=
  let p := onePage x .log
  if s = 0x040 ∧ bit v 0 = true then
    let st := Chip.logSt c x
    { c with logs := kvPut c.logs x.val { st with frozen := st.entry } }
  else if s = 0x050 ∧ bit v 0 = true then Chip.log c k x 0xF0 p (Chip.get c p 0x048).toNat
  else c

/-- A register of a ring block (R318, R319, R340). -/
def ringHook (k : Clk) (x : Cx) (i s v : Nat) (c : Chip) : Chip :=
  if s < 0x100 then c
  else
    let r := ringKey x (8 * i + (s - 0x100) / 0x80)
    match (s - 0x100) % 0x80 with
    | 0x20 => doorbell k r (BitVec.ofNat 64 v) c
    | 0x30 => ackWrite k r (v % 2 ^ 32) c
    | 0x38 => if bit v 0 then ringReset k r c else c
    | _ => c

/-- CHK_CMD and the data registers (R366, R369). -/
def chkHook (k : Clk) (x : Cx) (u : Fin 4) (s v : Nat) (c : Chip) : Chip :=
  if s = 0x070 then chkCmd k x u v c
  else if s = 0x0A0 then chkData k x u s 1 v c
  else if s = 0x0A4 then chkData k x u s 2 v c
  else if s = 0x0A8 then chkData k x u s 4 v c
  else if s = 0x0B0 then chkData k x u s 8 v c
  else c

/-- DOR_ARM_CMD (R274, R281): with both bits set CANCEL comes first. -/
def dorHook (x : Cx) (s v : Nat) (c : Chip) : Chip :=
  if s = 0x060 then
    let c := Chip.onlyIf c (bit v 1) (cancel x)
    Chip.onlyIf c (bit v 0) (arm x)
  else c

/-- The registers of a complex's pages that act when written; `locked` is LOCK of the page. -/
def cxHook (k : Clk) (x : Cx) (t : CxType) (i s v : Nat) (locked : Bool) (c : Chip) : Chip :=
  let n := laneOf x i
  match t with
  | .slc => if s = 0x04C ∧ bit v 0 = true then (swapCmd k (Fin.ofNat 8 (4 * x.val + i)) locked c).1 else c
  | .ses => if s = 0x13C then kopCmd k x (v % 8) (bit v 3) c else c
  | .mtr => if s = 0x05C ∧ bit v 0 = true then modCmd k x locked c else c
  | .dor => dorHook x s v c
  | .prt =>
    if locked then c
    else if s = 0x044 ∧ bit v 0 = true then retry k n c
    else if s = 0x048 then dormantWrite k n (v % 2) c
    else if s = 0x128 then fcWrite n (v % 256) c
    else c
  | .stp =>
    if locked || s != 0x04C then c
    else Chip.onlyIf (Chip.onlyIf c (bit v 0) (armProbe n false)) (bit v 1) (armProbe n true)
  | .dma => if locked then c else ringHook k x i s v c
  | .chk => if locked then c else chkHook k x (Fin.ofNat 4 i) s v c
  | .hlt => if s = 0x048 then (if locked then c else winCmd x v c)
    else if s = 0x050 ∧ bit v 31 = true then Chip.put c (hltPage x) 0x050 0 else c
  | .log => if locked then c else logHook k x s v c
  | .swp => if s = 0x044 ∧ locked = false then swpCmd k x v c else c
  | _ => c

/-- The registers that act when written, after their fields are stored. -/
def regHook (k : Clk) (p : Page) (s v : Nat) (locked : Bool) (c : Chip) : Chip :=
  match p with
  | .tim =>
    if s = 0x048 then timCmd k v locked c
    else if s = 0x0B8 then (if !locked && decide (Chip.src c = 2) then offsetReport k (BitVec.ofNat 64 v).toInt c else c)
    else if s = 0x100 then calCmd k (v % 8) locked c
    else if s = 0x108 then (if locked then c else calUnlock k (v % 2 ^ 32) c)
    else c
  | .icu =>
    if isComplete p s then icuComplete k ((s - 0x200) / 0x20) (v % 65536) c
    else if s = 0x300 ∧ bit v 31 = true then Chip.put c .icu 0x300 0
    else c
  | .pil => if s = 0x040 ∧ locked = false then pilotCtl k (bit v 0) c else c
  | .sag => if s = 0x064 ∧ locked = false then sagCmd k v c else c
  | .func =>
    if 0x100 ≤ s ∧ s < 0x200 ∧ locked = false then sweepFuncs (funcWrite k ((s - 0x100) / 4) (Chip.get c .func s) c) else c
  | .sel => if s = 0x060 then keyCmd (v % 4) (bit v 8) (bit v 9) c else c
  | .cx x t i => cxHook k x t i.val s v locked c
  | .cap => c

/-- The unit stores the register at an offset itself. -/
def storesOwn (p : Page) (s : Nat) : Bool :=
  match p with
  | .cx _ .chk _ => decide (0x0A0 ≤ s) && decide (s < 0x0B8)
  | .cx _ .prt _ => decide (s = 0x048) || decide (s = 0x128)
  | .pil => decide (s = 0x040)
  | .icu => isComplete p s
  | .cx _ .dma _ => decide (0x100 ≤ s) && (decide ((s - 0x100) % 0x80 = 0x30) || decide ((s - 0x100) % 0x80 = 0x20))
  | _ => false

/-- A unit's register written: its fields are stored, and it acts. Assumption 53 (DEDUCED, unsafe). -/
def unitWrite (k : Clk) (p : Page) (r : Reg) (s v : Nat) (c : Chip) : Chip :=
  regHook k p s v (Chip.locked c p) (if storesOwn p s then c else fieldWrite k p r s v c)

/-- A write of `v` to the register that begins at offset `s`: reserved bits are taken as zero (R74), absent ones are
ignored (R4). -/
def regWrite (k : Clk) (p : Page) (r : Reg) (s v : Nat) (c : Chip) : Chip :=
  if s < 0x040 then hdrWrite k p r s (v &&& partMask c.part p s) c
  else unitWrite k p r s (v &&& partMask c.part p s) c

/-! The port. -/

/-- The page takes no writes but those of HDR_SCRATCH: it is BUSY (R67, R448), or a TIM or STP page before its calibration
(R151).
Assumption 37 (DEDUCED, unsafe). -/
def writesRefused (k : Clk) (c : Chip) (p : Page) : Bool :=
  Chip.busy c k p ||
  (match p with
   | .tim => !calLoaded
   | .cx _ .stp _ => !calLoaded
   | _ => false)
where
  calLoaded : Bool := Chip.flag c .tim 0x044 6 || Chip.flag c .tim 0x044 7

/-- The registers that a write of `n` bytes at offset `o` covers, each with its offset and value; none for a write of half
a 64-bit register (R73). Reserved offsets are covered by nothing. -/
def covered (p : Page) (o n v : Nat) : Option (List (Reg × Nat × Nat)) :=
  let half (o v : Nat) : List (Reg × Nat × Nat) :=
    match Page.regAt p o with
    | some r => [(r, o, v % 2 ^ 32)]
    | none => []
  match Page.regAt p o with
  | some r =>
    if r.bytes = 8 then (if n = 8 then some [(r, o, v)] else none)
    else some (if n = 8 then half o v ++ half (o + 4) (v / 2 ^ 32) else half o v)
  | none => some (if n = 8 then half (o + 4) (v / 2 ^ 32) else [])

/-- An aligned write of `n` bytes, 4 or 8, at an offset of a page's registers. A write of half a 64-bit register is captured
with kind 5 alone, whatever the page's state (R73). Assumption 51 (DEDUCED, unsafe); assumption 146 (DEDUCED, unsafe). -/
def pageWrite (k : Clk) (p : Page) (o n v : Nat) (c : Chip) : Chip :=
  let a := Page.base p + o
  match covered p o n v with
  | none => Chip.capture c p 0 5 a 0
  | some rs =>
    if writesRefused k c p then
      if o = 0x028 ∧ Chip.busy c k p = true then Chip.put c p 0x028 (BitVec.ofNat 64 (v % 2 ^ 32))
      else Chip.capture c p 0 6 a 0
    else
      let c := if rs.any (fun e => violates c p e.1 e.2.1 (e.2.2 &&& partMask c.part p e.2.1)) then Chip.capture c p 0 4 a 0 else c
      rs.foldl (fun c e => regWrite k p e.1 e.2.1 e.2.2 c) c

/-- An aligned read of `n` bytes at an offset of a page's registers: one that covers a CLAIM register claims (R347). -/
def pageRead (k : Clk) (p : Page) (live : Bool) (o n : Nat) (c : Chip) : Chip × Nat :=
  let v := readBytes k c p live o n
  let t := (o - 0x200) / 0x20
  if p = .icu ∧ live = false ∧ 0x200 ≤ o ∧ o < 0x300 ∧ Chip.busy c k p = false then
    if o % 0x20 = 4 then icuClaim k t c
    else if o % 0x20 = 0 ∧ n = 8 then
      let r := icuClaim k t c
      (r.1, v % 2 ^ 32 + 2 ^ 32 * r.2)
    else (c, v)
  else (c, v)

/-- Where an access lands; a complex in STANDBY answers none (R355). -/
def portPlace (c : Chip) (a : Nat) : Place :=
  match placeOf c.part a with
  | .reg (.cx x t i) o => if x ∈ c.standby then .none else .reg (.cx x t i) o
  | .live (.cx x t i) o => if x ∈ c.standby then .none else .live (.cx x t i) o
  | .window x w o => if x ∈ c.standby then .none else .window x w o
  | pl => pl

/-- An access of 4 or 8 bytes, aligned (R72). -/
def sizeOk (a : Access) : Bool := (decide (a.size = 4) || decide (a.size = 8)) && decide (a.addr % a.size = 0)

/-- A write at the port. Assumption 56 (DEDUCED, safe). -/
def portWrite (k : Clk) (a : Access) (v : Nat) (c : Chip) : Chip :=
  match portPlace c a.addr with
  | .none => Chip.decodeError c a.addr
  | .live _ _ => Chip.decodeError c a.addr
  | .window x w o =>
    if sizeOk a then twWrite k x w o a.size v c else Chip.capture c (onePage x .cpx) 0 5 (a.addr % 2 ^ 26) 0
  | .reg p o => if sizeOk a then pageWrite k p o a.size v c else Chip.capture c p 0 5 (a.addr % 2 ^ 26) 0

/-- A read at the port: the chip after it, and the data. -/
def portRead (k : Clk) (a : Access) (c : Chip) : Chip × Nat :=
  let ones := if a.size = 4 then 2 ^ 32 - 1 else 2 ^ 64 - 1
  match portPlace c a.addr with
  | .none => (Chip.decodeError c a.addr, ones)
  | .live p o => if sizeOk a then pageRead k p true o a.size c else (Chip.capture c p 0 5 (a.addr % 2 ^ 26) 0, ones)
  | .window x w o =>
    if sizeOk a then (c, twRead c x w o a.size) else (Chip.capture c (onePage x .cpx) 0 5 (a.addr % 2 ^ 26) 0, ones)
  | .reg p o => if sizeOk a then pageRead k p false o a.size c else (Chip.capture c p 0 5 (a.addr % 2 ^ 26) 0, ones)

/-- An access at the register access port (R51, R52, R63, R72). -/
def access (k : Clk) (a : Access) (c : Chip) : Chip :=
  match a.op with
  | .write v => masterWrote a.master (portWrite k a v.toNat c)
  | .read =>
    let r := portRead k a c
    let w := BitVec.ofNat 64 r.2
    let c := Chip.emit r.1 (.readData w)
    match a.master with
    | .pcie => { c with readPcie := w }
    | .mgmt => { c with readMgmt := w }

/-- Accesses presented in one clock in the order they are performed: the management core's first (R52). -/
def accessOrder (a : Access) (same : Option Access) : List Access :=
  match same with
  | none => [a]
  | some b => if a.master = .pcie ∧ b.master = .mgmt then [b, a] else [a, b]

/-- A 4-byte write of the PCIe master to a register of a page: the commands that are named writes.
Assumption 12 (DESIGN CHOICE, safe). -/
def writeReg (k : Clk) (p : Page) (o v : Nat) (c : Chip) : Chip :=
  access k { master := .pcie, addr := Page.base p + o, size := 4, op := .write (BitVec.ofNat 64 v) } c

/-- An 8-byte write of the PCIe master. -/
def writeReg8 (k : Clk) (p : Page) (o v : Nat) (c : Chip) : Chip :=
  access k { master := .pcie, addr := Page.base p + o, size := 8, op := .write (BitVec.ofNat 64 v) } c

/-- A read of the PCIe master. -/
def readReg4 (k : Clk) (p : Page) (o : Nat) (c : Chip) : Chip :=
  access k { master := .pcie, addr := Page.base p + o, size := 4, op := .read } c

end Sys2Proof.Machine
end

