-- ==== Sys2Proof/Machine/Tick.lean ====
section
/-!
DEFINITION. The passing of core clocks and the turn boundary (R23, R128).
-/
namespace Sys2Proof.Machine

/-- Nothing waits for a particular clock: no request, no SWAP, no pause timer, no journal event, no segment of a
bus, no record, no row of a table scan. -/
def quietClock (c : Chip) : Bool :=
  c.swaps.isEmpty && c.drops.isEmpty && c.bus.isEmpty &&
  !(complexes c.part).any (fun x => !(atStage9 c x).isEmpty) &&
  c.ports.all (fun e => e.2.pause.isEmpty && e.2.tx.all (fun f => f.cfg.isSome)) &&
  (complexes c.part).all (fun x => !jrnWaits c x && (Chip.jrnOf c x).pend.isEmpty) && !c.chk.any (fun e => scansTable e.2)

/-- Half a second, in nanoseconds. -/
def halfNs : Nat := 500000000

/-- Chip time and the clock in the turn `n` clocks on, `n` within the turn; whether a whole or half second was passed.
Assumption 95 (DEDUCED, safe); assumption 131 (DESIGN CHOICE, unsafe). -/
def Clk.run (k : Clk) (n : Nat) : Clk :=
  let t := Clk.plus k n
  { t with
    clock := k.clock + n
    secPass := k.secPass || decide (t.sec ≠ k.sec)
    halfPass := k.halfPass || (decide (k.ns < halfNs) && decide (halfNs ≤ t.ns)) }

/-- The buses of the PGs after a clock (R21, R22); a re-entering head that line traffic has made wait counts (R212). -/
def busClock (c : Chip) : Chip :=
  (c.bus.filter (fun e => awake c (Fin.ofNat 2 (e.1 % 64 / 32)))).foldl (fun c e =>
    let c := e.2.late.foldl (fun c i => match Chip.frame c i with
      | some f => let r := markRecirc f c; setFrame r.2 r.1
      | none => c) c
    let b := e.2.next
    { c with bus := if b.line = 0 ∧ b.owed.isEmpty = true then kvErase c.bus e.1 else kvPut c.bus e.1 b }) c

/-- What a clock brings that no command does: the buses carry segments (R21), a SWAP applies (R186), requests leave (R44), pause timers run (R119, R126,
R127), the journal waits for a place (R298), a table scan reads a row (R368). A complex in STANDBY is gated (R355). -/
def clockEffects (k : Clk) (c : Chip) : Chip :=
  let now := Clk.abs k
  let c := issueDue now (swapsDue k (busClock c))
  let c := (c.ports.filter (fun e => !e.2.pause.isEmpty && awake c (cxOf (Fin.ofNat 512 e.1)))).foldl (fun c e =>
    let n : Fin 512 := Fin.ofNat 512 e.1
    let c := if e.2.pause.any (fun s => decide (s.start = now)) then pauseSync now n c else c
    if (List.range 8).any (fun cls => pausedAt c n cls now) then Chip.bump c (prtPage n) 0x4E0 else c) c
  ((complexes c.part).filter (fun x => awake c x)).foldl (fun c x =>
    scanTick k x (if jrnWaits c x then Chip.bump c (jrnPage x) 0x148 else c)) c

/-- What a clock ends with: its meter decisions, and its data records take their sequences (R247, R291). -/
def clockEnd (k : Clk) (c : Chip) : Chip :=
  ((complexes c.part).filter (fun x => awake c x)).foldl (fun c x => jrnFlush k x (meterClock k x c)) c

/-- One clock of a turn passes. -/
def tick1 (k : Clk) (c : Chip) : Clk × Chip :=
  let t := Clk.run k 1
  (t, clockEffects t (clockEnd k c))

/-- `n` clocks of a turn pass. -/
def ticks : Nat → Clk → Chip → Clk × Chip
  | 0, k, c => (k, c)
  | n + 1, k, c => ticks n (tick1 k c).1 (tick1 k c).2

/-- `n` clocks pass, all at once where no clock brings anything. -/
def passClocks (n : Nat) (k : Clk) (c : Chip) : Clk × Chip :=
  if quietClock c then (Clk.run k n, c) else ticks n k c

/-- Clock 0 of the next turn for every unit (R23, R24). `peer` is the level of PAIR_PEER_ROLE. -/
def turnEffects (k : Clk) (peer : Bool) (c : Chip) : Chip :=
  let c := refTurn (commitTurn c)
  let c := pairTurn k peer c
  let c := (complexes c.part).foldl (fun c x =>
    let c := swpTurn k x c
    if awake c x then thermTurn k x (hltTurn k x c) else c) c
  if k.turn % 16 = 0 then
    ((complexes c.part).filter (fun x => awake c x)).foldl (fun c x => jrnEpoch k x c) c
  else c

/-- The turn's remaining clocks pass, and the next turn begins. Assumption 5 (DEDUCED, safe). -/
def turnBoundary (peer : Bool) (k : Clk) (c : Chip) : Clk × Chip :=
  let a := passClocks (1600 - k.clock) { k with secPass := false, halfPass := false } c
  let t := { a.1 with turn := k.turn + 1, clock := 0 }
  (t, turnEffects t peer a.2)

/-- What the block does with no command waiting: one clock of the turn passes; the turn's last clock waits for
TURN_BOUNDARY. -/
def idleClock (k : Clk) (c : Chip) : Clk × Chip :=
  if k.clock < 1599 then
    let k := { k with secPass := false, halfPass := false }
    if quietClock c then (Clk.run k 1, c) else tick1 k c
  else (k, c)

end Sys2Proof.Machine
end

