-- ==== Sys2Proof/Machine/CmdReset.lean ====
section
/-!
DEFINITION. Meanings. Resets, power, the turn boundary and missed turns (R23 to R26, R67, R447 to R449).
-/
namespace Sys2Proof.Machine

/-- The command concerns one complex: it has no effect on one that is absent or in STANDBY (R355).
Assumption 13 (DEDUCED, safe). -/
def State.onCx (s : State) (x : Cx) (f : Clk → Chip → Chip) : Out :=
  s.act (fun k c => if awake c x then f k c else c)

/-- A frame reaches a port: its complex is there and powered, or in STANDBY with the port DORMANT, whose receiver and wake
matcher stay powered (R98, R355). -/
def State.onRx (s : State) (n : Fin 512) (f : Clk → Chip → Chip) : Out :=
  s.act (fun k c =>
    if awake c (cxOf n) || (c.standby.contains (cxOf n) && decide (Chip.linkState c n = 6)) then f k c else c)

/-- A lane's receiver reports to its port: the complex is there and powered, or in STANDBY with the lane's port DORMANT, whose
lane receivers stay powered (R355). -/
def State.onLane (s : State) (l : Fin 512) (f : Clk → Chip → Chip) : Out :=
  s.act (fun k c =>
    let asleep := match laneOwner c l with | some n => decide (Chip.linkState c n = 6) | none => false
    if awake c (cxOf l) || (c.standby.contains (cxOf l) && asleep) then f k c else c)

/-- The page is there and powered. -/
def pageAwake (c : Chip) (p : Page) : Bool :=
  Page.present c.part p && (match p with | .cx x _ _ => awake c x | _ => true)

/-- The command concerns one page. -/
def State.onPage (s : State) (p : Page) (f : Clk → Chip → Chip) : Out :=
  s.act (fun k c => if pageAwake c p then f k c else c)

/-- The command concerns the pair unit, on a part that has it (R5). -/
def State.onPair (s : State) (f : Clk → Chip → Chip) : Out :=
  s.act (fun k c => if hasSaggar c.part then f k c else c)

/-- The complex of a slice, and of a PG of the chip (R7). -/
def cxOfSlice (sl : Fin 8) : Cx := Fin.ofNat 2 (sl.val / 4)
def cxOfPg (g : Fin 64) : Cx := Fin.ofNat 2 (g.val / 32)

/-- HDR_CTL as it reads: LOCK, QUIESCE_REQ and ENABLE (R65). -/
def hdrCtl (c : Chip) (p : Page) : Nat := (Chip.get c p 0x008 &&& 0xB#64).toNat

/-- What the calibration store keeps of its state without power. Assumption 33 (DEDUCED, safe). -/
def keptTime (t : TimeSt) : TimeSt := { calProg := (calPowerLoss t).calProg, calTorn := (calPowerLoss t).calTorn }

/-- The rows of the calibration store. -/
def keptRows (m : List Host.Cell) : List Host.Cell :=
  m.filter (fun e => decide (rowKey .tim 0 0 ≤ e.1) && decide (e.1 < rowKey .tim 0 4096))

/-- The chip after chip reset: only the calibration store keeps what it held (R449). -/
def chipReset (c : Chip) : Chip :=
  { Chip.resetOf c.part with mem := keptRows c.mem, time := keptTime c.time, maxPay := c.maxPay, maxRead := c.maxRead }

/-- The chip without power: outputs released, every volatile state lost, an interrupted PROGRAM's store invalid (R54, R152,
R418). Assumption 32 (DEDUCED, safe). -/
def powerDown (c : Chip) : Chip := { chipReset c with off := true }

/-- A complex has written every table word (R448). -/
def initDone (x : Cx) (c : Chip) : Chip := { c with initBusy := c.initBusy.filter (· ≠ x) }

/-- A missed activity's late counter, LATE and log entry (R25, R420). -/
def missed (k : Clk) (x : Cx) (p : Page) (off act : Nat) (c : Chip) : Chip :=
  Chip.log (Chip.setLate (Chip.bump c p off) p) k x 0x01 p act

/-- The slip epoch's close misses its turn (R25, R26). -/
def missedClose (k : Clk) (c : Chip) : Chip :=
  if hasSaggar c.part && (slipMissed c).2 then Chip.log (Chip.setLate (slipMissed c).1 .sag) k 0 0x01 .sag 6 else c

/-- The Sweep's chunk misses its turn: SWP_LATE_CNT counts it with the chunk (R25, R430). -/
def missedSweep (k : Clk) (x : Cx) (read wrote : Nat) (c : Chip) : Chip :=
  let r := sweepMissed k x read wrote c
  if r.2 then Chip.log (Chip.setLate r.1 (swpPage x)) k x 0x01 (swpPage x) 4 else c

/-- The health report of a turn that begins a slip epoch is not made (R25, R26). -/
def missedHealth (k : Clk) (x : Cx) (c : Chip) : Chip :=
  let h := Chip.hltOf c x
  if Chip.enabled c (hltPage x) && decide (k.turn % 16 = 0) && decide (h.built ≠ some (k.turn / 16)) then
    missed k x (hltPage x) 0x158 5 (setHlt x { h with built := some (k.turn / 16) } c)
  else c

/-- The last clock of a turn: the end of the windows that run to clock 1,599 (R24). -/
def lastClock (k : Clk) : Bool := decide (1599 ≤ k.clock)

/-- A turn-bound activity reaches the end of its window unfinished (R25). Assumption 59 (DEDUCED, unsafe). -/
def turnMissed (k : Clk) (a : Activity) (c : Chip) : Chip :=
  match a with
  | .commit p => if pageAwake c p then commitMissed k p c else c
  | .wheel x =>
    if awake c x && wheelLate k x c then
      missed k x (whlPage x) 0x080 2 (setSched x { Chip.schedOf c x with missed := some k.turn } c) else c
  | .telemetry x =>
    if awake c x && decide (1536 ≤ k.clock) && sampleOwed k c x then
      missed k x (telPage x) 0x080 3 (setSched x { Chip.schedOf c x with sampled := some k.turn } c) else c
  | .sweep x read wrote => if awake c x && lastClock k then missedSweep k x read wrote c else c
  | .health x => if awake c x && lastClock k then missedHealth k x c else c
  | .slipClose => if lastClock k then missedClose k c else c

/-- CHIP_RESET (R447): chip power-up or cold reset clears every shared page and complex, zeroes chip time and starts
table initialisation. -/
def execChipReset (s : State) : Out := .next { s with clk := Clk.reset, chip := chipReset s.chip }

/-- CHIP_INIT_DONE (R448): A complex finishes writing every table word after chip reset, and BUSY of its CPX page
clears. -/
def execChipInitDone (x : Cx) (s : State) : Out := s.act (fun _ c => initDone x c)

/-- CAL_POWERUP_LOAD (R151): after chip reset the calibration store is checked and applied to staged and live copies,
setting CAL_DONE or CAL_BAD. -/
def execCalPowerupLoad (s : State) : Out := s.act (fun k c => calPowerup k c)

/-- TURN_BOUNDARY (R23): clock 0 of a turn: the turn number advances and a slip epoch begins on multiples of 16. -/
def execTurnBoundary (peerRole : Bool) (s : State) : Out := s.actClk (fun k c => turnBoundary peerRole k c)

/-- TURN_MISSED (R25): A turn-bound activity reaches the end of its window unfinished; its work is dropped, LATE sets,
the late counter and crazing log record it. -/
def execTurnMissed (a : Activity) (s : State) : Out := s.act (fun k c => turnMissed k a c)

/-- SOFT_RESET (R67): A write of 1 to SOFT_RESET sets BUSY, quiesces the unit and resets the page's fields and state.
-/
def execSoftReset (p : Page) (s : State) : Out := s.act (fun k c => writeReg k p 0x008 (hdrCtl c p ||| 4) c)

/-- SOFT_RESET_COMPLEX (R67): SOFT_RESET of a CPX page resets every page of that complex, keeping table entries and
crazing log entries. -/
def execSoftResetComplex (x : Cx) (s : State) : Out :=
  s.act (fun k c => writeReg k (cpxPage x) 0x008 (hdrCtl c (cpxPage x) ||| 4) c)

/-- SOFT_RESET_DONE (R67): A soft reset completes and BUSY clears within 4 turns of the write. -/
def execSoftResetDone (p : Page) (s : State) : Out := s.onPage p (fun k c => softResetDone k p c)

/-- CHIP_POWER_DOWN (R152): loss of chip power releases every output, loses the crazing log and leaves an interrupted
PROGRAM's calibration store invalid. -/
def execChipPowerDown (s : State) : Out := .next { s with clk := Clk.reset, chip := powerDown s.chip }

end Sys2Proof.Machine
end

