-- ==== Sys2Proof/Machine/CmdCheck.lean ====
section
/-!
DEFINITION. Meanings. The check units (R362 to R370).
-/
namespace Sys2Proof.Machine

/-- A write of the CHK_DATA register of 1, 2, 4 or 8 bytes (R366). -/
def feedData (k : Clk) (x : Cx) (u : Fin 4) (size : Fin 4) (v : Word) (c : Chip) : Chip :=
  match size with
  | 0 => writeReg k (chkPage x u) 0x0A0 v.toNat c
  | 1 => writeReg k (chkPage x u) 0x0A4 v.toNat c
  | 2 => writeReg k (chkPage x u) 0x0A8 v.toNat c
  | 3 => writeReg8 k (chkPage x u) 0x0B0 v.toNat c

/-- INIT (R369): INIT loads the check register from CHK_SEED and latches CHK_CTL. -/
def execInit (x : Cx) (u : Fin 4) (s : State) : Out := s.act (fun k c => writeReg k (chkPage x u) 0x070 1 c)

/-- SCAN (R367): SCAN feeds a host or table region into the running check. -/
def execScan (x : Cx) (u : Fin 4) (s : State) : Out := s.act (fun k c => writeReg k (chkPage x u) 0x070 2 c)

/-- CHECK (R364): CHECK finalises the check and compares it with the expected value. -/
def execCheck (x : Cx) (u : Fin 4) (s : State) : Out := s.act (fun k c => writeReg k (chkPage x u) 0x070 4 c)

/-- CHK_DATA_FEED (R366): A write to a CHK_DATA register feeds its bytes, or is discarded while busy. -/
def execChkDataFeed (x : Cx) (u : Fin 4) (size : Fin 4) (v : Word) (s : State) : Out :=
  s.act (fun k c => feedData k x u size v c)

/-- SCAN_END (R367): A scan ends with its status and the DONE cause sets. -/
def execScanEnd (x : Cx) (u : Fin 4) (data : List Byte) (errs : List (Nat × EccErr)) (s : State) : Out :=
  s.onCx x (fun k c => scanEnd k x u data errs c)

/-- CHK_FEED_DONE (R366): A register-fed write finishes after its 1 to 8 clocks and BUSY of CHK_STAT clears, so
further data writes are accepted. -/
def execChkFeedDone (x : Cx) (u : Fin 4) (s : State) : Out := s.onCx x (fun k c => chkFeedDone k x u c)

end Sys2Proof.Machine
end

