-- ==== Sys2Proof/Machine/CmdHealth.lean ====
section
/-!
DEFINITION. Meanings. Firing check, repair, health, the crazing log and temperature (R401 to R422, R438 to R444).
-/
namespace Sys2Proof.Machine

/-- SCRUB_READ (R406): A scrubber reads its next word and checks it. -/
def execScrubRead (p : Page) (t : Fin 256) (r : Fin 262144) (word : Fin 32) (ecc : Option EccErr) (hard : Bool)
    (shared : Bool) (s : State) : Out :=
  s.act (fun k c => scrubRead k p t.val r.val word.val ecc hard shared c)

/-- REMAP_DONE (R409): A row's copy to a spare completes and its address is redirected. -/
def execRemapDone (p : Page) (t : Fin 256) (r : Fin 262144) (s : State) : Out :=
  s.onPage p (fun k c => remapDone k p t.val r.val c)

/-- ENGINE_TEST_START (R413): at clock 0 an engine stops taking heads for its test. -/
def execEngineTestStart (slice : Fin 8) (engine : Fin 16) (s : State) : Out :=
  s.onCx (cxOfSlice slice) (fun k c => engineTest k slice engine c)

/-- ENGINE_TEST_ABANDON (R413): an engine not drained by clock 512 is returned untested. -/
def execEngineTestAbandon (slice : Fin 8) (s : State) : Out :=
  s.onCx (cxOfSlice slice) (fun k c => engineAbandon k slice c)

/-- ENGINE_TEST_END (R413): an engine test's signature is compared; the engine returns or is held. -/
def execEngineTestEnd (slice : Fin 8) (sig : BitVec 32) (s : State) : Out :=
  s.onCx (cxOfSlice slice) (fun k c => engineEnd k slice sig c)

/-- LOOPBACK_FRAME (R414): A loopback frame is sent and compared in a PG. -/
def execLoopbackFrame (pg : Fin 64) (bad : Option (Fin 16)) (s : State) : Out :=
  s.onCx (cxOfPg pg) (fun k c => loopbackFrame k pg bad c)

/-- DISTRIBUTION_TRIM (R411): the timebase distribution is re-measured and trimmed. -/
def execDistributionTrim (x : Cx) (want : List (Nat × Int)) (s : State) : Out :=
  s.onCx x (fun k c => distTrim k x want c)

/-- FOM_WATCH (R37, R415): each turn LNE_FOM of every owned lane, as the macro reports it, is compared with WARN and FAIL. -/
def execFomWatch (x : Cx) (lanes : List (Nat × LaneReport)) (s : State) : Out :=
  s.onCx x (fun k c => fomWatch k x lanes c)

/-- HEALTH_REPORT (R416): A cone report is built and CONE sets at the turn beginning a slip epoch. -/
def execHealthReport (x : Cx) (s : State) : Out := s.onCx x (fun k c => healthReport k x c)

/-- WINDOW_OPEN (R412): OPEN opens a maintenance window at the next turn boundary. -/
def execWindowOpen (x : Cx) (s : State) : Out := s.act (fun k c => writeReg k (hltPage x) 0x048 1 c)

/-- WINDOW_CLOSE (R412): CLOSE ends the window at the next turn boundary. -/
def execWindowClose (x : Cx) (s : State) : Out := s.act (fun k c => writeReg k (hltPage x) 0x048 2 c)

/-- PERIODIC_WINDOW_OPEN (R412): A window opens at turns that are multiples of 16 × PERIOD. -/
def execPeriodicWindowOpen (x : Cx) (s : State) : Out := s.onCx x (fun k c => periodicOpen k x c)

/-- WINDOW_END (R412): A window ends after LEN turns. -/
def execWindowEnd (x : Cx) (s : State) : Out := s.onCx x (fun k c => windowEnd k x c)

/-- LOG_MARK_WRITE (R420): LOG_MARK_CMD WRITE writes a software mark entry. -/
def execLogMarkWrite (x : Cx) (s : State) : Out := s.act (fun k c => writeReg k (onePage x .log) 0x050 1 c)

/-- LOG_FREEZE_WRITE (R418): A write of 1 to FREEZE restarts the fullness count. -/
def execLogFreezeWrite (x : Cx) (s : State) : Out := s.act (fun k c => writeReg k (onePage x .log) 0x040 1 c)

/-- TEMP_READING (R438): the junction sensor is read at clock 0 of each turn. -/
def execTempReading (x : Cx) (v : BitVec 16) (s : State) : Out := s.onCx x (fun k c => tempReading k x v c)

end Sys2Proof.Machine
end

