-- ==== Sys2Proof/Machine/CmdHost.lean ====
section
/-!
DEFINITION. Meanings. Host functions, rings and host memory errors (R50, R311 to R342).
-/
namespace Sys2Proof.Machine

/-- DMA_FUNC_CTL of a function as it is stored. -/
def funcCtl (c : Chip) (f : Fin 64) : Nat := (Chip.get c .func (0x100 + 4 * f.val)).toNat

/-- A host memory read fails (R50). -/
def readFailed (k : Clk) (t : ReadTarget) (timeout : Bool) (c : Chip) : Chip :=
  match t with
  | .entry ring count => if awake c (ringCx ring.val) then fetchError k ring.val count timeout c else c
  | .data ring => if awake c (ringCx ring.val) then dataError k ring.val timeout c else c
  | .check x u data => if awake c x then scanError x u data timeout c else c

/-- FUNC_ENABLE (R313): ENABLE written 1 enables a host function. -/
def execFuncEnable (f : Fin 64) (s : State) : Out :=
  s.act (fun k c => writeReg k .func (0x100 + 4 * f.val) (setBits (funcCtl c f) 31 31 1) c)

/-- FUNC_DISABLE (R312): ENABLE written 0 starts the disable sequence of a host function. -/
def execFuncDisable (f : Fin 64) (s : State) : Out :=
  s.act (fun k c => writeReg k .func (0x100 + 4 * f.val) (setBits (funcCtl c f) 31 31 0) c)

/-- FUNC_QUIESCED (R312): the function's reads have drained and entries completed; QUIESCED sets. -/
def execFuncQuiesced (f : Fin 64) (s : State) : Out := s.act (fun k c => funcQuiesced k f.val c)

/-- RING_RESET (R340): RESET stops the ring and aborts its outstanding work. -/
def execRingReset (ring : Fin 4096) (s : State) : Out :=
  s.act (fun k c => writeReg k (dmaPage ring.val) (ringOff ring.val + 0x38) 1 c)

/-- RING_STOPPED (R315): the last outstanding entry completes; the ring becomes DISABLED or restarts. -/
def execRingStopped (ring : Fin 4096) (s : State) : Out :=
  s.onCx (ringCx ring.val) (fun k c => ringStopped k ring.val c)

/-- DOORBELL (R318): A doorbell's new producer index is checked and accepted or rejected. -/
def execDoorbell (ring : Fin 4096) (v : Word) (s : State) : Out :=
  s.act (fun k c => writeReg8 k (dmaPage ring.val) (ringOff ring.val + 0x20) v.toNat c)

/-- EVT_DOORBELL (R339): an EVT ring's consumer doorbell advances C, is ignored as stale, or rejected. -/
def execEvtDoorbell (ring : Fin 4096) (v : Word) (s : State) : Out :=
  s.act (fun k c => writeReg8 k (dmaPage ring.val) (ringOff ring.val + 0x20) v.toNat c)

/-- ACK_WRITE (R319): A write to DMA_RING_ACK is taken if within range, else counted. -/
def execAckWrite (ring : Fin 4096) (v : BitVec 32) (s : State) : Out :=
  s.act (fun k c => writeReg k (dmaPage ring.val) (ringOff ring.val + 0x30) v.toNat c)

/-- PUSH_WINDOW_WRITE (R325): A write to a ring's push window loads entry bytes or is discarded; a read returns all-ones. -/
def execPushWindowWrite (addr : Fin 1048576) (a : PushAccess) (s : State) : Out :=
  s.act (fun _ c => match a with
    | .write bytes => pushWrite addr.val bytes c
    | .read n => pushRead n c)

/-- ENTRY_FETCH (R316): A fetch of ring entries from host memory completes. -/
def execEntryFetch (ring : Fin 4096) (entries : List (List Byte)) (s : State) : Out :=
  s.onCx (ringCx ring.val) (fun k c => entryFetch k ring.val entries c)

/-- HOST_READ_ERROR (R50): A failed read completion completes the entry with DMA_ERROR. -/
def execHostReadError (target : ReadTarget) (timeout : Bool) (s : State) : Out :=
  s.act (fun k c => readFailed k target timeout c)

/-- HOST_WRITE_ERROR (R50): an undeliverable write is counted in CPX_HOST_ERR_CNT. -/
def execHostWriteError (x : Cx) (entry : Option (Fin 4096 × Nat)) (s : State) : Out :=
  s.onCx x (fun k c => writeError k x (entry.map (fun e => (e.1.val, e.2))) c)

/-- TX_JOB_START (R328): A TX job is read into the staging store when room allows. -/
def execTxJobStart (ring : Fin 4096) (data : List Byte) (s : State) : Out :=
  s.onCx (ringCx ring.val) (fun k c => txJobStart k ring.val data c)

/-- CORE_INJECT (R328): A core job's frame enters its PG dispatch queue in free segments. -/
def execCoreInject (pg : Fin 64) (s : State) : Out := s.onCx (cxOfPg pg) (fun k c => coreInject k pg c)

/-- RX_FRAME_WRITE (R331): A slow-path frame is written to posted RX entries. -/
def execRxFrameWrite (ring : Fin 4096) (s : State) : Out := s.onCx (ringCx ring.val) (fun k c => rxWrite k ring.val c)

/-- RX_HOLD_EXPIRY (R331): A frame unwritten after HOLD turns is dropped. -/
def execRxHoldExpiry (ring : Fin 4096) (s : State) : Out :=
  s.onCx (ringCx ring.val) (fun k c => rxExpire k ring.val c)

/-- NOTIFY_AGE (R319): AGE turn boundaries pass since ACK changed and the notify condition holds. -/
def execNotifyAge (ring : Fin 4096) (s : State) : Out := s.onCx (ringCx ring.val) (fun k c => notifyAge k ring.val c)

/-- CMD_WRITE (R335): A CMD job writes COUNT rows as window WRITEs. -/
def execCmdWrite (ring : Fin 4096) (entry : SesData) (s : State) : Out :=
  s.onCx (ringCx ring.val) (fun k => cmdRun k ring.val entry.later (cmdWrite k ring.val entry.data))

/-- CMD_INVALIDATE (R335): A CMD job invalidates COUNT rows. -/
def execCmdInvalidate (j : CmdJob) (s : State) : Out :=
  s.onCx (ringCx j.ring.val) (fun k => cmdRun k j.ring.val j.later (cmdInvalidate k j.ring.val))

/-- CMD_READ (R335): A CMD job reads COUNT rows to host memory. -/
def execCmdRead (j : CmdJob) (errs : List (Nat × EccErr)) (s : State) : Out :=
  s.onCx (ringCx j.ring.val) (fun k => cmdRun k j.ring.val j.later (cmdRead k j.ring.val errs))

/-- SES_INSERT (R335): A CMD entry inserts a session entry in the job's batch. -/
def execSesInsert (ring : Fin 4096) (entry : SesData) (s : State) : Out :=
  s.onCx (ringCx ring.val) (fun k => cmdRun k ring.val (entry.data :: entry.later) (sesChange k ring.val 4 entry.data))

/-- SES_DELETE (R335): A CMD entry marks a session entry for deletion in the batch. -/
def execSesDelete (ring : Fin 4096) (entry : SesData) (s : State) : Out :=
  s.onCx (ringCx ring.val) (fun k => cmdRun k ring.val (entry.data :: entry.later) (sesChange k ring.val 5 entry.data))

/-- SES_FIND (R335): A CMD entry finds a session entry's index. -/
def execSesFind (ring : Fin 4096) (entry : SesData) (s : State) : Out :=
  s.onCx (ringCx ring.val) (fun k => cmdRun k ring.val (entry.data :: entry.later) (sesDirect k ring.val 6 entry.data))

/-- SES_UPDATE (R335): A CMD entry updates a session entry at once. -/
def execSesUpdate (ring : Fin 4096) (entry : SesData) (s : State) : Out :=
  s.onCx (ringCx ring.val) (fun k => cmdRun k ring.val (entry.data :: entry.later) (sesDirect k ring.val 7 entry.data))

/-- CMD_SWAP (R335): A CMD SWAP waits while DRAINING, then writes SLC_GEN_NEXT and SWAP. -/
def execCmdSwap (j : CmdJob) (s : State) : Out :=
  s.onCx (ringCx j.ring.val) (fun k => cmdRun k j.ring.val j.later (cmdSwap k j.ring.val))

end Sys2Proof.Machine
end

