-- ==== Sys2Proof/Machine/CmdIcu.lean ====
section
/-!
DEFINITION. Meanings. The interrupt controller, STANDBY and the Pilot (R343 to R361).
-/
namespace Sys2Proof.Machine

/-- SOURCE_LEVEL_CHANGE (R344): A source's level changes, making it PENDING or IDLE. -/
def execSourceLevelChange (n : Fin 1024) (s : State) : Out := s.act (fun k c => levelChange k n.val c)

/-- ICU_CLAIM (R347): A CLAIM read returns and claims the lowest eligible source. -/
def execIcuClaim (t : Fin 8) (s : State) : Out := s.act (fun k c => readReg4 k .icu (0x204 + 0x20 * t.val) c)

/-- ICU_COMPLETE (R349): A COMPLETE write ends a claim, starts the group's hold-off and re-samples. -/
def execIcuComplete (t : Fin 8) (n : BitVec 16) (s : State) : Out :=
  s.act (fun k c => writeReg k .icu (0x208 + 0x20 * t.val) n.toNat c)

/-- LINE_REASSERT (R53): after at least 4 clocks low following COMPLETE the line reasserts if a source is eligible. -/
def execLineReassert (t : Fin 8) (s : State) : Out := s.act (fun k c => lineReassert k t.val c)

/-- HOLDOFF_EXPIRY (R352): A group's hold-off timer reaches zero and its sources become eligible. -/
def execHoldoffExpiry (g : Fin 64) (s : State) : Out := s.act (fun k c => holdoffExpiry k g.val c)

/-- STANDBY_ENTRY (R355): the chip power-gates a complex into STANDBY with retention. -/
def execStandbyEntry (x : Cx) (s : State) : Out := s.act (fun k c => standbyEntry k x c)

/-- PILOT_ARM (R356): ARM set arms the Pilot, waking at once if a watched level is high. -/
def execPilotArm (s : State) : Out := s.act (fun k c => writeReg k .pil 0x040 1 c)

/-- PILOT_WAKE (R356): A watched level high makes a wake event, lowering WAKE_N and asking to power complexes up. -/
def execPilotWake (s : State) : Out := s.act (fun k c => pilotWake k c)

/-- PILOT_IDLE (R357): no complex in STANDBY and PIL_EVENT zero; WAKE_N rises and STATE returns to IDLE. -/
def execPilotIdle (s : State) : Out := s.act (fun _ c => pilotIdle c)

/-- COMPLEX_RESUME (R358): the chip reports a complex powered and its state is restored from retention. -/
def execComplexResume (x : Cx) (s : State) : Out := s.act (fun k c => complexResume k x c)

end Sys2Proof.Machine
end

