-- ==== Sys2Proof/Machine/CmdJournal.lean ====
section
/-!
DEFINITION. Meanings. The journal, its seals and keys (R288 to R310, R333).
-/
namespace Sys2Proof.Machine

/-- The oldest closed range is sealed; its SEAL record waits behind earlier events, or for a place (R298, R303). -/
def sealOldest (k : Clk) (x : Cx) (c : Chip) : Chip :=
  let j := Chip.jrnOf c x
  if j.closed.isEmpty || j.events.contains .sealOne || j.events.contains .seal then c else jrnRaise k x [.sealOne] c

/-- The buffer being filled completes at the first turn boundary after its first record (R333).
Assumption 81 (DEDUCED, unsafe). -/
def bufferTimeout (k : Clk) (r : Nat) (c : Chip) : Chip :=
  match Chip.ring c r with
  | some g => if g.kind = 3 ∧ 0 < g.fill ∧ g.fillT < k.turn then jrnClose k (ringCx r) r c else c
  | none => c

/-- RANGE_CLOSE (R301): A journal range closes at SPAN 1,024, a slip epoch, or STOP. -/
def execRangeClose (x : Cx) (s : State) : Out := s.onCx x (fun k c => jrnDrain k x c)

/-- RESERVED_PLACE_FREE (R298): A reserved buffer place frees and a waiting record or close is formed. -/
def execReservedPlaceFree (x : Cx) (s : State) : Out := s.onCx x (fun k c => jrnDrain k x c)

/-- SEAL_RECORD (R303): the seal engine completes a range's CMAC and forms its SEAL record. -/
def execSealRecord (x : Cx) (s : State) : Out := s.onCx x (fun k c => jrnDrain k x (sealOldest k x c))

/-- JOURNAL_WRITE (R300): the writer takes records in sequence order into JRN ring buffers. -/
def execJournalWrite (x : Cx) (n : Nat) (s : State) : Out := s.onCx x (fun k c => jrnWriteFrom k x n c)

/-- KEY_LOAD (R305): LOAD copies SEL_KEY_DATA into the named slot and zeroes the data, or is rejected. -/
def execKeyLoad (slot : Fin 4) (s : State) : Out := s.act (fun k c => writeReg k .sel 0x060 (slot.val + 0x100) c)

/-- KEY_LOAD_DONE (R305): A key load completes; VALID and the key check value are set. -/
def execKeyLoadDone (s : State) : Out := s.act (fun _ c => keyDone c)

/-- ZEROIZE (R305): ZEROIZE clears the named key slot, VALID and KCV. -/
def execZeroize (slot : Fin 4) (s : State) : Out := s.act (fun k c => writeReg k .sel 0x060 (slot.val + 0x200) c)

/-- JRN_BUFFER_TIMEOUT (R333): A partly filled JRN buffer completes at the next turn boundary. -/
def execJrnBufferTimeout (ring : Fin 4096) (s : State) : Out :=
  s.onCx (ringCx ring.val) (fun k c => bufferTimeout k ring.val c)

end Sys2Proof.Machine
end

