-- ==== Sys2Proof/Machine/CmdLinks.lean ====
section
/-!
DEFINITION. Meanings. Breakout, link bring-up and loss, dormant ports (R85 to R100).
-/
namespace Sys2Proof.Machine

/-- PGR_BREAKOUT_WRITE (R85): A write to PGR_BREAKOUT is checked for alignment and staged if valid. -/
def execPgrBreakoutWrite (g : Fin 64) (v : BitVec 32) (s : State) : Out :=
  s.act (fun k c => writeReg k (pgrPage g) 0x040 v.toNat c)

/-- AN_COMPLETE (R89): clause 73 auto-negotiation completes; the port sets AN_DONE and moves to TRAIN or ALIGN, or
fails to BACKOFF. -/
def execAnComplete (port : Fin 512) (lp : BitVec 64) (hcd : Fin 16) (s : State) : Out :=
  s.onCx (cxOf port) (fun k c => anComplete k port lp.toNat hcd.val c)

/-- TRAIN_COMPLETE (R89): training completes on every lane and the lanes are released to continuous adaptation. -/
def execTrainComplete (port : Fin 512) (s : State) : Out := s.onCx (cxOf port) (fun _ c => trainComplete port c)

/-- ALIGN_LOCK (R92): every lane locks and deskew is within limit; skew is recorded and the port goes UP with LINK_UP.
-/
def execAlignLock (port : Fin 512) (skews : List (Nat × Nat)) (s : State) : Out :=
  s.onCx (cxOf port) (fun k c => alignLock k port skews c)

/-- ATTEMPT_TIMER_EXPIRY (R90): the 500 ms attempt timer expires; the attempt fails and the port enters BACKOFF. -/
def execAttemptTimerExpiry (port : Fin 512) (s : State) : Out :=
  s.onCx (cxOf port) (fun k c => attemptExpiry k port c)

/-- BACKOFF_EXPIRY (R90): the back-off time expires and the port starts a new attempt. -/
def execBackoffExpiry (port : Fin 512) (s : State) : Out := s.onCx (cxOf port) (fun k c => backoffExpiry k port c)

/-- RETRY (R89): RETRY written in AN, TRAIN, ALIGN or BACKOFF resets BACKOFF_STEP and starts an attempt at once. -/
def execRetry (port : Fin 512) (s : State) : Out := s.act (fun k c => writeReg k (prtPage port) 0x044 1 c)

/-- LANE_LOSS (R36, R95): signal detect, CDR lock or PCS lock drops on a lane of a port; the port takes local fault and
ends frames in progress. With `rise` it comes back instead. -/
def execLaneLoss (lane : Fin 512) (level : LaneLevel) (s : State) : Out :=
  s.onLane lane (fun k c => laneLoss k lane level.which level.rise c)

/-- REMOTE_FAULT_ONSET (R96): remote fault starts being received on an UP port; REMOTE_FAULT sets and the port sends
idle. -/
def execRemoteFaultOnset (port : Fin 512) (s : State) : Out := s.onCx (cxOf port) (fun k c => remoteFaultOn k port c)

/-- REMOTE_FAULT_CLEAR (R96): remote fault has been absent for the RS interval; REMOTE_FAULT clears and frames resume.
-/
def execRemoteFaultClear (port : Fin 512) (s : State) : Out := s.onCx (cxOf port) (fun k c => remoteFaultOff k port c)

/-- DORMANT_REQUEST (R98): DORMANT written 1 powers down the port's datapath once it is UP. -/
def execDormantRequest (port : Fin 512) (s : State) : Out := s.act (fun k c => writeReg k (prtPage port) 0x048 1 c)

/-- DORMANT_RESUME (R100): DORMANT written 0 starts the resume of a dormant port. -/
def execDormantResume (port : Fin 512) (s : State) : Out := s.act (fun k c => writeReg k (prtPage port) 0x048 0 c)

/-- DATAPATH_POWER_UP (R100): at the next turn boundary after a wake the datapath begins power-up and the port enters
WAKING. -/
def execDatapathPowerUp (port : Fin 512) (s : State) : Out := s.onCx (cxOf port) (fun k c => datapathUp k port c)

/-- WAKE_DATAPATH_READY (R100): the datapath is powered and restored; the port is UP and the WAKE cause sets. -/
def execWakeDatapathReady (port : Fin 512) (s : State) : Out := s.onCx (cxOf port) (fun k c => wakeReady k port c)

end Sys2Proof.Machine
end

