-- ==== Sys2Proof/Machine/CmdMac.lean ====
section
/-!
DEFINITION. Meanings. Frames received and sent, flow control (R104 to R127).
-/
namespace Sys2Proof.Machine

/-- RX_FRAME_START (R107): A frame's first 64 bytes are received and pass CODE and ALIGN, and the head is presented.
-/
def execRxFrameStart (port : Fin 512) (cap : RxCapture) (data : RxData) (s : State) : Out :=
  s.onRx port (fun k c => rxStart k port cap data c)

/-- RX_FRAME_END (R105): A frame's end is received; its checks conclude and it is counted good or by its first failing
cause. -/
def execRxFrameEnd (port : Fin 512) (rest : List Byte) (errs : RxErrs) (s : State) : Out :=
  s.onRx port (fun k c => rxEnd k port rest errs c)

/-- FC_TIMER_EXPIRY (R120): A flow-control timer expires and requests for its classes may be issued again. -/
def execFcTimerExpiry (port : Fin 512) (s : State) : Out := s.onCx (cxOf port) (fun k c => timerExpiry k port c)

/-- FC_TX_WRITE (R122): A write to PRT_FC_TX changes the XOFF state at once, causing a flow-control frame. -/
def execFcTxWrite (port : Fin 512) (v : BitVec 32) (s : State) : Out :=
  s.act (fun k c => writeReg k (prtPage port) 0x128 v.toNat c)

/-- FC_FRAME_SEND (R122): A flow-control frame is sent at the port's next frame boundary ahead of unrequested frames.
-/
def execFcFrameSend (port : Fin 512) (s : State) : Out := s.onCx (cxOf port) (fun k c => fcSend k port c)

/-- FC_REFRESH (R122): while a priority stays in XOFF the flow-control frame is re-sent every REFRESH quanta. -/
def execFcRefresh (port : Fin 512) (s : State) : Out := s.onCx (cxOf port) (fun k c => fcRefresh k port c)

/-- TX_UNDERRUN (R114): A byte is due at the MAC before its segment arrives; the frame is stomped and counted. -/
def execTxUnderrun (port : Fin 512) (due : Nat) (s : State) : Out :=
  s.onCx (cxOf port) (fun k c => underrun k port due c)

/-- TX_FRAME_END (R110): A transmitted frame ends, with a computed or stomped FCS, and is counted. -/
def execTxFrameEnd (port : Fin 512) (rest : List Byte) (eof : EofBits) (s : State) : Out :=
  s.onCx (cxOf port) (fun k c => txFinish k port rest eof c)

end Sys2Proof.Machine
end

