-- ==== Sys2Proof/Machine/CmdPages.lean ====
section
/-!
DEFINITION. Meanings. Register accesses, headers, commits, quiesce and table windows (R12, R28, R65 to R82).
-/
namespace Sys2Proof.Machine

/-- A write of OP to CPX_TW_CMD of a window. -/
def writeTw (k : Clk) (x : Cx) (w : Fin 64) (op : Nat) (c : Chip) : Chip :=
  access k { master := .pcie, addr := twBase x w + 8, size := 4, op := .write (BitVec.ofNat 64 op) } c

/-- REGISTER_WRITE (R12, R52): A write to a register field that has no behaviour of its own takes effect according to its
access code. `same` is an access that the other master presents in the same clock. -/
def execRegisterWrite (a : PortClock) (s : State) : Out :=
  s.act (fun k c => (accessOrder a.access a.same).foldl (fun c a => access k a c) c)

/-- HDR_GEN_WRITE (R70): A write of STAGED that differs from LIVE requests a commit and sets COMMIT_PEND. -/
def execHdrGenWrite (p : Page) (v : BitVec 32) (s : State) : Out := s.act (fun k c => writeReg k p 0x01C v.toNat c)

/-- CONFIG_COMMIT (R28): in the commit window of a turn a page copies its staged RWS fields to live, sets LIVE and the
COMMIT cause, within the per-turn budget. -/
def execConfigCommit (p : Page) (s : State) : Out := s.onPage p (fun k c => configCommit k p c)

/-- QUIESCE_REQUEST (R66): setting QUIESCE_REQ stops the unit accepting new work. -/
def execQuiesceRequest (p : Page) (s : State) : Out := s.act (fun k c => writeReg k p 0x008 (hdrCtl c p ||| 2) c)

/-- QUIESCE_DONE (R66): the unit finishes the work it held and QUIESCED sets. -/
def execQuiesceDone (p : Page) (s : State) : Out := s.onPage p (fun _ c => quiesceFinish p c)

/-- QUIESCE_RELEASE (R66): clearing QUIESCE_REQ resumes accepting work, and QUIESCED clears within one turn. -/
def execQuiesceRelease (p : Page) (s : State) : Out :=
  s.act (fun k c => writeReg k p 0x008 (setBits (hdrCtl c p) 1 1 0) c)

/-- PAGE_LOCK (R68): A write of 1 to LOCK locks the page against configuration writes. -/
def execPageLock (p : Page) (s : State) : Out := s.act (fun k c => writeReg k p 0x008 (hdrCtl c p ||| 8) c)

/-- IRQ_FORCE (R65): writing 1 to a bit of HDR_IRQ_FORCE sets the corresponding HDR_IRQ_STAT cause. -/
def execIrqForce (p : Page) (v : BitVec 32) (s : State) : Out := s.act (fun k c => writeReg k p 0x018 v.toNat c)

/-- ERR_INFO_CLEAR (R65): writing 1 to VALID of HDR_ERR_INFO clears VALID, MORE and HDR_ERR_ADDR and re-arms capture.
-/
def execErrInfoClear (p : Page) (s : State) : Out := s.act (fun k c => writeReg k p 0x020 (2 ^ 30) c)

/-- TW_READ (R80): A window READ command reads the selected row into the data buffer. -/
def execTwRead (x : Cx) (w : Fin 64) (s : State) : Out := s.act (fun k c => writeTw k x w 1 c)

/-- TW_WRITE (R81): A window WRITE command copies the buffer and writes the entry with the valid word last. -/
def execTwWrite (x : Cx) (w : Fin 64) (s : State) : Out := s.act (fun k c => writeTw k x w 2 c)

/-- TW_INVALIDATE (R81): A window INVALIDATE command writes the row's valid bit to 0 in one clock. -/
def execTwInvalidate (x : Cx) (w : Fin 64) (s : State) : Out := s.act (fun k c => writeTw k x w 3 c)

/-- TW_BAD_OP (R79): A window command with OP 0 or 4 to 7 completes at once with status BAD_OP. -/
def execTwBadOp (x : Cx) (w : Fin 64) (op : Fin 8) (s : State) : Out :=
  s.act (fun k c => if op.val ∈ [1, 2, 3] then c else writeTw k x w op.val c)

/-- TW_CMD_COMPLETE (R80): A window command completes, clears BUSY and reports its status, advancing ROW under
AUTO_INC on OK. -/
def execTwCmdComplete (x : Cx) (w : Fin 64) (ecc : Option EccErr) (s : State) : Out :=
  s.onCx x (fun k c => twDone k x w ecc c)

end Sys2Proof.Machine
end

