-- ==== Sys2Proof/Machine/CmdPair.lean ====
section
/-!
DEFINITION. Meanings. The Saggar pair and its witness (R371 to R400).
-/
namespace Sys2Proof.Machine

/-- HEARTBEAT_SEND (R384): at clock 64 of each turn a HEARTBEAT is sent on every up lane. -/
def execHeartbeatSend (ahead : List (Nat × Nat)) (s : State) : Out := s.onPair (fun k c => heartbeatSend k ahead c)

/-- HEARTBEAT_RX (R384): A heartbeat is received and validated. -/
def execHeartbeatRx (cap : RxCapture) (bytes : List Byte) (s : State) : Out :=
  s.onPair (fun k c => heartbeatRx k cap bytes c)

/-- HEARTBEAT_MISS (R385): no valid heartbeat for T_miss: partner or link loss is recognised. -/
def execHeartbeatMiss (s : State) : Out := s.onPair (fun k c => heartbeatMiss k c)

/-- SLIP_DATA_SEND (R388): the active sends owed slip blocks in SLIP_DATA frames. -/
def execSlipDataSend (n : Fin 129) (s : State) : Out := s.onPair (fun k c => slipSend k n c)

/-- SLIP_EPOCH_CLOSE (R388): at the next epoch's first turn SLIP_CLOSE is sent with BLOCKS and CHECK. -/
def execSlipEpochClose (s : State) : Out := s.onPair (fun k c => slipClose k c)

/-- SLIP_DATA_RX (R389): A standby stores received slip blocks in its buffer. -/
def execSlipDataRx (bytes : List Byte) (s : State) : Out := s.onPair (fun _ c => slipDataRx bytes c)

/-- SLIP_CLOSE_RX (R389): A SLIP_CLOSE is checked and the epoch accepted or discarded. -/
def execSlipCloseRx (bytes : List Byte) (s : State) : Out := s.onPair (fun _ c => slipCloseRx bytes c)

/-- SLIP_APPLY (R390): an accepted epoch is applied entry by entry with merge rules. -/
def execSlipApply (s : State) : Out := s.onPair (fun k c => slipApply k c)

/-- CLAIM (R380): CLAIM in STANDBY sends a claim to the witness and enters CLAIMING. -/
def execClaim (s : State) : Out := s.act (fun k c => writeReg k .sag 0x064 1 c)

/-- RELEASE (R380): RELEASE in ACTIVE demotes and sends RELEASE. -/
def execRelease (s : State) : Out := s.act (fun k c => writeReg k .sag 0x064 2 c)

/-- QUERY (R380): QUERY sends a query to the witness. -/
def execQuery (s : State) : Out := s.act (fun k c => writeReg k .sag 0x064 4 c)

/-- CLAIM_REPEAT (R380): an unanswered CLAIM is repeated every 16 turns. -/
def execClaimRepeat (s : State) : Out := s.onPair (fun k c => claimRepeat k c)

/-- QUERY_REPEAT (R385): while the link is lost QUERY is sent every 16 turns. -/
def execQueryRepeat (s : State) : Out := s.onPair (fun k c => queryRepeat k c)

/-- RENEW_SEND (R381): an ACTIVE chip sends RENEW at each turn that is a multiple of 16. -/
def execRenewSend (s : State) : Out := s.onPair (fun k c => renewSend k c)

/-- GRANT (R380): A GRANT adopts NEW_EPOCH, sets or extends the lease. -/
def execGrant (port : Fin 512) (bytes : List Byte) (s : State) : Out := s.onPair (fun k c => pairGrant k port bytes c)

/-- DENY (R380): A DENY adopts NEW_EPOCH, clears SYNC and returns to STANDBY. -/
def execDeny (port : Fin 512) (bytes : List Byte) (s : State) : Out := s.onPair (fun _ c => pairDeny port bytes c)

/-- STATUS (R380): A STATUS adopts NEW_EPOCH; VACANT is a claim condition. -/
def execStatus (port : Fin 512) (bytes : List Byte) (s : State) : Out :=
  s.onPair (fun k c => pairStatus k port bytes c)

/-- DEPOSE (R380): A DEPOSE adopts NEW_EPOCH and demotes an ACTIVE chip. -/
def execDepose (port : Fin 512) (bytes : List Byte) (s : State) : Out :=
  s.onPair (fun k c => pairDepose k port bytes c)

/-- LEASE_EXPIRY (R380): the lease end passes; the chip loses the lease. -/
def execLeaseExpiry (s : State) : Out := s.onPair (fun k c => leaseExpiry k c)

/-- WITNESS_TIMEOUT (R381): A request unanswered in 32 turns counts, four in a row set WIT_FAIL. -/
def execWitnessTimeout (s : State) : Out := s.onPair (fun k c => witTimeout k c)

/-- SILENCE_UNSYNC (R392): heartbeats absent 256 turns without a GRANT clear SYNC. -/
def execSilenceUnsync (s : State) : Out := s.onPair (fun k c => silenceUnsync k c)

/-- WITNESS_CLAIM_RX (R382): A serving witness receives CLAIM and grants or holds it. -/
def execWitnessClaimRx (port : Fin 512) (bytes : List Byte) (s : State) : Out :=
  s.onPair (fun k c => witnessRx k port bytes 0x10 c)

/-- WITNESS_RENEW_RX (R382): A serving witness receives RENEW and grants or deposes. -/
def execWitnessRenewRx (port : Fin 512) (bytes : List Byte) (s : State) : Out :=
  s.onPair (fun k c => witnessRx k port bytes 0x11 c)

/-- WITNESS_RELEASE_RX (R382): A serving witness receives RELEASE and clears HOLDER. -/
def execWitnessReleaseRx (port : Fin 512) (bytes : List Byte) (s : State) : Out :=
  s.onPair (fun k c => witnessRx k port bytes 0x12 c)

/-- WITNESS_QUERY_RX (R382): A serving witness answers QUERY with STATUS. -/
def execWitnessQueryRx (port : Fin 512) (bytes : List Byte) (s : State) : Out :=
  s.onPair (fun k c => witnessRx k port bytes 0x13 c)

/-- WITNESS_HELD_GRANT (R382): at LAST + L a held claim is granted. -/
def execWitnessHeldGrant (row : Fin 16) (s : State) : Out := s.onPair (fun k c => witHeldGrant k row c)

/-- PAIR_HB_IN_EDGE (R385): an edge on PAIR_HB_IN from the partner renews PIN_ALIVE and the pin liveness that
separates pair link loss from partner loss. -/
def execPairHbInEdge (s : State) : Out := s.onPair (fun k c => pinEdge k c)

end Sys2Proof.Machine
end

