-- ==== Sys2Proof/Machine/CmdParse.lean ====
section
/-!
DEFINITION. Meanings. Dispatch, generations, recirculation and reorder (R176 to R217).
-/
namespace Sys2Proof.Machine

/-- DISPATCH (R176): A head is assigned to a parse engine and runs parse, bisque and slice lookups. -/
def execDispatch (heads : SliceHeads) (s : State) : Out :=
  s.onCx (cxOfSlice heads.slice) (fun k c => dispatch k heads.slice heads.errs c)

/-- PARSE_BYTES_ARRIVE (R107, R178): more bytes of the frame in progress at a port are received; an engine waiting for
them resumes its walk. -/
def execParseBytesArrive (port : Fin 512) (chunk : RxChunk) (s : State) : Out :=
  s.onRx port (fun k c => rxBytes k port chunk c)

/-- RECIRC_REENTRY (R212): A frame in the recirculation queue re-enters in free segments and dispatch for its glaze
pass. -/
def execRecircReentry (pg : Fin 64) (s : State) : Out := s.onCx (cxOfPg pg) (fun _ c => reenter pg c)

/-- ENG_MASK_WRITE (R177): A write to PRS_ENG_MASK enabling fewer than 13 engines is discarded and sets ENG_REFUSED.
-/
def execEngMaskWrite (slice : Fin 8) (v : BitVec 32) (s : State) : Out :=
  s.act (fun k c => writeReg k (prsPage slice) 0x044 v.toNat c)

/-- SWAP (R185): SWAP makes SLC_GEN_NEXT live and the old record draining. -/
def execSwap (slice : Fin 8) (s : State) : Out := s.act (fun k c => writeReg k (slcPage slice) 0x04C 1 c)

/-- SWAP_DONE (R187): the draining in-flight count reaches zero; DRAINING clears and SWAP_DONE sets. -/
def execSwapDone (slice : Fin 8) (s : State) : Out := s.onCx (cxOfSlice slice) (fun _ c => swapDone slice c)

/-- REORDER_RELEASE (R198): the reorder buffer frees gone places and releases ready frames in rank order. -/
def execReorderRelease (pg : Fin 64) (s : State) : Out := s.onCx (cxOfPg pg) (fun k c => reorder k pg c)

/-- REORDER_TIMEOUT (R199): A pending place older than TIMEOUT expires and the frames behind it are released. -/
def execReorderTimeout (pg : Fin 64) (s : State) : Out := s.onCx (cxOfPg pg) (fun k c => reorder k pg c)

end Sys2Proof.Machine
end

