-- ==== Sys2Proof/Machine/CmdSched.lean ====
section
/-!
DEFINITION. Meanings. Notices, decisions, stage 3, the wheel, door release and telemetry (R255 to R287).
-/
namespace Sys2Proof.Machine

/-- ENQUEUE_NOTICE (R43): an enqueue notice adds a copy to a queue's depth and notice store. -/
def execEnqueueNotice (x : Cx) (queue : Fin 65536) (len : Fin 16384) (colour : Fin 4) (s : State) : Out :=
  s.onCx x (fun k c => enqueue k x queue len.val colour.val (meet k 3 (noticeReads x queue.val) c))

/-- DEQUEUE_DECISION (R272): the scheduler chooses a queue on a port and charges and reschedules its nodes. -/
def execDequeueDecision (port : Fin 512) (s : State) : Out := s.onCx (cxOf port) (fun k c => decide1 k port (meet k 3 (decisionReads port) c))

/-- DEQUEUE_RESPONSE (R45): the buffer's first segment for a request arrives and is staged. -/
def execDequeueResponse (x : Cx) (tag : Fin 1024) (resp : DeqResponse) (s : State) : Out :=
  s.onCx x (fun k c => response k x tag.val resp c)

/-- EGRESS_EDIT (R173): at stage 3 the frame is edited, stamped and passed to the MAC. -/
def execEgressEdit (port : Fin 512) (input : EditInput) (s : State) : Out :=
  s.onCx (cxOf port) (fun k c => edit k port input c)

/-- WHEEL_SLOT_FIRE (R265): A fine wheel slot's time comes and its entries become eligible. -/
def execWheelSlotFire (x : Cx) (s : State) : Out := s.onCx x (fun k c => wheelFire k x c)

/-- WHEEL_MAINTENANCE (R266): each turn up to 2,048 entries move from the coarse to the fine wheel. -/
def execWheelMaintenance (x : Cx) (s : State) : Out := s.onCx x (fun k c => wheelMaintain k x c)

/-- ARM (R274): ARM sets a release group's CUR or NEXT time, or is rejected. -/
def execArm (x : Cx) (s : State) : Out := s.act (fun k c => writeReg k (dorPage x) 0x060 1 c)

/-- CANCEL (R281): CANCEL empties NEXT and clears CUR if no member has been decided. -/
def execCancel (x : Cx) (s : State) : Out := s.act (fun k c => writeReg k (dorPage x) 0x060 2 c)

/-- RELEASE_DECISION (R275): A member queue's release copy is decided at the clock placing its first symbol at the
instant. -/
def execReleaseDecision (x : Cx) (queue : Fin 65536) (group : Fin 1024) (s : State) : Out :=
  s.onCx x (fun k c => Chip.onlyIf c (decide (qGroup c (65536 * x.val + queue.val) = some group.val))
    (fun c => releaseDecision k (65536 * x.val + queue.val) (meet k 3 (releaseReads x queue.val group.val) c)))

/-- RELEASE_END (R280): A release ends when BOUND copies are decided or the window expires; misses are handled and
NEXT taken. -/
def execReleaseEnd (group : Fin 1024) (s : State) : Out :=
  s.onCx (groupCx group.val) (fun k c => releaseEnd k group.val (meetRows k 3 (dorPage (groupCx group.val)) 0 [group.val % 512] c))

/-- TELEMETRY_SAMPLE (R282): each turn 64 queues are sampled into TEL table 0x00. -/
def execTelemetrySample (x : Cx) (s : State) : Out := s.onCx x (fun k c => telemetrySample k x c)

/-- DOR_COMMAND_REACHED (R273): an ARM or CANCEL reaches both complexes within 8 clocks, the other complex takes the
armed time, and DOR_ARM_STAT BUSY clears. -/
def execDorCommandReached (x : Cx) (s : State) : Out := s.onCx x (fun _ c => armReached x c)

end Sys2Proof.Machine
end

