-- ==== Sys2Proof/Machine/CmdSessions.lean ====
section
/-!
DEFINITION. Meanings. Sessions, streams and meters (R218 to R254, R374).
-/
namespace Sys2Proof.Machine

/-- SESSION_LOOKUP (R225): stage 8 requests a session lookup, checks and updates the entry, then runs stage 9. -/
def execSessionLookup (x : Cx) (frames : List Nat) (errs : List LookupErr) (s : State) : Out :=
  s.onCx x (fun k c => sessionClock k x frames errs c)

/-- KOP_INSERT (R231): INSERT places a new session entry, moving or evicting entries if needed. -/
def execKopInsert (x : Cx) (evict : Bool) (s : State) : Out :=
  s.act (fun k c => writeReg k (sesPage x) 0x13C (1 + 8 * b2n evict) c)

/-- KOP_DELETE (R231): DELETE invalidates the entry with the given key and profile. -/
def execKopDelete (x : Cx) (s : State) : Out := s.act (fun k c => writeReg k (sesPage x) 0x13C 2 c)

/-- KOP_FIND (R231): FIND returns the index of the entry with the given key and profile. -/
def execKopFind (x : Cx) (s : State) : Out := s.act (fun k c => writeReg k (sesPage x) 0x13C 3 c)

/-- KOP_UPDATE (R231): UPDATE rewrites CONTROL, EXP_SEQ, METER and STREAM of an entry. -/
def execKopUpdate (x : Cx) (s : State) : Out := s.act (fun k c => writeReg k (sesPage x) 0x13C 4 c)

/-- KOP_BAD_OP (R239): A keyed operation code 0 or 5 to 7 completes at once with BAD_OP. -/
def execKopBadOp (x : Cx) (op : Fin 8) (s : State) : Out :=
  s.act (fun k c => if op.val ∈ [1, 2, 3, 4] then c else writeReg k (sesPage x) 0x13C op.val c)

/-- KOP_COMPLETE (R233): A keyed operation completes, sets KOP_DONE and reports status and index. -/
def execKopComplete (x : Cx) (s : State) : Out := s.onCx x (fun k c => kopComplete k x c)

/-- LEARN_INSERT (R235): the insertion engine takes a learn key and inserts it. -/
def execLearnInsert (x : Cx) (s : State) : Out := s.onCx x (fun k c => learnInsert k x c)

/-- BATCH_CLEANUP_DONE (R236): the rewrite of a committed batch ends, clearing its LIVE and BUSY bits. -/
def execBatchCleanupDone (x : Cx) (batch : Fin 4) (s : State) : Out := s.onCx x (fun k c => cleanBatch k x batch.val c)

/-- STREAM_RESET_TIMER (R374): RESET ms without a passed frame sets TAKE_ANY for a recovery stream. -/
def execStreamResetTimer (stream : Fin 16384) (s : State) : Out := s.act (fun k c => streamTimeout k stream.val c)

/-- MODIFY (R250): MODIFY refills a valid meter and installs new rates and sizes keeping its buckets. -/
def execModify (x : Cx) (s : State) : Out := s.act (fun k c => writeReg k (mtrPage x) 0x05C 1 c)

/-- MODIFY_COMPLETE (R250): A MODIFY completes with its status and MOD_DONE sets. -/
def execModifyComplete (x : Cx) (s : State) : Out := s.onCx x (fun _ c => modDone x c)

end Sys2Proof.Machine
end

