-- ==== Sys2Proof/Machine/CmdSweep.lean ====
section
/-!
DEFINITION. Meanings. The Sweep (R423 to R437).
-/
namespace Sys2Proof.Machine

/-- SWEEP_START (R435): START requests a pass at the next turn boundary. -/
def execSweepStart (x : Cx) (s : State) : Out := s.act (fun k c => writeReg k (swpPage x) 0x044 1 c)

/-- SWEEP_STOP (R435): STOP ends the running pass or waiting state. -/
def execSweepStop (x : Cx) (s : State) : Out := s.act (fun k c => writeReg k (swpPage x) 0x044 2 c)

/-- SWEEP_PASS_START (R426): A pass starts, copying and checking the sweep list. -/
def execSweepPassStart (x : Cx) (s : State) : Out := s.onCx x (fun k c => sweepPassStart k x c)

/-- SWEEP_CHUNK (R429): A chunk's slices are read and written with its header. -/
def execSweepChunk (x : Cx) (errs : List (Nat × EccErr)) (s : State) : Out :=
  s.onCx x (fun k c => sweepChunk k x errs c)

/-- SWEEP_PASS_RECORD (R432): the pass record is written and the pass ends. -/
def execSweepPassRecord (x : Cx) (s : State) : Out := s.onCx x (fun k c => sweepRecord k x c)

end Sys2Proof.Machine
end

