-- ==== Sys2Proof/Machine/CmdTime.lean ====
section
/-!
DEFINITION. Meanings. Chip time, the timebase, the calibration store and probes (R128 to R154, R174).
-/
namespace Sys2Proof.Machine

/-- SNAP (R154): SNAP copies chip time, turn number and clock into the snapshot registers. -/
def execSnap (s : State) : Out := s.act (fun k c => writeReg k .tim 0x048 1 c)

/-- LOAD_INCR (R132): LOAD_INCR schedules TIM_INCR_NEXT as the live increment at turn t + 16. -/
def execLoadIncr (s : State) : Out := s.act (fun k c => writeReg k .tim 0x048 2 c)

/-- STEP (R132): STEP schedules adding TIM_STEP to chip time at turn t + 16. -/
def execStep (s : State) : Out := s.act (fun k c => writeReg k .tim 0x048 4 c)

/-- SET (R132): SET schedules loading chip time from TIM_SET_SEC and TIM_SET_NSF at turn t + 16. -/
def execSet (s : State) : Out := s.act (fun k c => writeReg k .tim 0x048 8 c)

/-- TIME_ADJUST_APPLY (R132): at clock 0 of turn t + 16 the pending adjustment is applied and ADJ_DONE sets.
Assumption 96 (DEDUCED, unsafe). -/
def execTimeAdjustApply (s : State) : Out := s.actClk (fun k c => if k.clock = 0 then applyAdjust k c else (k, c))

/-- PPS_IN_EDGE (R135): A rising PPS_IN edge is captured, corrected, accepted or discarded as spurious, and paired
with TOD. -/
def execPpsInEdge (sub : Fin 16) (s : State) : Out := s.act (fun k c => doPpsIn k sub.val c)

/-- PPS_IN_MISS (R135): no edge accepted within 1,100 ms, then each further 1,000 ms, counts a miss and sets PPS_MISS.
-/
def execPpsInMiss (s : State) : Out := s.act (fun k c => doPpsMiss k c)

/-- PPS_OUT_EDGE (R136): chip time passes a whole second and PPS_OUT rises. -/
def execPpsOutEdge (s : State) : Out := s.act (fun k c => doPpsOutEdge k c)

/-- PPS_OUT_FALL (R136): WIDTH µs after rising, PPS_OUT falls. -/
def execPpsOutFall (s : State) : Out := s.act (fun k c => doPpsOutFall k c)

/-- TOD_OUT_MESSAGE (R138): at each second plus 500 ms a TOD message naming the next second is sent on TOD_OUT. -/
def execTodOutMessage (s : State) : Out := s.act (fun k c => doTodOut k c)

/-- TOD_IN_MESSAGE (R139): A TOD_IN message is received, validated and copied, or counted as invalid. -/
def execTodInMessage (bytes : List Byte) (framed : Bool) (s : State) : Out :=
  s.act (fun k c => doTodIn k bytes framed c)

/-- TOD_PAIR_WINDOW_END (R139): A valid TOD message finds no PPS edge in its window and counts as unpaired. -/
def execTodPairWindowEnd (s : State) : Out := s.act (fun k c => doTodWindowEnd k c)

/-- SERVO_OFFSET_WRITE (R140): A write to TIM_SRV_OFFSET under SRC 2 makes one offset report. -/
def execServoOffsetWrite (v : Word) (s : State) : Out := s.act (fun k c => writeReg8 k .tim 0x0B8 v.toNat c)

/-- TIME_SILENCE (R141): no report for LOSS_TIMEOUT in LOCKED moves the time state to HOLDOVER with TIME_LOST. -/
def execTimeSilence (s : State) : Out := s.act (fun k c => doSilence k c)

/-- HOLDOVER_EXPIRY (R141): the holdover timer reaches HOLDOVER_LIMIT and the state becomes FREE_RUN. -/
def execHoldoverExpiry (s : State) : Out := s.act (fun k c => doHoldoverEnd k c)

/-- REF_WINDOW_END (R144): at the end of a 2^20-turn window the reference cycle count is written to TIM_REF_COUNT. -/
def execRefWindowEnd (count : BitVec 32) (s : State) : Out := s.act (fun k c => doRefWindow k count.toNat c)

/-- REF_LOSS (R144): A turn with no SYNC_REF_IN edge clears REF_PRESENT, sets REF_LOSS and discards the window. -/
def execRefLoss (s : State) : Out := s.act (fun k c => doRefLoss k c)

/-- SYNCE_RESUME (R146): at the turn boundary after every squelch cause has cleared the export resumes. -/
def execSynceResume (n : Fin 2) (s : State) : Out := s.act (fun k c => synceResume k n.val c)

/-- TIM_CAL_UNLOCK_WRITE (R152): A write to TIM_CAL_UNLOCK advances the two-value unlock sequence for PROGRAM. -/
def execTimCalUnlockWrite (v : BitVec 32) (s : State) : Out := s.act (fun k c => writeReg k .tim 0x108 v.toNat c)

/-- CAL_COPY (R152): COPY copies the calibration store into the staging image. -/
def execCalCopy (s : State) : Out := s.act (fun k c => writeReg k .tim 0x100 1 c)

/-- CAL_LOAD (R152): LOAD writes the store's records to the staged copies of TIM and STP registers. -/
def execCalLoad (s : State) : Out := s.act (fun k c => writeReg k .tim 0x100 2 c)

/-- CAL_PROGRAM (R152): PROGRAM erases the store and writes the staging image, if unlocked and not worn. -/
def execCalProgram (s : State) : Out := s.act (fun k c => writeReg k .tim 0x100 3 c)

/-- CAL_OP_COMPLETE (R152): A calibration operation finishes, clears BUSY and reports its status. -/
def execCalOpComplete (s : State) : Out := s.act (fun k c => calDone k c)

/-- ARM_RX (R174): ARM_RX arms the probe to record the next received frame and clears RX_DONE. -/
def execArmRx (port : Fin 512) (s : State) : Out := s.act (fun k c => writeReg k (stpPage port) 0x04C 1 c)

/-- ARM_TX (R174): ARM_TX arms the probe to record the next egress stamp and clears TX_DONE. -/
def execArmTx (port : Fin 512) (s : State) : Out := s.act (fun k c => writeReg k (stpPage port) 0x04C 2 c)

end Sys2Proof.Machine
end

