-- ==== Sys2Proof/Machine/Dispatch.lean ====
section
/-!
DEFINITION. The one dispatch: each command to its meaning.
-/
namespace Sys2Proof.Machine

/-- Assumption 3 (DESIGN CHOICE, safe). -/
def exec (i : Instr) (s : State) : Host.Outcome State Fault Refusal :=
  match i with
  | .chipReset => Sys2Proof.Machine.execChipReset s
  | .chipInitDone x => Sys2Proof.Machine.execChipInitDone x s
  | .calPowerupLoad => Sys2Proof.Machine.execCalPowerupLoad s
  | .registerWrite a => Sys2Proof.Machine.execRegisterWrite a s
  | .hdrGenWrite p v => Sys2Proof.Machine.execHdrGenWrite p v s
  | .configCommit p => Sys2Proof.Machine.execConfigCommit p s
  | .turnBoundary peerRole => Sys2Proof.Machine.execTurnBoundary peerRole s
  | .turnMissed a => Sys2Proof.Machine.execTurnMissed a s
  | .softReset p => Sys2Proof.Machine.execSoftReset p s
  | .softResetComplex x => Sys2Proof.Machine.execSoftResetComplex x s
  | .softResetDone p => Sys2Proof.Machine.execSoftResetDone p s
  | .quiesceRequest p => Sys2Proof.Machine.execQuiesceRequest p s
  | .quiesceDone p => Sys2Proof.Machine.execQuiesceDone p s
  | .quiesceRelease p => Sys2Proof.Machine.execQuiesceRelease p s
  | .pageLock p => Sys2Proof.Machine.execPageLock p s
  | .irqForce p v => Sys2Proof.Machine.execIrqForce p v s
  | .errInfoClear p => Sys2Proof.Machine.execErrInfoClear p s
  | .twRead x w => Sys2Proof.Machine.execTwRead x w s
  | .twWrite x w => Sys2Proof.Machine.execTwWrite x w s
  | .twInvalidate x w => Sys2Proof.Machine.execTwInvalidate x w s
  | .twBadOp x w op => Sys2Proof.Machine.execTwBadOp x w op s
  | .twCmdComplete x w ecc => Sys2Proof.Machine.execTwCmdComplete x w ecc s
  | .pgrBreakoutWrite g v => Sys2Proof.Machine.execPgrBreakoutWrite g v s
  | .anComplete port lp hcd => Sys2Proof.Machine.execAnComplete port lp hcd s
  | .trainComplete port => Sys2Proof.Machine.execTrainComplete port s
  | .alignLock port skews => Sys2Proof.Machine.execAlignLock port skews s
  | .attemptTimerExpiry port => Sys2Proof.Machine.execAttemptTimerExpiry port s
  | .backoffExpiry port => Sys2Proof.Machine.execBackoffExpiry port s
  | .retry port => Sys2Proof.Machine.execRetry port s
  | .laneLoss lane level => Sys2Proof.Machine.execLaneLoss lane level s
  | .remoteFaultOnset port => Sys2Proof.Machine.execRemoteFaultOnset port s
  | .remoteFaultClear port => Sys2Proof.Machine.execRemoteFaultClear port s
  | .dormantRequest port => Sys2Proof.Machine.execDormantRequest port s
  | .dormantResume port => Sys2Proof.Machine.execDormantResume port s
  | .datapathPowerUp port => Sys2Proof.Machine.execDatapathPowerUp port s
  | .wakeDatapathReady port => Sys2Proof.Machine.execWakeDatapathReady port s
  | .rxFrameStart port cap data => Sys2Proof.Machine.execRxFrameStart port cap data s
  | .rxFrameEnd port rest errs => Sys2Proof.Machine.execRxFrameEnd port rest errs s
  | .fcTimerExpiry port => Sys2Proof.Machine.execFcTimerExpiry port s
  | .fcTxWrite port v => Sys2Proof.Machine.execFcTxWrite port v s
  | .fcFrameSend port => Sys2Proof.Machine.execFcFrameSend port s
  | .fcRefresh port => Sys2Proof.Machine.execFcRefresh port s
  | .txUnderrun port due => Sys2Proof.Machine.execTxUnderrun port due s
  | .txFrameEnd port rest eof => Sys2Proof.Machine.execTxFrameEnd port rest eof s
  | .snap => Sys2Proof.Machine.execSnap s
  | .loadIncr => Sys2Proof.Machine.execLoadIncr s
  | .step => Sys2Proof.Machine.execStep s
  | .set => Sys2Proof.Machine.execSet s
  | .timeAdjustApply => Sys2Proof.Machine.execTimeAdjustApply s
  | .ppsInEdge sub => Sys2Proof.Machine.execPpsInEdge sub s
  | .ppsInMiss => Sys2Proof.Machine.execPpsInMiss s
  | .ppsOutEdge => Sys2Proof.Machine.execPpsOutEdge s
  | .ppsOutFall => Sys2Proof.Machine.execPpsOutFall s
  | .todOutMessage => Sys2Proof.Machine.execTodOutMessage s
  | .todInMessage bytes framed => Sys2Proof.Machine.execTodInMessage bytes framed s
  | .todPairWindowEnd => Sys2Proof.Machine.execTodPairWindowEnd s
  | .servoOffsetWrite v => Sys2Proof.Machine.execServoOffsetWrite v s
  | .timeSilence => Sys2Proof.Machine.execTimeSilence s
  | .holdoverExpiry => Sys2Proof.Machine.execHoldoverExpiry s
  | .refWindowEnd count => Sys2Proof.Machine.execRefWindowEnd count s
  | .refLoss => Sys2Proof.Machine.execRefLoss s
  | .synceResume n => Sys2Proof.Machine.execSynceResume n s
  | .timCalUnlockWrite v => Sys2Proof.Machine.execTimCalUnlockWrite v s
  | .calCopy => Sys2Proof.Machine.execCalCopy s
  | .calLoad => Sys2Proof.Machine.execCalLoad s
  | .calProgram => Sys2Proof.Machine.execCalProgram s
  | .calOpComplete => Sys2Proof.Machine.execCalOpComplete s
  | .armRx port => Sys2Proof.Machine.execArmRx port s
  | .armTx port => Sys2Proof.Machine.execArmTx port s
  | .dispatch heads => Sys2Proof.Machine.execDispatch heads s
  | .parseBytesArrive port chunk => Sys2Proof.Machine.execParseBytesArrive port chunk s
  | .recircReentry pg => Sys2Proof.Machine.execRecircReentry pg s
  | .engMaskWrite slice v => Sys2Proof.Machine.execEngMaskWrite slice v s
  | .swap slice => Sys2Proof.Machine.execSwap slice s
  | .swapDone slice => Sys2Proof.Machine.execSwapDone slice s
  | .sessionLookup x frames errs => Sys2Proof.Machine.execSessionLookup x frames errs s
  | .reorderRelease pg => Sys2Proof.Machine.execReorderRelease pg s
  | .reorderTimeout pg => Sys2Proof.Machine.execReorderTimeout pg s
  | .kopInsert x evict => Sys2Proof.Machine.execKopInsert x evict s
  | .kopDelete x => Sys2Proof.Machine.execKopDelete x s
  | .kopFind x => Sys2Proof.Machine.execKopFind x s
  | .kopUpdate x => Sys2Proof.Machine.execKopUpdate x s
  | .kopBadOp x op => Sys2Proof.Machine.execKopBadOp x op s
  | .kopComplete x => Sys2Proof.Machine.execKopComplete x s
  | .learnInsert x => Sys2Proof.Machine.execLearnInsert x s
  | .batchCleanupDone x batch => Sys2Proof.Machine.execBatchCleanupDone x batch s
  | .streamResetTimer stream => Sys2Proof.Machine.execStreamResetTimer stream s
  | .modify x => Sys2Proof.Machine.execModify x s
  | .modifyComplete x => Sys2Proof.Machine.execModifyComplete x s
  | .enqueueNotice x queue len colour => Sys2Proof.Machine.execEnqueueNotice x queue len colour s
  | .dequeueDecision port => Sys2Proof.Machine.execDequeueDecision port s
  | .dequeueResponse x tag resp => Sys2Proof.Machine.execDequeueResponse x tag resp s
  | .egressEdit port input => Sys2Proof.Machine.execEgressEdit port input s
  | .wheelSlotFire x => Sys2Proof.Machine.execWheelSlotFire x s
  | .wheelMaintenance x => Sys2Proof.Machine.execWheelMaintenance x s
  | .arm x => Sys2Proof.Machine.execArm x s
  | .cancel x => Sys2Proof.Machine.execCancel x s
  | .releaseDecision x queue group => Sys2Proof.Machine.execReleaseDecision x queue group s
  | .releaseEnd group => Sys2Proof.Machine.execReleaseEnd group s
  | .telemetrySample x => Sys2Proof.Machine.execTelemetrySample x s
  | .rangeClose x => Sys2Proof.Machine.execRangeClose x s
  | .reservedPlaceFree x => Sys2Proof.Machine.execReservedPlaceFree x s
  | .sealRecord x => Sys2Proof.Machine.execSealRecord x s
  | .journalWrite x n => Sys2Proof.Machine.execJournalWrite x n s
  | .keyLoad slot => Sys2Proof.Machine.execKeyLoad slot s
  | .keyLoadDone => Sys2Proof.Machine.execKeyLoadDone s
  | .zeroize slot => Sys2Proof.Machine.execZeroize slot s
  | .funcEnable f => Sys2Proof.Machine.execFuncEnable f s
  | .funcDisable f => Sys2Proof.Machine.execFuncDisable f s
  | .funcQuiesced f => Sys2Proof.Machine.execFuncQuiesced f s
  | .ringReset ring => Sys2Proof.Machine.execRingReset ring s
  | .ringStopped ring => Sys2Proof.Machine.execRingStopped ring s
  | .doorbell ring v => Sys2Proof.Machine.execDoorbell ring v s
  | .evtDoorbell ring v => Sys2Proof.Machine.execEvtDoorbell ring v s
  | .ackWrite ring v => Sys2Proof.Machine.execAckWrite ring v s
  | .pushWindowWrite addr access => Sys2Proof.Machine.execPushWindowWrite addr access s
  | .entryFetch ring entries => Sys2Proof.Machine.execEntryFetch ring entries s
  | .hostReadError target timeout => Sys2Proof.Machine.execHostReadError target timeout s
  | .hostWriteError x entry => Sys2Proof.Machine.execHostWriteError x entry s
  | .txJobStart ring data => Sys2Proof.Machine.execTxJobStart ring data s
  | .coreInject pg => Sys2Proof.Machine.execCoreInject pg s
  | .rxFrameWrite ring => Sys2Proof.Machine.execRxFrameWrite ring s
  | .rxHoldExpiry ring => Sys2Proof.Machine.execRxHoldExpiry ring s
  | .jrnBufferTimeout ring => Sys2Proof.Machine.execJrnBufferTimeout ring s
  | .notifyAge ring => Sys2Proof.Machine.execNotifyAge ring s
  | .cmdWrite ring entry => Sys2Proof.Machine.execCmdWrite ring entry s
  | .cmdInvalidate job => Sys2Proof.Machine.execCmdInvalidate job s
  | .cmdRead job errs => Sys2Proof.Machine.execCmdRead job errs s
  | .sesInsert ring entry => Sys2Proof.Machine.execSesInsert ring entry s
  | .sesDelete ring entry => Sys2Proof.Machine.execSesDelete ring entry s
  | .sesFind ring entry => Sys2Proof.Machine.execSesFind ring entry s
  | .sesUpdate ring entry => Sys2Proof.Machine.execSesUpdate ring entry s
  | .cmdSwap job => Sys2Proof.Machine.execCmdSwap job s
  | .sourceLevelChange n => Sys2Proof.Machine.execSourceLevelChange n s
  | .icuClaim t => Sys2Proof.Machine.execIcuClaim t s
  | .icuComplete t n => Sys2Proof.Machine.execIcuComplete t n s
  | .lineReassert t => Sys2Proof.Machine.execLineReassert t s
  | .holdoffExpiry g => Sys2Proof.Machine.execHoldoffExpiry g s
  | .standbyEntry x => Sys2Proof.Machine.execStandbyEntry x s
  | .pilotArm => Sys2Proof.Machine.execPilotArm s
  | .pilotWake => Sys2Proof.Machine.execPilotWake s
  | .pilotIdle => Sys2Proof.Machine.execPilotIdle s
  | .complexResume x => Sys2Proof.Machine.execComplexResume x s
  | .init x u => Sys2Proof.Machine.execInit x u s
  | .scan x u => Sys2Proof.Machine.execScan x u s
  | .check x u => Sys2Proof.Machine.execCheck x u s
  | .chkDataFeed x u size v => Sys2Proof.Machine.execChkDataFeed x u size v s
  | .scanEnd x u data errs => Sys2Proof.Machine.execScanEnd x u data errs s
  | .heartbeatSend ahead => Sys2Proof.Machine.execHeartbeatSend ahead s
  | .heartbeatRx cap bytes => Sys2Proof.Machine.execHeartbeatRx cap bytes s
  | .heartbeatMiss => Sys2Proof.Machine.execHeartbeatMiss s
  | .slipDataSend n => Sys2Proof.Machine.execSlipDataSend n s
  | .slipEpochClose => Sys2Proof.Machine.execSlipEpochClose s
  | .slipDataRx bytes => Sys2Proof.Machine.execSlipDataRx bytes s
  | .slipCloseRx bytes => Sys2Proof.Machine.execSlipCloseRx bytes s
  | .slipApply => Sys2Proof.Machine.execSlipApply s
  | .claim => Sys2Proof.Machine.execClaim s
  | .release => Sys2Proof.Machine.execRelease s
  | .query => Sys2Proof.Machine.execQuery s
  | .claimRepeat => Sys2Proof.Machine.execClaimRepeat s
  | .queryRepeat => Sys2Proof.Machine.execQueryRepeat s
  | .renewSend => Sys2Proof.Machine.execRenewSend s
  | .grant port bytes => Sys2Proof.Machine.execGrant port bytes s
  | .deny port bytes => Sys2Proof.Machine.execDeny port bytes s
  | .status port bytes => Sys2Proof.Machine.execStatus port bytes s
  | .depose port bytes => Sys2Proof.Machine.execDepose port bytes s
  | .leaseExpiry => Sys2Proof.Machine.execLeaseExpiry s
  | .witnessTimeout => Sys2Proof.Machine.execWitnessTimeout s
  | .silenceUnsync => Sys2Proof.Machine.execSilenceUnsync s
  | .witnessClaimRx port bytes => Sys2Proof.Machine.execWitnessClaimRx port bytes s
  | .witnessRenewRx port bytes => Sys2Proof.Machine.execWitnessRenewRx port bytes s
  | .witnessReleaseRx port bytes => Sys2Proof.Machine.execWitnessReleaseRx port bytes s
  | .witnessQueryRx port bytes => Sys2Proof.Machine.execWitnessQueryRx port bytes s
  | .witnessHeldGrant row => Sys2Proof.Machine.execWitnessHeldGrant row s
  | .scrubRead p t r word ecc hard shared => Sys2Proof.Machine.execScrubRead p t r word ecc hard shared s
  | .remapDone p t r => Sys2Proof.Machine.execRemapDone p t r s
  | .engineTestStart slice engine => Sys2Proof.Machine.execEngineTestStart slice engine s
  | .engineTestAbandon slice => Sys2Proof.Machine.execEngineTestAbandon slice s
  | .engineTestEnd slice sig => Sys2Proof.Machine.execEngineTestEnd slice sig s
  | .loopbackFrame pg bad => Sys2Proof.Machine.execLoopbackFrame pg bad s
  | .distributionTrim x want => Sys2Proof.Machine.execDistributionTrim x want s
  | .fomWatch x lanes => Sys2Proof.Machine.execFomWatch x lanes s
  | .healthReport x => Sys2Proof.Machine.execHealthReport x s
  | .windowOpen x => Sys2Proof.Machine.execWindowOpen x s
  | .windowClose x => Sys2Proof.Machine.execWindowClose x s
  | .periodicWindowOpen x => Sys2Proof.Machine.execPeriodicWindowOpen x s
  | .windowEnd x => Sys2Proof.Machine.execWindowEnd x s
  | .logMarkWrite x => Sys2Proof.Machine.execLogMarkWrite x s
  | .logFreezeWrite x => Sys2Proof.Machine.execLogFreezeWrite x s
  | .sweepStart x => Sys2Proof.Machine.execSweepStart x s
  | .sweepStop x => Sys2Proof.Machine.execSweepStop x s
  | .sweepPassStart x => Sys2Proof.Machine.execSweepPassStart x s
  | .sweepChunk x errs => Sys2Proof.Machine.execSweepChunk x errs s
  | .sweepPassRecord x => Sys2Proof.Machine.execSweepPassRecord x s
  | .tempReading x v => Sys2Proof.Machine.execTempReading x v s
  | .chipPowerDown => Sys2Proof.Machine.execChipPowerDown s
  | .pairHbInEdge => Sys2Proof.Machine.execPairHbInEdge s
  | .dorCommandReached x => Sys2Proof.Machine.execDorCommandReached x s
  | .chkFeedDone x u => Sys2Proof.Machine.execChkFeedDone x u s

end Sys2Proof.Machine
end

