-- ==== Sys2Proof/Safety.lean ====
section
/-!
DEFINITION. What counts as a sound state and a safe run, and what a command leaves alone, in the terms the statements use.
-/
namespace Sys2Proof.Machine

/-- Chip time and the clock within the turn are in range: a turn has 1,600 clocks (R23), nanoseconds stay below one
second, seconds wrap at 2^48 and the fraction below a nanosecond has 48 bits (R128, R129). -/
structure Clk.Ok (k : Clk) : Prop where
  clock : k.clock < 1600
  sec   : k.sec < 2 ^ 48
  ns    : k.ns < 1000000000
  frac  : k.frac < 2 ^ 48

/-- Chip time as one count of 2^-48 ns, and where it wraps: at 2^48 seconds (R128, R129). -/
def Clk.total (k : Clk) : Nat := (k.sec * 1000000000 + k.ns) * 2 ^ 48 + k.frac
def totalWrap : Nat := 2 ^ 48 * 1000000000 * 2 ^ 48

/-- An outcome that goes on. -/
def Goes (o : Out) : Prop := ∃ t, o = .next t

/-- An outcome that goes on and leaves the queue of waiting commands as `q`. -/
def GoesWith (q : List Instr) (o : Out) : Prop := ∃ t, o = .next t ∧ t.pending = q

/-- The chip has power. -/
def State.powered (s : State) : Prop := s.chip.off = false

/-- A register write to the page is performed: the chip has power, the part has the page and its complex is awake (R63,
R355), the page is not BUSY and its calibration is done (R67, R151, R448), and it is not locked (R68). -/
def State.writable (s : State) (p : Page) : Prop :=
  s.chip.off = false ∧ pageAwake s.chip p = true ∧ writesRefused s.clk s.chip p = false ∧ Chip.locked s.chip p = false

/-- A command to a complex is taken: the chip has power, and the complex is there and not in STANDBY (R1, R355). -/
def State.ready (s : State) (x : Cx) : Prop := s.chip.off = false ∧ awake s.chip x = true

/-- The window offsets of a page's registers and of their live copies (R64). -/
def regKey (p : Page) (o : Nat) : Nat := Page.base p + o
def liveKey (p : Page) (o : Nat) : Nat := Page.base p + 0x800 + o

/-- Every stored register but those at the offsets `ks` stands. -/
def SameRegs (c d : Chip) (ks : List Nat) : Prop := ∀ a, a ∉ ks → kvFind d.regs a = kvFind c.regs a

/-- Nothing but the registers at the offsets `ks` and the outputs of the latest command differs: every other register,
table, buffer and unit stands. -/
def OnlyRegs (c d : Chip) (ks : List Nat) : Prop := { d with regs := c.regs, out := c.out } = c ∧ SameRegs c d ks

/-- The same, but that commits requested may note staged values as they stood at clock 0 (R29). -/
def OnlyStaged (c d : Chip) (ks : List Nat) : Prop :=
  { d with regs := c.regs, out := c.out, commits := c.commits } = c ∧ SameRegs c d ks ∧
  d.commits.map (fun r => (r.page, r.turn, r.waited)) = c.commits.map (fun r => (r.page, r.turn, r.waited))

/-- Nothing differs but the registers at the offsets `ks`, the outputs, the port's own state and its nodes' rows in the
scheduler's table (R284). -/
def OnlyPort (c d : Chip) (n : Fin 512) (ks : List Nat) : Prop :=
  { d with regs := c.regs, out := c.out, ports := c.ports, mem := c.mem } = c ∧ SameRegs c d ks ∧
  (∀ m, m ≠ n → Chip.port d m = Chip.port c m) ∧
  (∀ a, a < rowKey (schPage n) 0 0 ∨ rowKey (schPage n) 0 9 ≤ a → memGet d.mem a = memGet c.mem a)

/-- Registers of a port that an attempt writes, and those of its lanes (R89, R94). -/
def attemptKeys (c : Chip) (n : Fin 512) : List Nat :=
  [regKey (prtPage n) 0x04C, regKey (prtPage n) 0x060] ++ (lanesOf c n).flatMap (fun l =>
    [0x044, 0x050, 0x054, 0x058, 0x05C, 0x060, 0x064].map (regKey (lnePage l)))

/-- Registers that a port's reaching UP writes (R89, R92, R96). -/
def upKeys (c : Chip) (n : Fin 512) : List Nat :=
  [regKey (prtPage n) 0x010, regKey (prtPage n) 0x04C, regKey (prtPage n) 0x098, regKey (stpPage n) 0x044] ++
  (lanesOf c n).flatMap (fun l => [0x044, 0x048, 0x068].map (regKey (lnePage l)))

/-- Arrivals of a port's lanes, in 1/64 UI (R92). -/
def arrivals (c : Chip) (n : Fin 512) (skews : List (Nat × Nat)) : List Nat :=
  (lanesOf c n).zipIdx.map (fun l => (skews.getD l.2 (0, 0)).1 * 64 + (skews.getD l.2 (0, 0)).2)

/-- The captured time of a PPS_IN edge `sub` sixteenths into the clock, less its delay (R135). -/
def edgeStamp (k : Clk) (c : Chip) (sub : Nat) : Nat :=
  stampAdd ((k.sec * secUnits + k.ns * 65536 + (k.frac + k.incr * sub / 16) / 2 ^ 32) % stampWrap)
    (-(signed 32 (Chip.getLive c .tim 0x0CC).toNat))

/-- A frame's 64th byte has been received at a port that had nothing in progress: what the port keeps of it (R33, R107,
R158, R404). -/
def TakenAs (s : State) (d : Chip) (n : Fin 512) (kind : RxKind) (cap : RxCapture) (bytes : List Byte) (corr : Nat)
    (ecc : Option BusErr) : Prop :=
  (Chip.port d n).rx = some {
    kind := kind, word := some (startCapture s.clk s.chip n (laneMode s.chip n) cap), bytes := rxNext s.chip n 0 bytes
    cfg := d.regs, corr := corr, ecc := ecc }

/-- Does the end of a received frame count it good or by a failure (R97, R98, R104)? -/
def endCounted (c : Chip) (n : Fin 512) (r : RxProg) : Bool :=
  match r.kind with
  | .held | .pair | .presented _ => true
  | .early => Chip.isUp c n
  | _ => false

/-- The failures of a frame that ends whole (R104): one presented, or of the pair link, is checked under the configuration that
it was taken under (R33). -/
def endFails (c : Chip) (n : Fin 512) (r : RxProg) (bs : List Byte) (e : RxErrs) : List RxFail :=
  let q : Chip := match r.kind with
    | .presented _ | .pair => { c with regs := r.cfg }
    | _ => c
  rxFails bs { e with code := earlier r.code e.code, ecc := firstErr r.ecc e.ecc } false (maxLen q n) (lenChk q n)

/-- A frame of a queue; and the bytes of a frame that leaves whole, its stored FCS last, with a PTP update that waited for them
(R110, R168). -/
def queued (f : TxFrame) : Bool := match f.kind with | .queue _ => true | _ => false
def wireBytes (s : State) (n : Fin 512) (f : TxFrame) (rest : List Byte) : List Byte :=
  let bs := if queued f then f.bytes ++ rest else f.bytes
  if f.ptp then (ptpEdit (ptpArgs (Chip.underTx s.chip f) s.clk n f f.stamp) bs).1 else bs

/-- A host frame straight to its port (R328). -/
def hosted (f : TxFrame) : Bool := match f.kind with | .host _ => true | _ => false

/-- A frame at stage 3: the bytes it holds, those with its R-TAG, and whether it is a short host frame without padding (R111,
R373). `q` is the chip under the frame's configuration (R33). -/
def editHeld (q : Chip) (n : Fin 512) (f : TxFrame) (i : EditInput) : List Byte :=
  match f.kind with
  | .host h => hostBytes q n h
  | _ => if i.bytes.length < f.bytes.length then f.bytes else i.bytes
def editTagged (q : Chip) (n : Fin 512) (f : TxFrame) (i : EditInput) : List Byte :=
  if hosted f then editHeld q n f i else rtag q n f.word (editHeld q n f i)
def editRunt (q : Chip) (n : Fin 512) (f : TxFrame) : Bool :=
  match f.kind with
  | .host h => decide (h.bytes.length < 60) && !Chip.liveFlag q (prtPage n) 0x100 2
  | _ => false

/-- The writes of bytes to host memory, and the reads of `n` bytes of it, as they leave the host memory port (R47, R48). -/
def writesOf (c : Chip) (func addr : Nat) (bs : List Byte) : List Output := (hostWrite func addr bs (Chip.clear c)).out
def readsOf (c : Chip) (func addr n : Nat) : List Output := (hostRead func addr n (Chip.clear c)).out

/-- Nothing differs but the registers at the offsets `ks`, the outputs and the timebase's own state. -/
def OnlyTime (c d : Chip) (ks : List Nat) : Prop :=
  { d with regs := c.regs, out := c.out, time := c.time } = c ∧ SameRegs c d ks

/-- A window takes a command: its complex is there and awake, no command runs in it, and neither the owner of its table nor
its complex reads BUSY (R80, R454). -/
def State.windowFree (s : State) (x : Cx) (w : Fin 64) : Prop :=
  s.ready x ∧ kvFind s.chip.twRun (twKey x w) = none ∧ twBlocked s.clk s.chip x w = false

/-- The table and row that a window's registers name (R79). -/
def twTable (c : Chip) (x : Cx) (w : Fin 64) : Nat := bits (twGet c x w 0) 23 16
def twRow (c : Chip) (x : Cx) (w : Fin 64) : Nat := bits (twGet c x w 4) 23 0

/-- The status a command on the table that a window names has before it acts (R82). -/
def twCheck (c : Chip) (x : Cx) (w : Fin 64) (write : Bool) : Nat :=
  tableCheck c (twOwner c x w) (twTable c x w) (twRow c x w) write

/-- Tables whose entries are plain bytes to their page: a WRITE sets the row's bytes and does nothing else. -/
def plainTable (p : Page) (t : Nat) : Bool :=
  match p with
  | .cx _ .ses _ => decide (t ≠ 0)
  | .cx _ .mtr _ => decide (t ≠ 0)
  | .cx _ .whl _ => decide (t ≠ 0)
  | .cap => decide (t ≠ 0)
  | _ => true

/-- Pages whose unit does nothing of its own when their staged values become live (R70). -/
def commitPlain (p : Page) : Bool :=
  match p with
  | .cap | .icu | .func | .sel => true
  | .cx _ t _ => decide (t ∈ [.slc, .lne, .stp, .prs, .bsq, .glz, .ses, .mtr, .whl, .dor, .chk, .log, .tel])
  | _ => false

/-- The chip has power and the pair unit (R5). -/
def State.paired (s : State) : Prop := s.chip.off = false ∧ hasSaggar s.chip.part = true

/-- No journal runs: a change of role only sets its mode (R306). -/
def jrnStill (c : Chip) : Prop := ∀ x ∈ complexes c.part, (Chip.jrnOf c x).running = false

/-- A request of type `msg` has been sent to the witness with REQ_ID `id`, or, for want of a key, WIT_FAIL is set (R379,
R381). -/
def Asked (c d : Chip) (turn msg id : Nat) : Prop :=
  (witKey c = none → d.pair.reqs = c.pair.reqs ∧ Chip.flag d .sag 0x010 11 = true) ∧
  ((witKey c).isSome = true → (∀ r ∈ c.pair.reqs, r.id ≠ id) →
    d.pair.reqs = c.pair.reqs ++ [⟨msg, id, turn, false⟩] ∧ Chip.flag d .sag 0x068 7 = false)

/-- The registers that a transmit probe of a port records in (R174). -/
def probeKeys (n : Fin 512) : List Nat := [0x010, 0x050, 0x078, 0x080].map (regKey (stpPage n))

/-- Nothing differs but the registers of the SAG page at the offsets `ks`, the outputs, the pair unit's own state, and the
ports that its witness messages leave on, with what an armed transmit probe there records. -/
def OnlyPair (c d : Chip) (ks : List Nat) : Prop :=
  { d with regs := c.regs, out := c.out, pair := c.pair, ports := c.ports } = c ∧
  ∀ a, a ∉ ks.map (regKey .sag) → (∀ n, (Chip.port c n).probeTx = true → a ∉ probeKeys n) →
    kvFind d.regs a = kvFind c.regs a

/-- Nothing differs but the registers at the offsets `ks`, the outputs, and what the firing check and the log hold. -/
def OnlyHealth (c d : Chip) (ks : List Nat) : Prop :=
  { d with regs := c.regs, out := c.out, hlt := c.hlt, logs := c.logs, mem := c.mem } = c ∧ SameRegs c d ks

/-- The registers that a log entry writes (R418, R422). -/
def logKeys (x : Cx) : List Nat := [0x010, 0x080, 0x088, 0x090].map (regKey (onePage x .log))

/-- The log differs as one entry of the code makes it (R418). -/
def Logged (k : Clk) (c d : Chip) (x : Cx) (code : Nat) (p : Page) (detail : Nat) : Prop :=
  d.logs = (Chip.log c k x code p detail).logs ∧ d.mem = (Chip.log c k x code p detail).mem

/-- A miss of a turn is recorded (R25): the late counter at `o` of page `q` counts it, LATE of page `p` sets, and the log of
complex `x` has an entry with the activity. -/
def LateMarked (s : State) (d : Chip) (x : Cx) (q : Page) (o : Nat) (p : Page) (act : Nat) : Prop :=
  Chip.get d q o = Chip.get s.chip q o + 1 ∧ Chip.flag d p 0x00C 3 = true ∧ Logged s.clk s.chip d x 0x01 p act

/-- What a CHECK finds: in CHAIN mode the final value is EXPECT, in RECORD mode no block has failed (R362, R364). -/
def chkMatches (c : Chip) (x : Cx) (u : Fin 4) : Bool :=
  if chkRecord (Chip.chkOf c x u).ctl then decide ((Chip.chkOf c x u).bad = 0)
  else decide (chkFinal (Chip.chkOf c x u).ctl (Chip.get c (chkPage x u) 0x080).toNat =
    chkWidth (Chip.chkOf c x u).ctl (Chip.chkOf c x u).expect)

/-- A CHECK has completed: RESULT_VALID, and MISMATCH with its cause and count, or neither and MATCH (R365). -/
def CheckDone (x : Cx) (u : Fin 4) (c d : Chip) : Prop :=
  Chip.flag d (chkPage x u) 0x074 2 = true ∧
  (chkMatches c x u = false → Chip.flag d (chkPage x u) 0x074 4 = true ∧ Chip.flag d (chkPage x u) 0x010 9 = true ∧
    Chip.get d (chkPage x u) 0x100 = Chip.get c (chkPage x u) 0x100 + 1) ∧
  (chkMatches c x u = true → Chip.flag d (chkPage x u) 0x074 4 = false ∧ Chip.flag d (chkPage x u) 0x074 3 = true ∧
    Chip.get d (chkPage x u) 0x100 = Chip.get c (chkPage x u) 0x100)

/-- The command completes: time and the waiting commands stand, and the chip it leaves has the property. -/
def Performs (i : Instr) (s : State) (P : Chip → Prop) : Prop := ∃ d, exec i s = .next { s with chip := d } ∧ P d

/-- A register write of the PCIe master completes: the chip it leaves has the property, but that the write is marked in the
claims of that master's targets (R350). -/
def Writes (i : Instr) (s : State) (P : Chip → Prop) : Prop :=
  ∃ d, exec i s = .next { s with chip := masterWrote .pcie d } ∧ P d

end Sys2Proof.Machine
end

