-- ==== Sys2Proof/Certificates/Slice0/Obligations.lean ====
section
/-!
DEFINITION. The statements for the provers: what the rules of the spec say the commands of the block do.
-/
open Sys2Proof Sys2Proof.Machine

/-! The machine as a whole. -/

/-- A step runs the command at the front of the queue on the rest of the queue. -/
def Obligations.StepRunsFrontCommand : Prop :=
  ∀ (i : Instr) (q : List Instr) (s : State), s.pending = i :: q → step s = exec i { s with pending := q }

/-- With no command waiting, a powered block passes one clock of its turn: the model's choice (assumption 2); chip time
advances by the increment in force (R128). A turn boundary begins the next turn at clock 0, and chip time has advanced by the
increment for each clock that was left of the turn (R23, R128). -/
def Obligations.ClocksAndTurnsPass : Prop :=
  (∀ s : State, s.pending = [] → s.powered → Clk.Ok s.clk → s.clk.clock < 1599 →
       ∃ t, step s = .next t ∧ t.pending = [] ∧ t.clk.turn = s.clk.turn ∧ t.clk.clock = s.clk.clock + 1 ∧
         t.clk.incr = s.clk.incr ∧ Clk.total t.clk = (Clk.total s.clk + s.clk.incr) % totalWrap) ∧
  (∀ (s : State) (b : Bool), s.powered → Clk.Ok s.clk →
       ∃ t, exec (.turnBoundary b) s = .next t ∧ t.pending = s.pending ∧ t.clk.turn = s.clk.turn + 1 ∧ t.clk.clock = 0 ∧
         t.clk.incr = s.clk.incr ∧ Clk.total t.clk = (Clk.total s.clk + (1600 - s.clk.clock) * s.clk.incr) % totalWrap)

/-- Every command completes in every state, whatever its operands, and leaves the waiting commands as they are: none ends in
a fault or a refusal. This is the model's choice: a command for an event that is not due has no effect (assumption 4, DESIGN
CHOICE), and nothing raises a fault (assumption 10, DESIGN CHOICE). -/
def Obligations.EveryCommandCompletes : Prop :=
  ∀ (i : Instr) (s : State), ∃ t, exec i s = .next t ∧ t.pending = s.pending

/-- Chip time and the turn stand through every command but the resets, the applied adjustment and the turn boundary (R128,
R132). That a command takes no time of its own is the model's choice (assumption 3, DESIGN CHOICE). -/
def Obligations.OnlyTimeCommandsMoveTime : Prop :=
  ∀ (i : Instr) (s t : State), exec i s = .next t → i ≠ .chipReset → i ≠ .chipPowerDown → i ≠ .timeAdjustApply →
    (∀ b, i ≠ .turnBoundary b) → t.clk = s.clk

/-- Every step keeps the clock within the turn and chip time within its ranges (R23, R128, R129). -/
def Obligations.EveryStepKeepsTimeInRange : Prop :=
  ∀ s t : State, Clk.Ok s.clk → step s = .next t → Clk.Ok t.clk

/-- Right after reset: turn 0, chip time 0 at the nominal increment, every register at its reset value, every table byte 0,
every complex initialising, no command waiting (R130, R131, R448, R449). That the calibration store, which R449 keeps, is blank
here, and that the part is a T1024, are the model's choices (assumptions 7 and 6, DESIGN CHOICE). -/
def Obligations.ResetState : Prop :=
  Clk.Ok State.reset.clk ∧ Clk.total State.reset.clk = 0 ∧ State.reset.clk.turn = 0 ∧ State.reset.clk.clock = 0 ∧
  State.reset.clk.incr = 0x0000A3D70A3D70A4 ∧ State.reset.pending = [] ∧ State.reset.powered ∧
  (∀ p o, Chip.get State.reset.chip p o = Page.resetAt p o ∧ Chip.getLive State.reset.chip p o = Page.resetAt p o) ∧
  Memory.wf State.reset.chip.mem = true ∧ (∀ a, memGet State.reset.chip.mem a = 0) ∧
  (∀ x, x ∈ State.reset.chip.initBusy)

/-- A chip without power takes no command but chip reset and the loss of power: nothing changes but that the outputs of the
command before are gone (R54, R447). Chip reset completes in every state: time is as after reset, the calibration store's
bytes stand, with its program count and whether a program of it was torn, every other byte of the tables is 0, the endpoint's
limits stand, and every other register and unit of the chip is as after reset (R151, R447, R449). Loss of power completes in
every state too, with the same left and the chip without power, and the store is torn where a PROGRAM ran (R152, R418). That
chip reset tears the store too where a PROGRAM ran, that the torn PROGRAM is not counted and the store's bytes stand, and what
of the store is kept, are the model's choices (assumptions 31, 33 and 34). -/
def Obligations.PowerAndChipReset : Prop :=
  (∀ (i : Instr) (s : State), s.chip.off = true → i ≠ .chipReset → i ≠ .chipPowerDown →
       exec i s = .next { s with chip := s.chip.clear }) ∧
  (∀ s : State, ∃ d, exec .chipReset s = .next { clk := Clk.reset, chip := d, pending := s.pending } ∧
       d.off = false ∧ d.maxPay = s.chip.maxPay ∧ d.maxRead = s.chip.maxRead ∧
       { d with mem := [], time := {}, maxPay := 256, maxRead := 512 } = Chip.resetOf s.chip.part ∧
       (∀ r o, r < 4096 → o < 512 → memGet d.mem (rowKey .tim 0 r + o) = memGet s.chip.mem (rowKey .tim 0 r + o)) ∧
       (∀ a, a < rowKey .tim 0 0 ∨ rowKey .tim 0 4096 ≤ a → memGet d.mem a = 0) ∧
       { d.time with calProg := 0, calTorn := false } = {} ∧ d.time.calProg = s.chip.time.calProg ∧
       (d.time.calTorn = true ↔ s.chip.time.calTorn = true ∨ ∃ n, s.chip.time.calOp = some (3, n))) ∧
  (∀ s : State, ∃ d, exec .chipPowerDown s = .next { clk := Clk.reset, chip := d, pending := s.pending } ∧
       d.off = true ∧ d.maxPay = s.chip.maxPay ∧ d.maxRead = s.chip.maxRead ∧
       { d with mem := [], time := {}, maxPay := 256, maxRead := 512, off := false } = Chip.resetOf s.chip.part ∧
       (∀ r o, r < 4096 → o < 512 → memGet d.mem (rowKey .tim 0 r + o) = memGet s.chip.mem (rowKey .tim 0 r + o)) ∧
       (∀ a, a < rowKey .tim 0 0 ∨ rowKey .tim 0 4096 ≤ a → memGet d.mem a = 0) ∧
       { d.time with calProg := 0, calTorn := false } = {} ∧ d.time.calProg = s.chip.time.calProg ∧
       (d.time.calTorn = true ↔ s.chip.time.calTorn = true ∨ ∃ n, s.chip.time.calOp = some (3, n)))

/-! Resets, power and the turn. -/

/-- The end of a complex's initialisation ends BUSY of its pages, once no soft reset holds them, and changes nothing else
(R448). The calibration store is checked once after chip reset (R151): a store that is not valid sets CAL_BAD and its cause,
a valid one CAL_DONE and its cause, and its records are applied: the field that a record names takes its value, staged and
live, and a record that names none is counted; a second load changes nothing. -/
def Obligations.PowerUpWorkEnds : Prop :=
  (∀ (s : State) (x : Cx), s.powered →
       Performs (.chipInitDone x) s (fun d => x ∉ d.initBusy ∧ (∀ y, y ≠ x → (y ∈ d.initBusy ↔ y ∈ s.chip.initBusy)) ∧
         { d with initBusy := s.chip.initBusy, out := s.chip.out } = s.chip ∧
         (s.chip.resetting = [] → ∀ t i, Chip.busy d s.clk (.cx x t i) = false))) ∧
  (∀ s : State, s.powered → s.chip.latent = [] →
       (Chip.flag s.chip .tim 0x044 6 = false → Chip.flag s.chip .tim 0x044 7 = false → calValid s.chip 0 = false →
         Performs .calPowerupLoad s (fun d => Chip.flag d .tim 0x044 7 = true ∧ Chip.flag d .tim 0x044 6 = false ∧
           Chip.flag d .tim 0x010 17 = true ∧ d.mem = s.chip.mem ∧ d.time = s.chip.time)) ∧
       (Chip.flag s.chip .tim 0x044 6 = false → Chip.flag s.chip .tim 0x044 7 = false → calValid s.chip 0 = true →
         Performs .calPowerupLoad s (fun d => Chip.flag d .tim 0x044 6 = true ∧ Chip.flag d .tim 0x044 7 = false ∧
           Chip.flag d .tim 0x010 16 = true ∧ d.mem = s.chip.mem ∧
           Chip.get d .tim 0x198 = Chip.get s.chip .tim 0x198 + BitVec.ofNat 64
             ((List.range (calN s.chip 0)).countP (fun i => (calTarget s.chip (calRec s.chip (i + 1))).isNone)) ∧
           (∀ i p g o, i < calN s.chip 0 → calTarget s.chip (calRec s.chip (i + 1)) = some (p, g, o) →
             (∀ j q h u, j < calN s.chip 0 → j ≠ i → calTarget s.chip (calRec s.chip (j + 1)) = some (q, h, u) → (q, u) ≠ (p, o)) →
             ∃ v : Word, v = BitVec.ofNat 64
                 (stageNorm p o (merge (Reg.mask g .rws) (Chip.get s.chip p o) (BitVec.ofNat 64 (calRec s.chip (i + 1)).val)).toNat) ∧
               Chip.get d p o = v ∧ Chip.getLive d p o = v))) ∧
       ((Chip.flag s.chip .tim 0x044 6 = true ∨ Chip.flag s.chip .tim 0x044 7 = true) →
         exec .calPowerupLoad s = .next { s with chip := s.chip.clear }))

/-- A write of 1 to SOFT_RESET sets BUSY of the page, and of every page of the complex when the page is its CPX page, within
a bound of 4 turns (R67). Once the pages it resets are idle, or its 4 turns are past, a soft reset completes and is no longer
running; before that it goes on and nothing changes (assumption 112, the model's choice). A page whose unit shows nothing of
the reset, and whose fields no calibration loaded, then holds its reset values, but for HDR_IRQ_STAT, HDR_SCRATCH and the
errors captured since. -/
def Obligations.SoftResetSetsAndEndsBusy : Prop :=
  ((∀ (s : State) (p : Page), s.writable p →
       Writes (.softReset p) s (fun d => (p, s.clk.turn + 4) ∈ d.resetting ∧ Chip.busy d s.clk p = true)) ∧
     (∀ (s : State) (x : Cx), s.writable (cpxPage x) →
       Writes (.softResetComplex x) s (fun d => (cpxPage x, s.clk.turn + 4) ∈ d.resetting ∧
         ∀ t i, Chip.busy d s.clk (.cx x t i) = true))) ∧
  ((∀ (s : State) (p : Page), s.chip.off = false → pageAwake s.chip p = true → resetReady s.clk s.chip p = true →
       Performs (.softResetDone p) s (fun d => ∀ r ∈ d.resetting, r.1 ≠ p)) ∧
     (∀ (s : State) (p : Page), s.chip.off = false → pageAwake s.chip p = true → resetReady s.clk s.chip p = false →
       exec (.softResetDone p) s = .next { s with chip := s.chip.clear }) ∧
     (∀ (s : State) (x : Cx) (t : CxType) (i : Fin 256), s.chip.off = false → pageAwake s.chip (.cx x t i) = true →
       t ∈ [.slc, .prs, .bsq, .glz, .mtr, .dor, .hlt, .tel, .log] →
       resetReady s.clk s.chip (.cx x t i) = true → s.chip.time.calVals = [] →
       Performs (.softResetDone (.cx x t i)) s (fun d => ∀ o, o < 0x800 → o ∉ [0x010, 0x020, 0x024, 0x028] →
         Chip.get d (.cx x t i) o = Page.resetAt (.cx x t i) o ∧ Chip.getLive d (.cx x t i) o = Page.resetAt (.cx x t i) o)))

/-! Register pages. -/

/-- A write of a register with no behaviour of its own stores its bits, and a read returns them: HDR_SCRATCH of any page;
nothing else changes (R12, R51, R65). Where both masters write it in one clock, the management core's write is performed
first, and the other's value stands (R52). -/
def Obligations.RegisterWriteStoresAndReadReturns : Prop :=
  (∀ (s : State) (p : Page) (v : Word), s.writable p →
    Writes (.registerWrite ⟨{ master := .pcie, addr := Page.base p + 0x028, size := 4, op := .write v }, none⟩) s
      (fun d => (Chip.get d p 0x028).toNat % 2 ^ 32 = v.toNat % 2 ^ 32 ∧ OnlyRegs s.chip d [regKey p 0x028])) ∧
  (∀ (s : State) (p : Page), s.chip.off = false → pageAwake s.chip p = true →
    Performs (.registerWrite ⟨{ master := .pcie, addr := Page.base p + 0x028, size := 4, op := .read }, none⟩) s
      (fun d => d.out = [.readData (BitVec.ofNat 64 ((Chip.get s.chip p 0x028).toNat % 2 ^ 32))] ∧
        { d with readPcie := s.chip.readPcie, out := s.chip.out } = s.chip)) ∧
  (∀ (s : State) (p : Page) (v w : Word), s.writable p →
    Performs (.registerWrite ⟨{ master := .pcie, addr := Page.base p + 0x028, size := 4, op := .write v },
        some { master := .mgmt, addr := Page.base p + 0x028, size := 4, op := .write w }⟩) s
      (fun d => (Chip.get d p 0x028).toNat % 2 ^ 32 = v.toNat % 2 ^ 32))

/-- An access to an address that no page or window of the part maps is a decode error: a read returns all ones, a write is
discarded, and the capability page counts it (R3, R63); a page of a complex in STANDBY answers none (R355); an access that is
not aligned to its size changes nothing but the error captured by its page, of kind 5 (R72, R75). -/
def Obligations.BadAccessesAreCaptured : Prop :=
  (∀ (s : State) (m : Master) (a : Nat) (v : Word), s.powered → placeOf s.chip.part a = .none →
    (∃ d, exec (.registerWrite ⟨{ master := m, addr := a, size := 4, op := .write v }, none⟩) s =
        .next { s with chip := masterWrote m d } ∧
      Chip.get d .cap 0x048 = Chip.get s.chip .cap 0x048 + 1 ∧
      OnlyRegs s.chip d [regKey .cap 0x010, regKey .cap 0x020, regKey .cap 0x024, regKey .cap 0x048]) ∧
    Performs (.registerWrite ⟨{ master := .pcie, addr := a, size := 4, op := .read }, none⟩) s
      (fun d => d.out = [.readData (BitVec.ofNat 64 (2 ^ 32 - 1))] ∧ d.readPcie = BitVec.ofNat 64 (2 ^ 32 - 1) ∧
        Chip.get d .cap 0x048 = Chip.get s.chip .cap 0x048 + 1)) ∧
  (∀ (s : State) (x : Cx) (t : CxType) (i : Fin 256) (o : Nat) (v : Word), s.powered → x ∈ s.chip.standby →
    Page.present s.chip.part (.cx x t i) = true → o < 0x800 →
    Writes (.registerWrite ⟨{ master := .pcie, addr := Page.base (.cx x t i) + o, size := 4, op := .write v }, none⟩) s
      (fun d => Chip.get d .cap 0x048 = Chip.get s.chip .cap 0x048 + 1 ∧
        OnlyRegs s.chip d [regKey .cap 0x010, regKey .cap 0x020, regKey .cap 0x024, regKey .cap 0x048])) ∧
  (∀ (s : State) (p : Page) (o : Nat) (v : Word), s.chip.off = false → pageAwake s.chip p = true → o < 0x800 → o % 4 ≠ 0 →
    Writes (.registerWrite ⟨{ master := .pcie, addr := Page.base p + o, size := 4, op := .write v }, none⟩) s
      (fun d => Chip.flag d p 0x020 30 = true ∧ (Chip.flag s.chip p 0x020 30 = false → Chip.fld d p 0x020 19 16 = 5) ∧
        OnlyRegs s.chip d [regKey p 0x010, regKey p 0x020, regKey p 0x024]))

/-- A write of a configuration field of a locked page changes nothing but the error captured: kind 4 (R68, R75). LOCK set by
a write of 1, the other controls standing (R68); a cause forced (R65); an error record cleared with its address (R65). -/
def Obligations.LockedPagesAndHeaderControls : Prop :=
  (∀ (s : State) (p : Page) (v : BitVec 32), s.chip.off = false → pageAwake s.chip p = true →
       writesRefused s.clk s.chip p = false → Chip.locked s.chip p = true → bits v.toNat 31 16 ≠ Chip.fld s.chip p 0x01C 31 16 →
       Writes (.hdrGenWrite p v) s (fun d => Chip.get d p 0x01C = Chip.get s.chip p 0x01C ∧ d.commits = s.chip.commits ∧
         Chip.flag d p 0x020 30 = true ∧ (Chip.flag s.chip p 0x020 30 = false → Chip.fld d p 0x020 19 16 = 4) ∧
         OnlyRegs s.chip d [regKey p 0x010, regKey p 0x020, regKey p 0x024])) ∧
  ((∀ (s : State) (p : Page), s.writable p →
       Writes (.pageLock p) s (fun d => Chip.locked d p = true ∧ Chip.fld d p 0x008 1 0 = Chip.fld s.chip p 0x008 1 0 ∧
         OnlyStaged s.chip d [regKey p 0x008])) ∧
     (∀ (s : State) (p : Page) (v : BitVec 32), s.writable p →
       Writes (.irqForce p v) s (fun d =>
         (∀ i, Chip.flag d p 0x010 i = (Chip.flag s.chip p 0x010 i || (v.toNat.testBit i && (Page.causes s.chip.part p).testBit i))) ∧
         OnlyRegs s.chip d [regKey p 0x010])) ∧
     (∀ (s : State) (p : Page), s.writable p →
       Writes (.errInfoClear p) s (fun d => Chip.flag d p 0x020 30 = false ∧ Chip.flag d p 0x020 31 = false ∧
         Chip.get d p 0x024 = 0 ∧ OnlyRegs s.chip d [regKey p 0x020, regKey p 0x024])))

/-- A write of STAGED of HDR_GEN that differs from LIVE requests a commit (R70), and one that equals it requests none;
nothing else changes. A due commit within its budget copies the page's staged values to the live ones, sets LIVE of HDR_GEN
and the COMMIT cause, and is gone (R28, R70); a unit that acts at its commit acts on the chip so left. A PGR page's commit applies its breakout: ports that it
takes away are DISABLED, those that it makes start an attempt where they are enabled, and an enabled one taken away is told of
(R87). A DMA page's commit starts a DISABLED ring that its registers enable, and a RUNNING one that they no longer enable runs
no more (R313, R315). A JRN page's commit that enables the journal forms START with cause 0 (R306). Work that misses its
turn is counted by its late counter, sets LATE and is logged with its activity (R25): a due commit once in its turn, and it
waits (R32); the wheel's maintenance while a movable entry remains; telemetry samples not taken; a Sweep's chunk, of which what was
written stays in its slot (R430), or record; a health report that is not made; the close of a slip epoch, which is abandoned (R26). -/
def Obligations.CommitsAreRequestedMadeAndMissed : Prop :=
  (∀ (s : State) (p : Page) (v : BitVec 32), s.writable p →
       Writes (.hdrGenWrite p v) s (fun d => Chip.fld d p 0x01C 31 16 = bits v.toNat 31 16 ∧
         Chip.fld d p 0x01C 15 0 = Chip.fld s.chip p 0x01C 15 0 ∧
         ((bits v.toNat 31 16 ≠ Chip.fld s.chip p 0x01C 15 0 → ∃ r ∈ d.commits, r.page = p) ∧
          (bits v.toNat 31 16 = Chip.fld s.chip p 0x01C 15 0 → d.commits.length = s.chip.commits.length)) ∧
         { d with regs := s.chip.regs, out := s.chip.out, commits := s.chip.commits } = s.chip ∧
         SameRegs s.chip d [regKey p 0x01C])) ∧
  (∀ (s : State) (p : Page) (r : CommitReq), s.chip.off = false → pageAwake s.chip p = true →
       dueCommit s.clk s.chip p = some r → s.clk.clock < 64 → inBudget s.clk s.chip p = true → p ∉ s.chip.committed →
       ∃ e, exec (.configCommit p) s = .next { s with chip := commitAfter s.clk p s.chip.clear e } ∧
         p ∈ e.committed ∧ Chip.flag e p 0x010 3 = true ∧
         Chip.fld e p 0x01C 15 0 = bits (stagedIn s.chip r 0x01C).toNat 31 16 ∧
         (commitPlain p = true →
           commitAfter s.clk p s.chip.clear e = e ∧
           e.commits = s.chip.commits.erase r ∧ e.committed = s.chip.committed ++ [p] ∧
           (∀ g ∈ rwsRegs p, Chip.getLive e p g.1 = merge g.2 (Chip.getLive s.chip p g.1) (stagedIn s.chip r g.1)) ∧
           { e with regs := s.chip.regs, out := s.chip.out, commits := s.chip.commits, committed := s.chip.committed } = s.chip ∧
           SameRegs s.chip e ([regKey p 0x010, regKey p 0x01C] ++ (rwsRegs p).map (fun g => liveKey p g.1)))) ∧
  (∀ (s : State) (g : Fin 64) (r : CommitReq) (old new : Nat), s.chip.off = false → pageAwake s.chip (pgrPage g) = true →
       dueCommit s.clk s.chip (pgrPage g) = some r → s.clk.clock < 64 → inBudget s.clk s.chip (pgrPage g) = true →
       pgrPage g ∉ s.chip.committed → old = (Chip.getLive s.chip (pgrPage g) 0x040).toNat → new = (stagedIn s.chip r 0x040).toNat →
       Performs (.configCommit (pgrPage g)) s (fun d => Chip.getLive d (pgrPage g) 0x040 = stagedIn s.chip r 0x040 ∧
         (∀ n ∈ brkDiff g old new, n ∉ brkDiff g new old → Chip.linkState d n = 0) ∧
         (∀ n ∈ brkDiff g new old, isPair d n = false →
           Chip.linkState d n = if Chip.enabled s.chip (prtPage n) then firstState s.chip n else 0) ∧
         ((∃ n ∈ brkDiff g old new, Chip.enabled s.chip (prtPage n) = true) → Chip.flag d (pgrPage g) 0x010 9 = true))) ∧
  (∀ (s : State) (n : Fin 4096) (r : CommitReq), s.chip.off = false → pageAwake s.chip (dmaPage n.val) = true →
       dueCommit s.clk s.chip (dmaPage n.val) = some r → s.clk.clock < 64 → inBudget s.clk s.chip (dmaPage n.val) = true →
       dmaPage n.val ∉ s.chip.committed →
       Performs (.configCommit (dmaPage n.val)) s (fun d => ∃ cfg, cfg = (Chip.getLive d (dmaPage n.val) (ringOff n.val + 0x10)).toNat ∧
         (ringState s.chip n.val = 0 → bit cfg 31 = true → bits cfg 30 28 ≤ 5 → 6 ≤ bits cfg 27 24 →
           funcRuns s.chip (bits cfg 21 16) = true → ringState d n.val = 1 ∧ ∃ h, Chip.ring d n.val = some h ∧
             h.kind = bits cfg 30 28 ∧ h.size = bits cfg 27 24 ∧ h.owner = bits cfg 21 16) ∧
         (ringState s.chip n.val = 1 → bit cfg 31 = false → ringState d n.val ≠ 1))) ∧
  (∀ (s : State) (x : Cx) (r : CommitReq), s.chip.off = false → pageAwake s.chip (jrnPage x) = true →
       dueCommit s.clk s.chip (jrnPage x) = some r → s.clk.clock < 64 → inBudget s.clk s.chip (jrnPage x) = true →
       jrnPage x ∉ s.chip.committed → Chip.enabled s.chip (jrnPage x) = false → bit (stagedIn s.chip r 0x008).toNat 0 = true →
       Chip.flag s.chip (jrnPage x) 0x008 1 = false → (Chip.jrnOf s.chip x).running = false →
       (Chip.jrnOf s.chip x).events = [] → jrnFull (Chip.jrnOf s.chip x) = false →
       Performs (.configCommit (jrnPage x)) s (fun d => (Chip.jrnOf d x).running = true ∧
         ∃ rec, (Chip.jrnOf d x).buf = (Chip.jrnOf s.chip x).buf ++ [rec] ∧ recKind rec = 5 ∧
           bits (memNat rec 20 4) 31 28 = 0 ∧ memNat rec 0 8 = jrnNext s.chip x (Chip.inShadow s.chip x))) ∧
  (∀ (s : State) (p : Page) (r : CommitReq), s.chip.off = false → pageAwake s.chip p = true →
       dueCommit s.clk s.chip p = some r → 64 ≤ s.clk.clock → r.waited ≠ s.clk.turn →
       Performs (.turnMissed (.commit p)) s (fun d =>
         LateMarked s d (Page.home p) (if Page.isShared p then .cap else onePage (Page.home p) .cpx) 0x118 p 1 ∧
         d.commits = s.chip.commits.map (fun q => if q = r then { q with waited := s.clk.turn } else q) ∧
         d.committed = s.chip.committed)) ∧
  (∀ (s : State) (x : Cx), s.ready x → wheelLate s.clk x s.chip = true →
       Performs (.turnMissed (.wheel x)) s (fun d => LateMarked s d x (whlPage x) 0x080 (whlPage x) 2 ∧
         Chip.schedOf d x = { Chip.schedOf s.chip x with missed := some s.clk.turn })) ∧
  (∀ (s : State) (x : Cx), s.ready x → 1536 ≤ s.clk.clock → sampleOwed s.clk s.chip x = true →
       Performs (.turnMissed (.telemetry x)) s (fun d => LateMarked s d x (telPage x) 0x080 (telPage x) 3 ∧
         Chip.schedOf d x = { Chip.schedOf s.chip x with sampled := some s.clk.turn })) ∧
  (∀ (s : State) (x : Cx), s.ready x → s.clk.clock = 1599 → (Chip.swpOf s.chip x).running = true →
       (Chip.swpOf s.chip x).due = s.clk.turn → (Chip.swpOf s.chip x).ended = true → ∀ read wrote,
       Performs (.turnMissed (.sweep x read wrote)) s (fun d => LateMarked s d x (swpPage x) 0x108 (swpPage x) 4 ∧
         (Chip.swpOf d x).due = s.clk.turn + 1)) ∧
  (∀ (s : State) (x : Cx), s.ready x → s.clk.clock = 1599 → (Chip.swpOf s.chip x).running = true →
       (Chip.swpOf s.chip x).due = s.clk.turn → (Chip.swpOf s.chip x).ended = false → s.chip.latent = [] → ∀ (read wrote : Nat) t,
       t = readSlices s.clk x (Chip.swpOf s.chip x).list [] ((dueSlices (Chip.swpOf s.chip x)).take read).zipIdx s.chip.clear →
       Performs (.turnMissed (.sweep x read wrote)) s (fun d => LateMarked s d x (swpPage x) 0x108 (swpPage x) 4 ∧
         (Chip.swpOf d x).due = s.clk.turn + 1 ∧ (Chip.swpOf d x).missing = (Chip.swpOf s.chip x).missing + 1 ∧
         Chip.flag d (swpPage x) 0x010 10 = true ∧ (wrote = 0 → d.out = []) ∧
         (0 < wrote → d.out = writesOf s.chip (Chip.swpOf s.chip x).func ((Chip.swpOf s.chip x).base +
           4096 * ((Chip.get s.chip (swpPage x) 0x068).toNat + 1) + 64) (t.2.1.take wrote)))) ∧
  (∀ (s : State) (x : Cx), s.ready x → s.clk.clock = 1599 → Chip.enabled s.chip (hltPage x) = true →
       s.clk.turn % 16 = 0 → (Chip.hltOf s.chip x).built ≠ some (s.clk.turn / 16) →
       Performs (.turnMissed (.health x)) s (fun d => LateMarked s d x (hltPage x) 0x158 (hltPage x) 5 ∧
         (Chip.hltOf d x).built = some (s.clk.turn / 16))) ∧
  (∀ (s : State), s.paired → s.clk.clock = 1599 → s.chip.pair.closing.isSome = true →
       Performs (.turnMissed .slipClose) s (fun d => LateMarked s d 0 .sag 0x148 .sag 6 ∧ d.pair.closing = none))

/-- QUIESCE_REQ set and cleared, and the end of the work held (R66). On a JRN page the request stops the journal: a GAP where
one is owed, STOP with cause 1, and the seals of its ranges, in this order; cleared, it forms START with cause 1 (R306). -/
def Obligations.QuiesceRequestDoneAndRelease : Prop :=
  (∀ (s : State) (p : Page), s.writable p → Chip.flag s.chip p 0x008 1 = false → (∀ x i, p ≠ .cx x .jrn i) →
    Writes (.quiesceRequest p) s (fun d => Chip.flag d p 0x008 1 = true ∧ Chip.accepting d p = false ∧
      (quiesceAtOnce p = true → Chip.flag d p 0x00C 0 = true) ∧
      SameRegs s.chip d [regKey p 0x008, regKey p 0x00C])) ∧
  (∀ (s : State) (p : Page), s.chip.off = false → pageAwake s.chip p = true → Chip.flag s.chip p 0x008 1 = true →
    unitIdle s.chip p = true →
    Performs (.quiesceDone p) s (fun d => Chip.flag d p 0x00C 0 = true ∧ OnlyRegs s.chip d [regKey p 0x00C])) ∧
  (∀ (s : State) (p : Page), s.writable p → Chip.flag s.chip p 0x008 1 = true → (∀ x i, p ≠ .cx x .jrn i) →
    Writes (.quiesceRelease p) s (fun d => Chip.flag d p 0x008 1 = false ∧ Chip.flag d p 0x00C 0 = false ∧
      OnlyStaged s.chip d [regKey p 0x008, regKey p 0x00C])) ∧
  (∀ (s : State) (x : Cx), s.writable (jrnPage x) → (Chip.jrnOf s.chip x).events = [] →
    (Chip.jrnOf s.chip x).buf.length + (Chip.jrnOf s.chip x).closed.length + 8 ≤ 65536 →
    (Chip.flag s.chip (jrnPage x) 0x008 1 = false → (Chip.jrnOf s.chip x).running = true →
      Writes (.quiesceRequest (jrnPage x)) s (fun d => Chip.flag d (jrnPage x) 0x008 1 = true ∧
        Chip.accepting d (jrnPage x) = false ∧ (Chip.jrnOf d x).running = false ∧ (Chip.jrnOf d x).stopped = true ∧
        (Chip.jrnOf d x).lost = none ∧ (Chip.jrnOf d x).events = [] ∧
        ∃ gap stop seals, (Chip.jrnOf d x).buf = (Chip.jrnOf s.chip x).buf ++ gap ++ [stop] ++ seals ∧
          gap.map recKind = (if (Chip.jrnOf s.chip x).lost.isSome then [3] else []) ∧
          recKind stop = 6 ∧ bits (memNat stop 20 4) 31 28 = 1 ∧ (∀ rec ∈ seals, recKind rec = 2) ∧
          (Chip.jrnOf s.chip x).closed.length ≤ seals.length)) ∧
    (Chip.flag s.chip (jrnPage x) 0x008 1 = true → (Chip.jrnOf s.chip x).running = false →
      Chip.enabled s.chip (jrnPage x) = true →
      Writes (.quiesceRelease (jrnPage x)) s (fun d => Chip.flag d (jrnPage x) 0x008 1 = false ∧
        Chip.flag d (jrnPage x) 0x00C 0 = false ∧ (Chip.jrnOf d x).running = true ∧
        ∃ rec, (Chip.jrnOf d x).buf = (Chip.jrnOf s.chip x).buf ++ [rec] ∧ recKind rec = 5 ∧
          bits (memNat rec 20 4) 31 28 = 1 ∧ memNat rec 0 8 = jrnNext s.chip x (Chip.inShadow s.chip x))))

/-! Table windows. -/

/-- A READ or WRITE or INVALIDATE taken sets BUSY, and none acts on a table where its check fails (R80, R82). A READ takes
the row's bytes and changes no table. A WRITE takes the buffer's bytes, and until it completes only a valid entry's valid bit
is written, to 0 (R81). An INVALIDATE acts at once. An operation that a window does not have ends at once with BAD_OP and
changes nothing else (R79). A running command completes: BUSY clears, STATUS names its end, a READ fills the buffer, a WRITE
puts its bytes into the row, over any update made to it meanwhile, and AUTO_INC advances ROW on OK (R80, R81). That a READ
takes the row's bytes at the command, and that an INVALIDATE acts there, are the model's (assumption 14, DEDUCED). -/
def Obligations.WindowCommandsActAndComplete : Prop :=
  (∀ (s : State) (x : Cx) (w : Fin 64), s.windowFree x w →
       Writes (.twRead x w) s (fun d => twGet d x w 0x00C = 1 ∧
         (∃ r, kvFind d.twRun (twKey x w) = some r ∧ r.op = 1 ∧ r.stat = twCheck s.chip x w false ∧
           (∀ p, twOwner s.chip x w = some p → r.stat = 0 →
             r.data = tableRead s.chip p (twTable s.chip x w) (twRow s.chip x w))) ∧
         { d with regs := s.chip.regs, out := s.chip.out, twRun := s.chip.twRun } = s.chip ∧
         SameRegs s.chip d [twBase x w + 0x00C]) ∧
       Writes (.twWrite x w) s (fun d => twGet d x w 0x00C = 1 ∧
         (∃ r, kvFind d.twRun (twKey x w) = some r ∧ r.op = 2 ∧ r.stat = twCheck s.chip x w true ∧
           (∀ p, twOwner s.chip x w = some p → r.stat = 0 → r.owner = some p ∧ r.table = twTable s.chip x w ∧
             r.row = twRow s.chip x w ∧ r.data = memRead s.chip.twBuf (twBufKey x w) 512)) ∧
         (twCheck s.chip x w true ≠ 0 → d.mem = s.chip.mem) ∧
         (∀ p i, twOwner s.chip x w = some p → twCheck s.chip x w true = 0 →
           tableOf s.chip.part p (twTable s.chip x w) = some i →
           (i.mode = .plain → d.mem = s.chip.mem) ∧
           (∀ b, i.mode = .entry b →
             d.mem = (clearValid p (twTable s.chip x w) (twRow s.chip x w) b s.chip).mem)) ∧
         { d with regs := s.chip.regs, out := s.chip.out, twRun := s.chip.twRun, mem := s.chip.mem } = s.chip) ∧
       Writes (.twInvalidate x w) s (fun d => twGet d x w 0x00C = 1 ∧
         (∃ r, kvFind d.twRun (twKey x w) = some r ∧ r.op = 3 ∧ r.stat = twCheck s.chip x w true) ∧
         (twCheck s.chip x w true ≠ 0 → d.mem = s.chip.mem) ∧
         (∀ p i, twOwner s.chip x w = some p → twCheck s.chip x w true = 0 →
           tableOf s.chip.part p (twTable s.chip x w) = some i → plainTable p (twTable s.chip x w) = true →
           (i.mode = .plain →
             d.mem = memWrite s.chip.mem (rowKey p (twTable s.chip x w) (twRow s.chip x w)) (List.replicate i.bytes 0)) ∧
           (∀ b, i.mode = .entry b →
             d.mem = (clearValid p (twTable s.chip x w) (twRow s.chip x w) b s.chip).mem)))) ∧
  ((∀ (s : State) (x : Cx) (w : Fin 64) (op : Fin 8), s.windowFree x w → op.val ∉ [1, 2, 3] →
       Writes (.twBadOp x w op) s (fun d => twGet d x w 0x00C = 0x60 ∧ OnlyRegs s.chip d [twBase x w + 0x00C])) ∧
     (∀ (s : State) (x : Cx) (w : Fin 64) (r : TwRun), s.ready x → kvFind s.chip.twRun (twKey x w) = some r → r.again = false →
       r.stat < 16 → s.chip.latent = [] → (r.op = 2 → r.stat = 0 →
         r.owner.any (fun p => plainTable p r.table && (tableOf s.chip.part p r.table).isSome) = true) →
       Performs (.twCmdComplete x w none) s (fun d => twGet d x w 0x00C = 16 * r.stat ∧
         (r.stat = 0 → bit (twGet s.chip x w 4) 31 = true →
           twGet d x w 4 = setBits (twGet s.chip x w 4) 23 0 (bits (twGet s.chip x w 4) 23 0 + 1)) ∧
         (∀ p, r.op = 1 → r.stat = 0 → r.owner = some p → d.twBuf = memWrite s.chip.twBuf (twBufKey x w) r.data) ∧
         (∀ p i, r.op = 2 → r.stat = 0 → r.owner = some p → tableOf s.chip.part p r.table = some i →
           d.mem = memWrite (memWrite s.chip.mem (rowKey p r.table r.row) r.old) (rowKey p r.table r.row)
             (slice r.data 0 i.bytes)) ∧
         (r.op ≠ 2 ∨ r.stat ≠ 0 → d.mem = s.chip.mem) ∧
         { d with regs := s.chip.regs, out := s.chip.out, twRun := s.chip.twRun, twBuf := s.chip.twBuf,
                  mem := s.chip.mem } = s.chip ∧
         SameRegs s.chip d [twBase x w + 4, twBase x w + 0x00C])))

/-! Links. -/

/-- A valid breakout is staged; one that is not valid is refused whole, with its cause (R85). Auto-negotiation, training and
alignment move a port on towards UP, or back to BACKOFF where the partner's mode is another (R89, R90, R92). On the pair port
they move one lane, which the event names by its position, and the port is UP with its first lane (R375). -/
def Obligations.BreakoutsAndBringUp : Prop :=
  (∀ (s : State) (g : Fin 64) (v : BitVec 32), s.writable (pgrPage g) →
       (breakoutValid v.toNat = true → Writes (.pgrBreakoutWrite g v) s (fun d =>
         (Chip.get d (pgrPage g) 0x040).toNat % 2 ^ 32 = v.toNat ∧ OnlyStaged s.chip d [regKey (pgrPage g) 0x040])) ∧
       (breakoutValid v.toNat = false → Writes (.pgrBreakoutWrite g v) s (fun d =>
         Chip.flag d (pgrPage g) 0x010 8 = true ∧ OnlyRegs s.chip d [regKey (pgrPage g) 0x010]))) ∧
  ((∀ (s : State) (n : Fin 512) (lp : BitVec 64) (hcd : Fin 16), s.ready (cxOf n) → Chip.modeAt s.chip n ≠ 0 →
       Chip.linkState s.chip n = 1 → isPair s.chip n = false → hcd.val = Chip.modeAt s.chip n →
       Performs (.anComplete n lp hcd) s (fun d =>
         Chip.linkState d n = (if Chip.liveFlag s.chip (prtPage n) 0x040 1 then 2 else 3) ∧
         Chip.flag d (prtPage n) 0x04C 5 = true ∧ (Chip.get d (prtPage n) 0x058).toNat = lp.toNat % 2 ^ 48 ∧
         OnlyRegs s.chip d [regKey (prtPage n) 0x04C, regKey (prtPage n) 0x058])) ∧
     (∀ (s : State) (n : Fin 512) (lp : BitVec 64) (hcd : Fin 16), s.ready (cxOf n) → Chip.modeAt s.chip n ≠ 0 →
       Chip.linkState s.chip n = 1 → isPair s.chip n = false → hcd.val ≠ Chip.modeAt s.chip n →
       Performs (.anComplete n lp hcd) s (fun d => Chip.linkState d n = 5 ∧
         Chip.fld d (prtPage n) 0x04C 26 24 = min 4 (Chip.fld s.chip (prtPage n) 0x04C 26 24 + 1) ∧
         (Chip.port d n).deadline = s.clk.turn + backoffTurns (Chip.fld d (prtPage n) 0x04C 26 24))) ∧
     (∀ (s : State) (n : Fin 512), s.ready (cxOf n) → Chip.modeAt s.chip n ≠ 0 → Chip.linkState s.chip n = 2 →
       isPair s.chip n = false →
       Performs (.trainComplete n) s (fun d => Chip.linkState d n = 3 ∧
         (∀ l ∈ lanesOf s.chip n, Chip.flag d (lnePage l) 0x044 0 = true) ∧
         OnlyRegs s.chip d (regKey (prtPage n) 0x04C :: (lanesOf s.chip n).map (fun l => regKey (lnePage l) 0x044)))) ∧
     (∀ (s : State) (n : Fin 512) (skews : List (Nat × Nat)), s.ready (cxOf n) → Chip.modeAt s.chip n ≠ 0 →
       Chip.linkState s.chip n = 3 → isPair s.chip n = false → Chip.flag s.chip (prtPage n) 0x048 0 = false →
       (relSkews (arrivals s.chip n skews)).1.all (fun u => skewOk (Chip.modeAt s.chip n) u) = true →
       Performs (.alignLock n skews) s (fun d => Chip.linkState d n = 4 ∧ Chip.flag d (prtPage n) 0x010 8 = true ∧
         Chip.fld d (prtPage n) 0x04C 26 24 = 0 ∧ (Chip.port d n).downSet = false ∧
         OnlyPort s.chip d n (upKeys s.chip n))) ∧
     (∀ (s : State) (n : Fin 512) (skews : List (Nat × Nat)), s.ready (cxOf n) → Chip.modeAt s.chip n ≠ 0 →
       Chip.linkState s.chip n = 3 → isPair s.chip n = false →
       (relSkews (arrivals s.chip n skews)).1.all (fun u => skewOk (Chip.modeAt s.chip n) u) = false →
       Performs (.alignLock n skews) s (fun d => Chip.linkState d n = 3 ∧ Chip.flag d (prtPage n) 0x010 11 = true))) ∧
  (∀ (s : State) (l n : Fin 512) (i : Nat), s.ready (cxOf l) → pairLaneAt s.chip l = some (n, i) →
    (∀ (lp : BitVec 64) (hcd : Fin 16), (laneTry s.chip n i).st = 1 →
      Performs (.anComplete l lp hcd) s (fun d => (Chip.get d (prtPage n) 0x058).toNat = lp.toNat % 2 ^ 48 ∧
        (hcd.val = Chip.modeAt s.chip n → (laneTry d n i).st = if Chip.liveFlag s.chip (prtPage n) 0x040 1 then 2 else 3) ∧
        (hcd.val ≠ Chip.modeAt s.chip n → (laneTry d n i).st = 5 ∧
          (laneTry d n i).step = min 4 ((laneTry s.chip n i).step + 1)))) ∧
    ((laneTry s.chip n i).st = 2 → Performs (.trainComplete l) s (fun d => (laneTry d n i).st = 3 ∧
      Chip.flag d (lnePage l) 0x044 0 = true)) ∧
    (∀ skews, (laneTry s.chip n i).st = 3 → Chip.flag s.chip (prtPage n) 0x048 0 = false →
      Performs (.alignLock l skews) s (fun d => (laneTry d n i).st = 4 ∧ Chip.linkState d n = 4 ∧
        Chip.flag d (lnePage l) 0x044 0 = true ∧ (∀ j, j ≠ i → laneTry d n j = laneTry s.chip n j))))

/-- An attempt ends at its timer and another begins at the end of BACKOFF; RETRY begins one at once (R89, R90); on the pair port
each lane has its own (R375). -/
def Obligations.AttemptsFailAndBeginAgain : Prop :=
  (∀ (s : State) (n : Fin 512), s.ready (cxOf n) → Chip.modeAt s.chip n ≠ 0 → Chip.linkState s.chip n ∈ [1, 2, 3] →
    isPair s.chip n = false → (Chip.port s.chip n).deadline ≤ s.clk.turn →
    Performs (.attemptTimerExpiry n) s (fun d => Chip.linkState d n = 5 ∧
      Chip.fld d (prtPage n) 0x04C 26 24 = min 4 (Chip.fld s.chip (prtPage n) 0x04C 26 24 + 1) ∧
      (Chip.port d n).deadline = s.clk.turn + backoffTurns (Chip.fld d (prtPage n) 0x04C 26 24) ∧
      (Chip.port d n).downSet = true ∧
      OnlyPort s.chip d n [regKey (prtPage n) 0x010, regKey (prtPage n) 0x04C, regKey (prtPage n) 0x068])) ∧
  (∀ (s : State) (n : Fin 512), s.ready (cxOf n) → Chip.modeAt s.chip n ≠ 0 → Chip.linkState s.chip n = 5 →
    isPair s.chip n = false → (Chip.port s.chip n).deadline ≤ s.clk.turn →
    Performs (.backoffExpiry n) s (fun d => Chip.linkState d n = firstState s.chip n ∧
      Chip.get d (prtPage n) 0x060 = Chip.get s.chip (prtPage n) 0x060 + 1 ∧
      (Chip.port d n).deadline = s.clk.turn + 488282 ∧ OnlyPort s.chip d n (attemptKeys s.chip n))) ∧
  (∀ (s : State) (n : Fin 512), s.writable (prtPage n) → Chip.modeAt s.chip n ≠ 0 →
    Chip.linkState s.chip n ∈ [1, 2, 3, 5] → isPair s.chip n = false →
    Writes (.retry n) s (fun d => Chip.linkState d n = firstState s.chip n ∧ Chip.fld d (prtPage n) 0x04C 26 24 = 0 ∧
      Chip.get d (prtPage n) 0x060 = Chip.get s.chip (prtPage n) 0x060 + 1 ∧
      (Chip.port d n).deadline = s.clk.turn + 488282 ∧
      OnlyPort s.chip d n (regKey (prtPage n) 0x044 :: attemptKeys s.chip n))) ∧
  (∀ (s : State) (l n : Fin 512) (i : Nat), s.ready (cxOf l) → pairLaneAt s.chip l = some (n, i) →
    (laneTry s.chip n i).deadline ≤ s.clk.turn →
    ((laneTry s.chip n i).st ∈ [1, 2, 3] → Performs (.attemptTimerExpiry l) s (fun d => (laneTry d n i).st = 5 ∧
      (laneTry d n i).step = min 4 ((laneTry s.chip n i).step + 1) ∧
      (laneTry d n i).deadline = s.clk.turn + backoffTurns (laneTry d n i).step)) ∧
    ((laneTry s.chip n i).st = 5 → Performs (.backoffExpiry l) s (fun d =>
      laneTry d n i = ⟨firstState s.chip n, (laneTry s.chip n i).step, s.clk.turn + 488282⟩ ∧
      Chip.get d (prtPage n) 0x060 = Chip.get s.chip (prtPage n) 0x060 + 1))) ∧
  (∀ (s : State) (n : Fin 512), s.writable (prtPage n) → isPair s.chip n = true →
    Writes (.retry n) s (fun d => ∀ i, i < 4 → (laneTry s.chip n i).st ∈ [1, 2, 3, 5] →
      laneTry d n i = ⟨firstState s.chip n, 0, s.clk.turn + 488282⟩))

/-- A lane lost is shown in its status, and takes down a port that is UP or dormant (R95, R98); a port that was UP transmits
remote fault (R95); on the pair port a lane lost starts an attempt alone while another is up (R375). A lane of a port that gets signal, CDR lock or lock back shows it (R36, R101). Remote fault is
followed while it is received (R96). DORMANT of a port that is not UP waits for UP; one that is UP leaves it; a resume brings the port
through WAKING to UP (R98, R100). -/
def Obligations.LaneLossFaultAndDormancy : Prop :=
  ((∀ (s : State) (l : Fin 512) (which : Fin 3), s.ready (cxOf l) → laneOwner s.chip l = none →
       Performs (.laneLoss l ⟨which, false⟩) s (fun d => Chip.flag d (lnePage l) 0x044 (which.val + 1) = false ∧
         OnlyRegs s.chip d [regKey (lnePage l) 0x044, regKey (lnePage l) 0x048, regKey .tim 0x010, regKey .tim 0x0F8,
           regKey .tim 0x0FC, regKey .tim 0x190])) ∧
     (∀ (s : State) (l n : Fin 512) (which : Fin 3), s.ready (cxOf l) → laneOwner s.chip l = some n →
       Chip.linkState s.chip n ∈ [6, 7] →
       Performs (.laneLoss l ⟨which, false⟩) s (fun d => Chip.linkState d n = firstState s.chip n ∧
         Chip.get d (lnePage l) 0x078 = Chip.get s.chip (lnePage l) 0x078 + 1 ∧ Chip.flag d (lnePage l) 0x010 8 = true ∧
         Chip.flag d (prtPage n) 0x048 0 = false ∧ (Chip.port d n).downSet = true)) ∧
     (∀ (s : State) (l n : Fin 512) (which : Fin 3), s.ready (cxOf l) → laneOwner s.chip l = some n →
       Chip.linkState s.chip n = 4 → isPair s.chip n = false →
       Performs (.laneLoss l ⟨which, false⟩) s (fun d => Chip.linkState d n ∈ [1, 2, 3] ∧ .remoteFault n.val true ∈ d.out)) ∧
     (∀ (s : State) (l n : Fin 512) (i : Nat) (which : Fin 3), s.ready (cxOf l) → pairLaneAt s.chip l = some (n, i) →
       Chip.linkState s.chip n = 4 → i ∈ lanesUp s.chip n →
       Performs (.laneLoss l ⟨which, false⟩) s (fun d => Chip.get d (lnePage l) 0x078 = Chip.get s.chip (lnePage l) 0x078 + 1 ∧
         Chip.get d .sag 0x178 = Chip.get s.chip .sag 0x178 + 1 ∧ Chip.flag d .sag 0x010 13 = true ∧
         (1 < (lanesUp s.chip n).length → Chip.linkState d n = 4 ∧
           laneTry d n i = ⟨firstState s.chip n, 0, s.clk.turn + 488282⟩) ∧
         ((lanesUp s.chip n).length = 1 → Chip.linkState d n ∈ [1, 2, 3] ∧ .remoteFault n.val true ∈ d.out))) ∧
     (∀ (s : State) (l n : Fin 512) (which : Fin 3), s.ready (cxOf l) → laneOwner s.chip l = some n →
       Performs (.laneLoss l ⟨which, true⟩) s (fun d => Chip.flag d (lnePage l) 0x044 (which.val + 1) = true ∧
         OnlyRegs s.chip d [regKey (lnePage l) 0x044])) ∧
     (∀ (s : State) (n : Fin 512), s.ready (cxOf n) → Chip.modeAt s.chip n ≠ 0 → (Chip.port s.chip n).faultRx = false →
       Performs (.remoteFaultOnset n) s (fun d => (Chip.port d n).faultRx = true ∧
         (Chip.isUp s.chip n = true → Chip.flag d (prtPage n) 0x04C 6 = true ∧ Chip.flag d (prtPage n) 0x010 10 = true ∧
           Chip.get d (prtPage n) 0x098 = Chip.get s.chip (prtPage n) 0x098 + 1) ∧
         OnlyPort s.chip d n [regKey (prtPage n) 0x010, regKey (prtPage n) 0x04C, regKey (prtPage n) 0x098])) ∧
     (∀ (s : State) (n : Fin 512), s.ready (cxOf n) →
       Performs (.remoteFaultClear n) s (fun d => (Chip.port d n).faultRx = false ∧ Chip.flag d (prtPage n) 0x04C 6 = false ∧
         OnlyPort s.chip d n [regKey (prtPage n) 0x04C]))) ∧
  ((∀ (s : State) (n : Fin 512), s.writable (prtPage n) → Chip.isUp s.chip n = false →
       Writes (.dormantRequest n) s (fun d => Chip.flag d (prtPage n) 0x048 0 = true ∧
         OnlyRegs s.chip d [regKey (prtPage n) 0x048])) ∧
     (∀ (s : State) (n : Fin 512), s.writable (prtPage n) → Chip.modeAt s.chip n ≠ 0 → Chip.isUp s.chip n = true →
       (Chip.port s.chip n).rx = none → (Chip.port s.chip n).tx = [] → kvGet [] s.chip.hostQ n.val = [] →
       Writes (.dormantRequest n) s (fun d => Chip.flag d (prtPage n) 0x048 0 = true ∧ Chip.linkState d n = 6)) ∧
     (∀ (s : State) (n : Fin 512), s.writable (prtPage n) → Chip.modeAt s.chip n ≠ 0 → Chip.linkState s.chip n = 6 →
       Writes (.dormantResume n) s (fun d => Chip.flag d (prtPage n) 0x048 0 = false ∧ (Chip.port d n).resume = true ∧
         (Chip.port d n).deadline = s.clk.turn + 1 ∧ Chip.linkState d n = 6 ∧
         OnlyPort s.chip d n [regKey (prtPage n) 0x048])) ∧
     (∀ (s : State) (n : Fin 512), s.ready (cxOf n) → Chip.linkState s.chip n = 6 → (Chip.port s.chip n).resume = true →
       (Chip.port s.chip n).deadline ≤ s.clk.turn →
       Performs (.datapathPowerUp n) s (fun d => Chip.linkState d n = 7 ∧ (Chip.port d n).resume = false ∧
         OnlyPort s.chip d n [regKey (prtPage n) 0x04C])) ∧
     (∀ (s : State) (n : Fin 512), s.ready (cxOf n) → Chip.linkState s.chip n = 7 →
       Chip.flag s.chip (prtPage n) 0x048 0 = false →
       Performs (.wakeDatapathReady n) s (fun d => Chip.linkState d n = 4 ∧ Chip.flag d (prtPage n) 0x010 12 = true ∧
         OnlyPort s.chip d n (upKeys s.chip n))))

/-! Frames received and sent. -/

/-- The 64th byte of a frame at a port that is UP and has nothing in progress, its bytes those given or those of a local
loopback: while the port quiesces it is refused and counted (R97), a pair link port keeps it for its pair (R376), in
store-and-forward, or where it may be a MAC control frame or is a witness message, it is held (R107, R108), any other is
presented with its ingress stamp where the pipeline has a place for it (R107, R156, R197). The end of a frame, once whole,
counts it by its first failing check, or as good, once (R104, R105, R127); one refused is not counted; a MAC control frame
with an operation that is not flow control counts as that too (R108). Codewords of a line without a frame are counted too (R93).
Assumption 18 (DESIGN CHOICE): what may be a control frame is held by its first 64 bytes. -/
def Obligations.FramesAreTakenAndCounted : Prop :=
  (∀ (s : State) (n : Fin 512) (cap : RxCapture) (bytes : List Byte) (corr : Nat) (ecc : Option BusErr), s.ready (cxOf n) →
       Chip.modeAt s.chip n ≠ 0 → Chip.linkState s.chip n = 4 → (Chip.port s.chip n).rx = none →
       64 ≤ (rxNext s.chip n 0 bytes).length →
       (portQuiesce s.chip n = true → Performs (.rxFrameStart n cap ⟨bytes, corr, ecc⟩) s (fun d =>
         TakenAs s d n .drain cap bytes corr ecc ∧
         Chip.get d (prtPage n) 0x0A0 = Chip.get s.chip (prtPage n) 0x0A0 + 1 ∧
         (corr = 0 → ecc = none → OnlyPort s.chip d n [regKey (prtPage n) 0x0A0]))) ∧
       (portQuiesce s.chip n = false → isPair s.chip n = true → Performs (.rxFrameStart n cap ⟨bytes, corr, ecc⟩) s (fun d =>
         TakenAs s d n .pair cap bytes corr ecc ∧
         (corr = 0 → ecc = none → OnlyPort s.chip d n ([0x010, 0x050, 0x058, 0x060, 0x068, 0x070].map (regKey (stpPage n)))))) ∧
       (portQuiesce s.chip n = false → isPair s.chip n = false →
         (ecc.isSome || Chip.liveFlag s.chip (prtPage n) 0x100 0 || maybeControl (rxNext s.chip n 0 bytes) ||
           isWitness s.chip n (rxNext s.chip n 0 bytes)) = true →
         Performs (.rxFrameStart n cap ⟨bytes, corr, ecc⟩) s (fun d =>
           TakenAs s d n .held cap bytes corr ecc ∧ (corr = 0 → ecc = none → OnlyPort s.chip d n []))) ∧
       (portQuiesce s.chip n = false → isPair s.chip n = false →
         (ecc.isSome || Chip.liveFlag s.chip (prtPage n) 0x100 0 || maybeControl (rxNext s.chip n 0 bytes) ||
           isWitness s.chip n (rxNext s.chip n 0 bytes)) = false →
         Performs (.rxFrameStart n cap ⟨bytes, corr, ecc⟩) s (fun d =>
           ∃ id, TakenAs s d n (.presented id) cap bytes corr ecc ∧
             (∀ i f, id = some i → Chip.frame d i = some f →
               f.stamp = ingressStamp s.chip n (startCapture s.clk s.chip n (laneMode s.chip n) cap) ∧
               f.bytes = (rxNext s.chip n 0 bytes).take (maxLen s.chip n) ∧ f.cut = true)))) ∧
  ((∀ (s : State) (n : Fin 512) (rest bs : List Byte) (errs : RxErrs) (r : RxProg) (f : RxFail) (fs : List RxFail),
       s.ready (cxOf n) → rxOpen s.chip n = true → (Chip.port s.chip n).rx = some r →
       rxWhole s.chip n r.bytes rest = some bs → endCounted s.chip n r = true → endFails s.chip n r bs errs = f :: fs →
       Performs (.rxFrameEnd n rest errs) s (fun d => (Chip.port d n).rx = none ∧
         Chip.get d (prtPage n) f.counter = Chip.get s.chip (prtPage n) f.counter + 1 ∧
         Chip.get d (prtPage n) 0x278 = Chip.get s.chip (prtPage n) 0x278 + BitVec.ofNat 64 f.octets ∧
         (r.kind ∈ [.held, .early, .pair] → errs.eccCorr = 0 → errs.ecc = none → errs.fecSyms = [] →
           OnlyPort s.chip d n ([0x070, 0x078, 0x080, f.counter, 0x278].map (regKey (prtPage n)))))) ∧
     (∀ (s : State) (n : Fin 512) (rest bs : List Byte) (errs : RxErrs) (r : RxProg),
       s.ready (cxOf n) → rxOpen s.chip n = true → (Chip.port s.chip n).rx = some r →
       rxWhole s.chip n r.bytes rest = some bs → endCounted s.chip n r = true → endFails s.chip n r bs errs = [] →
       Performs (.rxFrameEnd n rest errs) s (fun d => (Chip.port d n).rx = none ∧
         Chip.get d (prtPage n) 0x200 = Chip.get s.chip (prtPage n) 0x200 + 1 ∧
         Chip.get d (prtPage n) 0x208 = Chip.get s.chip (prtPage n) 0x208 + BitVec.ofNat 64 bs.length ∧
         Chip.get d (prtPage n) (addrOff 0x210 bs) = Chip.get s.chip (prtPage n) (addrOff 0x210 bs) + 1 ∧
         Chip.get d (prtPage n) (0x2C0 + 8 * sizeBin bs.length) =
           Chip.get s.chip (prtPage n) (0x2C0 + 8 * sizeBin bs.length) + 1 ∧
         (r.kind = .held → wireNat bs (typeAt bs) 2 = 0x8808 → wireNat bs (typeAt bs + 2) 2 ∉ [0x0001, 0x0101] →
           Chip.get d (prtPage n) 0x270 = Chip.get s.chip (prtPage n) 0x270 + 1))) ∧
     (∀ (s : State) (n : Fin 512) (rest bs : List Byte) (errs : RxErrs) (r : RxProg),
       s.ready (cxOf n) → rxOpen s.chip n = true → (Chip.port s.chip n).rx = some r →
       rxWhole s.chip n r.bytes rest = some bs → r.kind = .drain →
       Performs (.rxFrameEnd n rest errs) s (fun d => (Chip.port d n).rx = none ∧
         (errs.eccCorr = 0 → errs.ecc = none → errs.fecSyms = [] →
           OnlyPort s.chip d n ([0x070, 0x078, 0x080].map (regKey (prtPage n)))))) ∧
     (∀ (s : State) (n : Fin 512) (errs : RxErrs), s.ready (cxOf n) → Chip.modeAt s.chip n ≠ 0 → Chip.linkState s.chip n ≠ 0 →
       (Chip.port s.chip n).rx = none → Chip.lpbk s.chip n ≠ 1 → hasFec s.chip n = true →
       errs.eccCorr = 0 → errs.ecc = none →
       Performs (.rxFrameEnd n [] errs) s (fun d =>
         Chip.get d (prtPage n) 0x070 = Chip.get s.chip (prtPage n) 0x070 + BitVec.ofNat 64 errs.fecCw ∧
         Chip.get d (prtPage n) 0x078 = Chip.get s.chip (prtPage n) 0x078 + BitVec.ofNat 64 errs.fecCorr ∧
         Chip.get d (prtPage n) 0x080 = Chip.get s.chip (prtPage n) 0x080 + BitVec.ofNat 64 errs.fecBad.length ∧
         (errs.fecSyms = [] → OnlyRegs s.chip d ([0x070, 0x078, 0x080].map (regKey (prtPage n)))))))

/-- A change of the XOFF state wants one flow-control frame (R122); a running priority's frame is wanted again at the
refresh; a timer that has run out leaves its port (R119, R120). A wanted flow-control frame starts at a frame boundary of an
open port, where no door's release stands before its end or goes before it (R278): it carries the state in force, it stands with the frames sent, not
stamped (R164), starting where the line is free for it, and it is wanted no more (R122). That its vector names every priority
touched since the last frame is the model's choice (assumption 130, DESIGN CHOICE). -/
def Obligations.FlowControlIsWantedAndSent : Prop :=
  ((∀ (s : State) (n : Fin 512) (v : BitVec 32), s.writable (prtPage n) →
       Writes (.fcTxWrite n v) s (fun d => Chip.fld d (prtPage n) 0x128 7 0 = v.toNat % 256 ∧
         (fcState d n ≠ fcState s.chip n → (Chip.port d n).fcPend = true) ∧
         (fcState d n = fcState s.chip n → Chip.port d n = Chip.port s.chip n) ∧
         OnlyPort s.chip d n [regKey (prtPage n) 0x128])) ∧
     (∀ (s : State) (n : Fin 512), s.ready (cxOf n) → fcState s.chip n ≠ 0 → (Chip.port s.chip n).fcNext ≤ Clk.abs s.clk →
       Chip.isUp s.chip n = true →
       Performs (.fcRefresh n) s (fun d => Chip.port d n = { Chip.port s.chip n with fcPend := true } ∧
         OnlyPort s.chip d n [])) ∧
     (∀ (s : State) (n : Fin 512), s.ready (cxOf n) →
       Performs (.fcTimerExpiry n) s (fun d =>
         Chip.port d n = { Chip.port s.chip n with
           pause := (Chip.port s.chip n).pause.filter (fun g => decide (Clk.abs s.clk < g.stop)) } ∧
         OnlyPort s.chip d n [regKey (prtPage n) 0x010, regKey (prtPage n) 0x12C]))) ∧
  (∀ (s : State) (n : Fin 512) (l : Launch), s.ready (cxOf n) → (Chip.port s.chip n).fcPend = true →
       linkOpen s.chip n = true → isPair s.chip n = false → Chip.lpbk s.chip n ≠ 2 →
       l = place s.chip (Chip.port s.chip n) n (macReady s.clk s.chip n) 64 0 →
       fcBehind s.clk s.chip n = false →
       doorBlocks s.clk s.chip n none (l.lineEnd + wireTime (Chip.modeAt s.chip n) (portIpg s.chip n) + 9600) = false →
       Performs (.fcFrameSend n) s (fun d => (Chip.port d n).fcPend = false ∧ (Chip.port d n).fcTouch = 0 ∧
         (Chip.port d n).fcLast = fcState s.chip n ∧
         (∃ f ∈ (Chip.port d n).tx, f.len = 64 ∧ f.edited = true ∧ f.stamp = 0 ∧
           f.launch = l.clock (Chip.modeAt s.chip n) ∧
           f.bytes = fcBytes s.chip n (Chip.liveFlag s.chip (prtPage n) 0x118 2) (fcState s.chip n)
             (if Chip.liveFlag s.chip (prtPage n) 0x118 2 then fcState s.chip n ||| (Chip.port s.chip n).fcTouch else 1) ∧
           (Chip.lpbk s.chip n ≠ 1 → d.out = [.txStart n.val f.bytes 0])) ∧
         OnlyPort s.chip d n [regKey (prtPage n) 0x12C]))

/-- The frame on the wire ends (R110, R114, R127). An underrun of a queue's frame that was not held for its end: it is stomped
over the bytes sent and counted, and CUR rises by one up to 32; a due byte that is there is none. At its end a frame leaves with a computed FCS and counts as
sent; a queue's frame whose end says FCS_BAD or TRUNC, and one that met an uncorrectable word, leaves stomped and counts as
that. What leaves goes out on the lanes, but under local loopback (R102). -/
def Obligations.TransmittedFrameEnds : Prop :=
  (∀ (s : State) (n : Fin 512) (q due : Nat) (f : TxFrame), s.ready (cxOf n) → onWire s.clk s.chip n = some f →
    f.kind = .queue q → f.cur < 32 → f.bytes.length ≤ due →
    Performs (.txUnderrun n due) s (fun d => Chip.get d (prtPage n) 0x428 = Chip.get s.chip (prtPage n) 0x428 + 1 ∧
      Chip.flag d (prtPage n) 0x010 16 = true ∧
      Chip.cur d n = (if Chip.cur s.chip n < 32 then Chip.cur s.chip n + 1 else Chip.cur s.chip n) ∧
      (Chip.cur s.chip n = 31 → Chip.flag d (prtPage n) 0x010 17 = true) ∧
      (Chip.port d n).tx.length + 1 = (Chip.port s.chip n).tx.length ∧
      (Chip.lpbk s.chip n ≠ 1 → .txEnd n.val (withFcs (f.bytes ++ [0, 0, 0, 0]) true) true ∈ d.out) ∧
      (f.seq = none → f.cap = none → bit f.word 9 = false →
        OnlyPort s.chip d n [regKey (prtPage n) 0x010, regKey (prtPage n) 0x108, regKey (prtPage n) 0x428]))) ∧
  (∀ (s : State) (n : Fin 512) (due : Nat) (f : TxFrame), s.ready (cxOf n) → onWire s.clk s.chip n = some f →
    due < f.bytes.length → exec (.txUnderrun n due) s = .next { s with chip := s.chip.clear }) ∧
  (∀ (s : State) (n : Fin 512) (rest : List Byte) (eof : EofBits) (f : TxFrame), s.ready (cxOf n) →
    onWire s.clk s.chip n = some f → (queued f && (eof.fcsBad || eof.trunc)) = false →
    (f.ecc || eof.ecc.isSome || queued f && eof.stomp) = false →
    Performs (.txFrameEnd n rest eof) s (fun d =>
      Chip.get d (prtPage n) 0x400 = Chip.get s.chip (prtPage n) 0x400 + 1 ∧
      Chip.get d (prtPage n) 0x408 = Chip.get s.chip (prtPage n) 0x408 +
        BitVec.ofNat 64 (withFcs (wireBytes s n f rest) false).length ∧
      (Chip.port d n).tx.length + 1 = (Chip.port s.chip n).tx.length ∧
      (Chip.lpbk s.chip n ≠ 1 → .txEnd n.val (withFcs (wireBytes s n f rest) false) false ∈ d.out))) ∧
  (∀ (s : State) (n : Fin 512) (rest : List Byte) (eof : EofBits) (f : TxFrame), s.ready (cxOf n) →
    onWire s.clk s.chip n = some f → (queued f && (eof.fcsBad || eof.trunc)) = true →
    Performs (.txFrameEnd n rest eof) s (fun d =>
      Chip.get d (prtPage n) 0x430 = Chip.get s.chip (prtPage n) 0x430 + 1 ∧
      (Chip.port d n).tx.length + 1 = (Chip.port s.chip n).tx.length ∧
      (Chip.lpbk s.chip n ≠ 1 → .txEnd n.val (withFcs (wireBytes s n f rest) true) true ∈ d.out) ∧
      (f.journals = false → f.seq = none → f.cap = none → bit f.word 9 = false → f.ptp = false → eof.corr = 0 → eof.ecc = none →
        OnlyPort s.chip d n [regKey (prtPage n) 0x430]))) ∧
  (∀ (s : State) (n : Fin 512) (rest : List Byte) (eof : EofBits) (f : TxFrame), s.ready (cxOf n) →
    onWire s.clk s.chip n = some f → (queued f && (eof.fcsBad || eof.trunc)) = false →
    (f.ecc || eof.ecc.isSome || queued f && eof.stomp) = true →
    Performs (.txFrameEnd n rest eof) s (fun d =>
      Chip.get d (prtPage n) 0x438 = Chip.get s.chip (prtPage n) 0x438 + 1 ∧
      (Chip.port d n).tx.length + 1 = (Chip.port s.chip n).tx.length ∧
      (Chip.lpbk s.chip n ≠ 1 → .txEnd n.val (withFcs (wireBytes s n f rest) true) true ∈ d.out)))

/-! Chip time and the timebase. -/

/-- The increment is counted in units of 2^-48 ns and is nominal after reset, within 10^-15 of 0.64 ns; LOAD_INCR is accepted
within ±500 ppm of it, and rejected outside (R130). -/
def Obligations.IncrementsAreInRange : Prop :=
  Clk.reset.incr = 0x0000A3D70A3D70A4 ∧ Clk.reset.incr = 180143985094820 ∧
  (((Clk.reset.incr * 100 : Nat) : Int) - (64 * 2 ^ 48 : Nat)).natAbs * 10 ^ 15 < 64 * 2 ^ 48 ∧
  (∀ k : Clk, Clk.Ok k → Clk.total (Clk.plus k 1) = (Clk.total k + k.incr) % totalWrap) ∧
  (∀ s : State, s.writable .tim → s.chip.time.adj = none → ∀ v, v = (Chip.get s.chip .tim 0x058).toNat →
    (180053913102273 ≤ v ∧ v ≤ 180234057087367 → Writes .loadIncr s (fun d =>
      d.time.adj = some ⟨s.clk.turn + 16, some v, none, none⟩)) ∧
    (v < 180053913102273 ∨ 180234057087367 < v → Writes .loadIncr s (fun d => d.time = s.chip.time ∧
      Chip.get d .tim 0x178 = Chip.get s.chip .tim 0x178 + 1)))

/-- SNAP copies chip time, turn and clock; LOAD_INCR, STEP and SET schedule one adjustment for turn t + 16, and are rejected
and counted while one is pending (R132, R133, R154). At clock 0 of its turn the pending adjustment is applied (R132): a new
increment, the sum with the step, or the time set; ADJ_DONE sets, and it is counted. -/
def Obligations.AdjustmentsAreScheduledAndApplied : Prop :=
  (∀ s : State, s.writable .tim →
       Writes .snap s (fun d => Chip.get d .tim 0x078 = BitVec.ofNat 64 s.clk.sec ∧
         Chip.get d .tim 0x080 = BitVec.ofNat 64 (nsf s.clk) ∧ Chip.get d .tim 0x088 = BitVec.ofNat 64 s.clk.turn ∧
         Chip.get d .tim 0x090 = BitVec.ofNat 64 s.clk.clock ∧
         OnlyRegs s.chip d ([0x048, 0x078, 0x080, 0x088, 0x090].map (regKey .tim))) ∧
       (s.chip.time.adj = none →
         (incrOk (Chip.get s.chip .tim 0x058).toNat = true → Writes .loadIncr s (fun d =>
           d.time = { s.chip.time with
             adj := some ⟨s.clk.turn + 16, some (Chip.get s.chip .tim 0x058).toNat, none, none⟩ } ∧
           Chip.flag d .tim 0x044 5 = true ∧ OnlyTime s.chip d [regKey .tim 0x044, regKey .tim 0x048])) ∧
         Writes .step s (fun d =>
           d.time = { s.chip.time with adj := some ⟨s.clk.turn + 16, none, some (Chip.get s.chip .tim 0x060).toInt, none⟩ } ∧
           Chip.flag d .tim 0x044 5 = true ∧ OnlyTime s.chip d [regKey .tim 0x044, regKey .tim 0x048]) ∧
         ((Chip.get s.chip .tim 0x070).toNat / 65536 < 1000000000 → Writes .set s (fun d =>
           d.time = { s.chip.time with adj := some ⟨s.clk.turn + 16, none, none,
             some ((Chip.get s.chip .tim 0x068).toNat, (Chip.get s.chip .tim 0x070).toNat)⟩ } ∧
           Chip.flag d .tim 0x044 5 = true ∧ OnlyTime s.chip d [regKey .tim 0x044, regKey .tim 0x048]))) ∧
       (s.chip.time.adj.isSome = true → ∀ i ∈ [Instr.loadIncr, .step, .set], Writes i s (fun d =>
         Chip.get d .tim 0x178 = Chip.get s.chip .tim 0x178 + 1 ∧ Chip.flag d .tim 0x010 15 = true ∧
         OnlyRegs s.chip d [regKey .tim 0x010, regKey .tim 0x048, regKey .tim 0x178]))) ∧
  (∀ (s : State) (a : Adjust), s.powered → Clk.Ok s.clk → s.clk.clock = 0 → s.chip.time.adj = some a → a.due ≤ s.clk.turn →
       ∃ t, exec .timeAdjustApply s = .next t ∧ t.pending = s.pending ∧ t.clk.turn = s.clk.turn ∧ t.clk.clock = 0 ∧
         t.clk.incr = a.incr.getD s.clk.incr ∧
         (∀ v, a.set = some v → t.clk.sec = v.1 % 2 ^ 48 ∧ t.clk.ns = v.2 / 65536 % 1000000000 ∧
           t.clk.frac = v.2 % 65536 * 2 ^ 32) ∧
         (∀ d, a.set = none → a.step = some d → Clk.stamp t.clk = stampAdd (Clk.stamp s.clk) d ∧
           t.clk.frac % 2 ^ 32 = s.clk.frac % 2 ^ 32) ∧
         (a.set = none → a.step = none → Clk.total t.clk = Clk.total s.clk) ∧
         t.chip.time = { s.chip.time with adj := none, before := some (Clk.abs s.clk, s.clk) } ∧
         Chip.flag t.chip .tim 0x044 5 = false ∧
         Chip.flag t.chip .tim 0x010 14 = true ∧ Chip.get t.chip .tim 0x170 = Chip.get s.chip .tim 0x170 + 1 ∧
         OnlyTime s.chip t.chip [regKey .tim 0x010, regKey .tim 0x044, regKey .tim 0x170])

/-- A PPS_IN edge too soon after the last is counted and discarded, another is captured and counted (R135), and PAIRED names
its message's seconds or clears (R139); a second without one is a miss (R135). PPS_OUT rises as chip time passes a second and
falls WIDTH later (R136). -/
def Obligations.PulsesInAndOut : Prop :=
  (∀ (s : State) (sub : Fin 16) (t : Nat), s.powered → s.chip.time.ppsLast = some t → s.clk.turn < t + msTurns 900 →
    Performs (.ppsInEdge sub) s (fun d => Chip.get d .tim 0x150 = Chip.get s.chip .tim 0x150 + 1 ∧
      OnlyRegs s.chip d [regKey .tim 0x150])) ∧
  (∀ (s : State) (sub : Fin 16), s.powered → (∀ t, s.chip.time.ppsLast = some t → t + msTurns 900 ≤ s.clk.turn) →
    Performs (.ppsInEdge sub) s (fun d =>
      Chip.get d .tim 0x098 = BitVec.ofNat 64 (stampSec (edgeStamp s.clk s.chip sub.val)) ∧
      Chip.fld d .tim 0x0A0 63 48 = (Chip.fld s.chip .tim 0x0A0 63 48 + 1) % 2 ^ 16 ∧
      Chip.fld d .tim 0x0A0 47 0 = stampNsf (edgeStamp s.clk s.chip sub.val) ∧
      Chip.get d .tim 0x140 = Chip.get s.chip .tim 0x140 + 1 ∧ Chip.flag d .tim 0x010 10 = true ∧
      (∀ v, todPick (Clk.abs s.clk) s.chip.time.todWait = some v →
        Chip.get d .tim 0x0A8 = BitVec.ofNat 64 (2 ^ 63 + v)) ∧
      (todPick (Clk.abs s.clk) s.chip.time.todWait = none → Chip.flag d .tim 0x0A8 63 = false ∧
        Chip.fld d .tim 0x0A8 47 0 = Chip.fld s.chip .tim 0x0A8 47 0) ∧
      d.time.ppsLast = some s.clk.turn ∧
      OnlyTime s.chip d ([0x010, 0x044, 0x098, 0x0A0, 0x0A8, 0x0B0, 0x140].map (regKey .tim)))) ∧
  (∀ s : State, s.powered → s.chip.time.ppsLast.isSome = true → s.chip.time.missDue ≤ s.clk.turn →
    Performs .ppsInMiss s (fun d => Chip.get d .tim 0x148 = Chip.get s.chip .tim 0x148 + 1 ∧
      Chip.flag d .tim 0x010 11 = true ∧ Chip.flag d .tim 0x044 3 = false ∧
      d.time = { s.chip.time with missDue := s.chip.time.missDue + msTurns 1000 } ∧
      OnlyTime s.chip d ([0x010, 0x044, 0x148].map (regKey .tim)))) ∧
  (∀ s : State, s.powered → Chip.ppsOutPin s.chip = some false → s.clk.secPass = true →
    Performs .ppsOutEdge s (fun d => d.out = [.ppsOut true (ppsLaunch s.clk s.chip)] ∧ Chip.ppsOutPin d = some true ∧
      d.time.ppsFall = ppsLaunch s.clk s.chip + 25000 * Chip.live s.chip .tim 0x0C8 19 0 ∧ OnlyTime s.chip d [])) ∧
  (∀ s : State, s.powered → Chip.ppsOutPin s.chip = some true → s.chip.time.ppsFall / 16 ≤ Clk.abs s.clk →
    Performs .ppsOutFall s (fun d => d.out = [.ppsOut false s.chip.time.ppsFall] ∧
      Chip.ppsOutPin d = some false ∧ OnlyTime s.chip d []))

/-- TOD_OUT names the next second at half a second past (R137, R138); a valid TOD_IN message is copied, counted and waits for
its edge, another is counted as invalid; one whose window has ended is counted as unpaired (R139). -/
def Obligations.TimeOfDayMessages : Prop :=
  (∀ s : State, s.powered → Chip.enabled s.chip .tim = true → Chip.liveFlag s.chip .tim 0x040 6 = true →
    s.clk.halfPass = true →
    Performs .todOutMessage s (fun d => d.out = [.todOut (todMessage s.chip ((s.clk.sec + 1) % 2 ^ 48))] ∧
      d.time.todSeq = (s.chip.time.todSeq + 1) % 2 ^ 16 ∧ OnlyTime s.chip d [])) ∧
  (∀ (s : State) (bytes : List Byte) (framed : Bool), s.powered → Chip.liveFlag s.chip .tim 0x040 7 = true →
    todValid bytes framed = true →
    Performs (.todInMessage bytes framed) s (fun d => Chip.get d .tim 0x0D8 = BitVec.ofNat 64 (memNat bytes 4 8) ∧
      Chip.get d .tim 0x0E0 = BitVec.ofNat 64 (memNat bytes 12 8) ∧
      Chip.get d .tim 0x158 = Chip.get s.chip .tim 0x158 + 1 ∧
      d.time = { s.chip.time with todWait := s.chip.time.todWait ++ [(memNat bytes 4 6, Clk.abs s.clk)] } ∧
      OnlyTime s.chip d ([0x0D8, 0x0E0, 0x158].map (regKey .tim)))) ∧
  (∀ (s : State) (bytes : List Byte) (framed : Bool), s.powered → Chip.liveFlag s.chip .tim 0x040 7 = true →
    todValid bytes framed = false →
    Performs (.todInMessage bytes framed) s (fun d => Chip.get d .tim 0x160 = Chip.get s.chip .tim 0x160 + 1 ∧
      Chip.flag d .tim 0x010 12 = true ∧ OnlyRegs s.chip d ([0x010, 0x160].map (regKey .tim)))) ∧
  (∀ s : State, s.powered →
    Performs .todPairWindowEnd s (fun d =>
      (∀ w, w ∈ d.time.todWait ↔ w ∈ s.chip.time.todWait ∧ Clk.abs s.clk ≤ w.2 + 1560937500) ∧
      Chip.get d .tim 0x168 = Chip.get s.chip .tim 0x168 +
        BitVec.ofNat 64 (s.chip.time.todWait.length - d.time.todWait.length) ∧
      OnlyTime s.chip d [regKey .tim 0x168]))

/-- The time state (R140, R141): an offset report of software under SRC 2 is shown and moves the state; silence in LOCKED
makes it HOLDOVER, and the holdover limit FREE_RUN. -/
def Obligations.TimeStateFollowsReports : Prop :=
  (∀ (s : State) (v : Word), s.writable .tim → Chip.src s.chip = 2 →
    Writes (.servoOffsetWrite v) s (fun d => Chip.get d .tim 0x0B0 = v ∧ d.time = { s.chip.time with lastRep := s.clk.turn } ∧
      (Chip.timeState s.chip = 2 → v.toInt.natAbs > max (Chip.live s.chip .tim 0x0C0 11 0)
          (Chip.live s.chip .tim 0x0C0 23 12) * 65536 → Chip.timeState d = 1 ∧ Chip.flag d .tim 0x010 8 = true) ∧
      (Chip.timeState s.chip = 2 → v.toInt.natAbs ≤ max (Chip.live s.chip .tim 0x0C0 11 0)
          (Chip.live s.chip .tim 0x0C0 23 12) * 65536 → Chip.timeState d = 2) ∧
      (Chip.timeState s.chip = 1 → v.toInt.natAbs ≤ Chip.live s.chip .tim 0x0C0 11 0 * 65536 →
        Chip.lockCnt s.chip ≤ Chip.fld s.chip .tim 0x044 15 8 + 1 →
        Chip.timeState d = 2 ∧ Chip.flag d .tim 0x010 9 = true) ∧
      (Chip.timeState s.chip = 1 → v.toInt.natAbs > Chip.live s.chip .tim 0x0C0 11 0 * 65536 →
        Chip.timeState d = 1 ∧ Chip.fld d .tim 0x044 15 8 = 0) ∧
      OnlyTime s.chip d ([0x010, 0x044, 0x0B0, 0x0B8].map (regKey .tim)))) ∧
  (∀ s : State, s.powered → Chip.timeState s.chip = 2 →
    s.chip.time.lastRep + msTurns (max 1 (Chip.live s.chip .tim 0x0C4 15 0)) ≤ s.clk.turn →
    Performs .timeSilence s (fun d => Chip.timeState d = 3 ∧ Chip.flag d .tim 0x010 8 = true ∧
      Chip.get d .tim 0x180 = Chip.get s.chip .tim 0x180 + 1 ∧ d.time = { s.chip.time with holdFrom := s.clk.turn } ∧
      OnlyTime s.chip d ([0x010, 0x044, 0x180].map (regKey .tim)))) ∧
  (∀ s : State, s.powered → Chip.timeState s.chip = 3 →
    s.chip.time.holdFrom + msTurns (1000 * Chip.live s.chip .tim 0x0C4 31 16) ≤ s.clk.turn →
    Performs .holdoverExpiry s (fun d => Chip.timeState d = 0 ∧ OnlyRegs s.chip d [regKey .tim 0x044]))

/-- A reference window's count is shown with VALID and the next begins; a turn without an edge discards the window (R144); a
clock export resumes at clock 0 once nothing squelches it (R146); an armed probe waits for its frame (R174), and the page of
no live port is inert (R175). -/
def Obligations.ReferenceExportsAndProbes : Prop :=
  (∀ (s : State) (count : BitVec 32), s.powered → Chip.live s.chip .tim 0x0E8 1 0 ≠ 0 →
    s.chip.time.refFrom + 2 ^ 20 ≤ s.clk.turn →
    Performs (.refWindowEnd count) s (fun d => (Chip.get d .tim 0x0F0).toNat = 2 ^ 63 + count.toNat ∧
      Chip.flag d .tim 0x044 4 = true ∧ d.time = { s.chip.time with refFrom := s.clk.turn } ∧
      OnlyTime s.chip d ([0x044, 0x0F0].map (regKey .tim)))) ∧
  (∀ s : State, s.powered → Chip.live s.chip .tim 0x0E8 1 0 ≠ 0 →
    Performs .refLoss s (fun d => Chip.flag d .tim 0x044 4 = false ∧ Chip.flag d .tim 0x0F0 63 = false ∧
      Chip.get d .tim 0x188 = Chip.get s.chip .tim 0x188 + 1 ∧ Chip.flag d .tim 0x010 13 = true ∧
      OnlyTime s.chip d ([0x010, 0x044, 0x0F0, 0x188].map (regKey .tim)))) ∧
  (∀ (s : State) (n : Fin 2), s.powered → s.clk.clock = 0 → synceBad s.clk s.chip n.val = false →
    Performs (.synceResume n) s (fun d => Chip.flag d .tim (0x0F8 + 4 * n.val) 30 = false ∧
      OnlyRegs s.chip d [regKey .tim (0x0F8 + 4 * n.val)])) ∧
  (∀ (s : State) (n : Fin 512), s.writable (stpPage n) → Chip.modeAt s.chip n = 0 → ∀ i ∈ [Instr.armRx n, .armTx n],
    Writes i s (fun d => OnlyRegs s.chip d [regKey (stpPage n) 0x04C])) ∧
  (∀ (s : State) (n : Fin 512), s.writable (stpPage n) → Chip.modeAt s.chip n ≠ 0 →
    Writes (.armRx n) s (fun d => Chip.port d n = { Chip.port s.chip n with probeRx := true } ∧
      Chip.flag d (stpPage n) 0x050 0 = false ∧
      OnlyPort s.chip d n [regKey (stpPage n) 0x04C, regKey (stpPage n) 0x050]) ∧
    Writes (.armTx n) s (fun d => Chip.port d n = { Chip.port s.chip n with probeTx := true } ∧
      Chip.flag d (stpPage n) 0x050 1 = false ∧
      OnlyPort s.chip d n [regKey (stpPage n) 0x04C, regKey (stpPage n) 0x050]))

/-- The calibration store (R152): two writes within one turn unlock one PROGRAM; COPY, LOAD and an unlocked PROGRAM run and
set BUSY, a locked or worn PROGRAM ends at once; a completed operation clears BUSY and shows its status. That a LOAD of a store
that is not valid ends with CHECK_FAIL, and that the turn is 1,600 clocks from the first unlock write, are the model's
(assumptions 35 and 36, DEDUCED). -/
def Obligations.CalibrationStoreOperations : Prop :=
  (∀ s : State, s.writable .tim →
    Writes (.timCalUnlockWrite 0xC0DE) s (fun d =>
      d.time = { s.chip.time with unlock1 := some (Clk.abs s.clk), unlocked := none } ∧
      OnlyTime s.chip d [regKey .tim 0x108]) ∧
    (∀ t, s.chip.time.unlock1 = some t → Clk.abs s.clk ≤ t + 1600 →
      Writes (.timCalUnlockWrite 0xF17E) s (fun d => d.time = { s.chip.time with unlock1 := none, unlocked := some t })) ∧
    (∀ v : BitVec 32, v ≠ 0xC0DE → v ≠ 0xF17E →
      Writes (.timCalUnlockWrite v) s (fun d => d.time = { s.chip.time with unlock1 := none, unlocked := none }))) ∧
  (∀ s : State, s.writable .tim → s.chip.time.calOp = none →
    Writes .calCopy s (fun d => d.time = { s.chip.time with calOp := some (1, s.clk.turn + 4) } ∧
      Chip.flag d .tim 0x104 0 = true ∧ OnlyTime s.chip d [regKey .tim 0x100, regKey .tim 0x104]) ∧
    Writes .calLoad s (fun d => d.time = { s.chip.time with calOp := some (2, s.clk.turn + 4) } ∧
      Chip.flag d .tim 0x104 0 = true ∧ OnlyTime s.chip d [regKey .tim 0x100, regKey .tim 0x104]) ∧
    (calUnlocked s.clk s.chip = true → s.chip.time.calProg < 1000 → Writes .calProgram s (fun d =>
      d.time = { s.chip.time with calOp := some (3, s.clk.turn + 1953125), unlocked := none } ∧
      Chip.flag d .tim 0x104 0 = true ∧ OnlyTime s.chip d [regKey .tim 0x100, regKey .tim 0x104])) ∧
    (calUnlocked s.clk s.chip = false → Writes .calProgram s (fun d => Chip.fld d .tim 0x104 7 4 = 1 ∧
      OnlyRegs s.chip d [regKey .tim 0x100, regKey .tim 0x104])) ∧
    (calUnlocked s.clk s.chip = true → 1000 ≤ s.chip.time.calProg → Writes .calProgram s (fun d =>
      Chip.fld d .tim 0x104 7 4 = 2 ∧ OnlyRegs s.chip d [regKey .tim 0x100, regKey .tim 0x104]))) ∧
  (∀ (s : State) (op n : Nat), s.powered → s.chip.time.calOp = some (op, n) → op ∈ [1, 2, 3] → s.chip.latent = [] →
    Performs .calOpComplete s (fun d => d.time.calOp = none ∧ Chip.flag d .tim 0x104 0 = false ∧
      (op = 1 → Chip.fld d .tim 0x104 7 4 = 0 ∧ d.time = { s.chip.time with calOp := none } ∧
        ∀ r o, r < 4096 → o < 512 → memGet d.mem (rowKey .tim 0 r + o) = memGet s.chip.mem (rowKey .tim 0 r + o)) ∧
      (op = 2 → Chip.fld d .tim 0x104 7 4 = (if calValid s.chip 0 then 0 else 4) ∧ d.mem = s.chip.mem) ∧
      (op = 3 → d.time = { s.chip.time with calOp := none, calTorn := false, calProg := s.chip.time.calProg + 1 } ∧
        ∀ r o, r < 4096 → o < 512 → memGet d.mem (rowKey .tim 1 r + o) = memGet s.chip.mem (rowKey .tim 1 r + o))))

/-! The receive pipeline. -/

/-- SWAP is rejected and counted while it may not begin, else accepted to apply two clocks later; with the draining count at
0 the swap is done (R185, R186, R187). A mask that leaves fewer than 13 engines is refused, another staged (R177). -/
def Obligations.GenerationsSwapAndEnginesAreMasked : Prop :=
  ∀ (s : State) (sl : Fin 8),
    (s.writable (slcPage sl) → Chip.flag s.chip (slcPage sl) 0x050 31 = false → kvFind s.chip.swaps sl.val = none →
      Chip.fld s.chip (slcPage sl) 0x040 31 16 ≠ Chip.fld s.chip (slcPage sl) 0x044 31 16 →
      Writes (.swap sl) s (fun d =>
        d.swaps = kvPut s.chip.swaps sl.val (Clk.abs s.clk + 2, (Chip.get s.chip (slcPage sl) 0x040).toNat) ∧
        OnlyRegs s.chip { d with swaps := s.chip.swaps } [regKey (slcPage sl) 0x04C])) ∧
    (s.writable (slcPage sl) → (Chip.flag s.chip (slcPage sl) 0x050 31 = true ∨ (kvFind s.chip.swaps sl.val).isSome = true ∨
      Chip.fld s.chip (slcPage sl) 0x040 31 16 = Chip.fld s.chip (slcPage sl) 0x044 31 16) →
      Writes (.swap sl) s (fun d =>
        Chip.get d (slcPage sl) 0x060 = Chip.get s.chip (slcPage sl) 0x060 + 1 ∧ Chip.flag d (slcPage sl) 0x010 9 = true ∧
        OnlyRegs s.chip d ([0x010, 0x04C, 0x060].map (regKey (slcPage sl))))) ∧
    (s.ready (cxOfSlice sl) → Chip.flag s.chip (slcPage sl) 0x050 31 = true → Chip.fld s.chip (slcPage sl) 0x054 31 16 = 0 →
      Performs (.swapDone sl) s (fun d => Chip.flag d (slcPage sl) 0x050 31 = false ∧
        Chip.get d (slcPage sl) 0x058 = Chip.get s.chip (slcPage sl) 0x058 + 1 ∧
        Chip.flag d (slcPage sl) 0x010 8 = true ∧
        OnlyRegs s.chip d ([0x010, 0x050, 0x058].map (regKey (slcPage sl))))) ∧
    (∀ v : BitVec 32, s.writable (prsPage sl) →
      (((List.range 16).filter (fun e => bit v.toNat e)).length < 13 → Writes (.engMaskWrite sl v) s (fun d =>
        Chip.flag d (prsPage sl) 0x010 8 = true ∧ OnlyRegs s.chip d [regKey (prsPage sl) 0x010])) ∧
      (13 ≤ ((List.range 16).filter (fun e => bit v.toNat e)).length → Writes (.engMaskWrite sl v) s (fun d =>
        Chip.fld d (prsPage sl) 0x044 15 0 = v.toNat % 2 ^ 16 ∧ OnlyStaged s.chip d [regKey (prsPage sl) 0x044])))

/-- A waiting head is given to the next engine in service: in its first pass it takes the live generation and counts in
flight; a head that finds no engine waits and counts once (R176, R177, R186, R212). Bytes of a frame that a port receives join
what it has of the frame (R107), with the first invalid code among them; those of a frame presented are presented, if it is
released, and its walk goes on if it waits at an engine (R178). At a port that receives nothing they change nothing. -/
def Obligations.HeadsAreDispatchedAndWalksGoOn : Prop :=
  (∀ (s : State) (sl : Fin 8) (errs : List LookupErr) (c0 : Chip) (f : Frame) (e : Nat) (es : List Nat),
    s.ready (cxOfSlice sl) →
    c0 = (List.range 8).foldl (fun c i => passHeads s.clk (8 * sl.val + i) c) { s.chip with latent := s.chip.latent ++ errs } →
    dispatchOrder s.clk c0 sl = [f] → (kvGet (0, 0, 15) s.chip.disp sl.val).1 ≠ Clk.abs s.clk →
    engineOrder (enginesIn s.chip sl) (kvGet (0, 0, 15) s.chip.disp sl.val).2.2 = e :: es →
    Performs (.dispatch ⟨sl, errs⟩) s (fun d => ∃ (f1 : Frame) (c1 : Chip), d = parseFrame s.clk f1 c1 ∧
      f1 = (if f.two then { f with engine := e } else { f with
        grec := (Chip.get s.chip (Frame.slc f) 0x044).toNat, gen := Chip.fld s.chip (Frame.slc f) 0x044 31 16
        counted := true, order := s.chip.nextOrder, engine := e }) ∧
      (f.two = false →
        Chip.fld c1 (Frame.slc f) 0x054 15 0 = (Chip.fld s.chip (Frame.slc f) 0x054 15 0 + 1) % 2 ^ 16) ∧
      c1.disp = kvPut s.chip.disp sl.val (Clk.abs s.clk, 1, e) ∧ c1.nextOrder = s.chip.nextOrder + 1 ∧
      (errs = [] → s.chip.latent = [] →
        OnlyRegs c0 { c1 with disp := c0.disp, nextOrder := c0.nextOrder } [regKey (Frame.slc f) 0x054]))) ∧
  (∀ (s : State) (sl : Fin 8) (errs : List LookupErr) (c0 : Chip) (f : Frame), s.ready (cxOfSlice sl) →
    c0 = (List.range 8).foldl (fun c i => passHeads s.clk (8 * sl.val + i) c) { s.chip with latent := s.chip.latent ++ errs } →
    dispatchOrder s.clk c0 sl = [f] → f.waited = false → enginesIn s.chip sl = [] →
    Performs (.dispatch ⟨sl, errs⟩) s (fun d =>
      kvFind d.frames f.id = some { f with waited := true, rqWait := f.rqWait || f.two } ∧
      Chip.get d (Frame.prs f) 0x2D0 = Chip.get s.chip (Frame.prs f) 0x2D0 + 1 ∧
      (f.two = true → f.rqWait = false → Chip.get d (Frame.glz f) 0x0C0 = Chip.get s.chip (Frame.glz f) 0x0C0 + 1))) ∧
  (∀ (s : State) (n : Fin 512) (bs : List Byte) (code : Option Nat) (corr : Nat) (errs : List LookupErr) (ecc : Option BusErr),
    s.ready (cxOf n) →
    (rxOpen s.chip n = false → exec (.parseBytesArrive n ⟨bs, code, corr, errs, ecc⟩) s =
      .next { s with chip := { s.chip.clear with latent := s.chip.latent ++ errs } }) ∧
    (rxOpen s.chip n = true → (Chip.port s.chip n).rx = none →
      Performs (.parseBytesArrive n ⟨bs, code, corr, errs, ecc⟩) s (fun d =>
        (Chip.port d n).rx = some {
          kind := if Chip.isUp s.chip n && portQuiesce s.chip n then .drain else .early
          bytes := rxNext s.chip n 0 bs, cfg := d.regs, code := code, corr := corr, ecc := ecc } ∧
        (corr = 0 → ecc = none → OnlyPort s.chip { d with latent := s.chip.latent } n [regKey (prtPage n) 0x0A0]))) ∧
    (∀ r : RxProg, rxOpen s.chip n = true → (Chip.port s.chip n).rx = some r → (∀ id, r.kind ≠ .presented id) →
      Performs (.parseBytesArrive n ⟨bs, code, corr, errs, ecc⟩) s (fun d =>
        (Chip.port d n).rx = some { r with
          bytes := r.bytes ++ rxNext s.chip n r.bytes.length bs, code := earlier r.code code, corr := r.corr + corr
          ecc := firstErr r.ecc ecc } ∧
        (corr = 0 → ecc = none → OnlyPort s.chip { d with latent := s.chip.latent } n [])))) ∧
  (∀ (s : State) (n : Fin 512) (bs all more : List Byte) (r : RxProg) (f f1 : Frame), s.ready (cxOf n) →
    rxOpen s.chip n = true → (Chip.port s.chip n).rx = some r → r.kind = .presented (some f.id) → r.code = none → r.ecc = none →
    kvFind s.chip.frames f.id = some f → f.ended = false → f.host = none →
    all = r.bytes ++ rxNext s.chip n r.bytes.length bs → all.length ≤ maxLen { s.chip with regs := r.cfg } n →
    more = all.drop f.bytes.length →
    f1 = { f with ecc := f.ecc || decide (r.corr > 0), bytes := f.bytes ++ more } →
    (f.loc = .released → more ≠ [] → Performs (.parseBytesArrive n ⟨bs, none, 0, [], none⟩) s (fun d =>
      d.out = [.handoffMore f.pg f.id (nextSlot s.clk s.chip f.pg) more] ∧ (Chip.port d n).rx = some { r with bytes := all } ∧
      kvFind d.frames f.id = some { f1 with sent := f1.bytes.length } ∧
      OnlyPort s.chip { d with frames := s.chip.frames, bus := s.chip.bus, relSlot := s.chip.relSlot } n [])) ∧
    (f.loc = .parsing → s.chip.latent = [] → segmentsOf (setFrame f1 s.chip) f.pg ≤ 1024 →
      Performs (.parseBytesArrive n ⟨bs, none, 0, [], none⟩) s (fun d => ∃ c1 : Chip, d = parseFrame s.clk f1 c1 ∧
        kvFind c1.frames f.id = some f1 ∧ (Chip.port c1 n).rx = some { r with bytes := all } ∧
        OnlyPort s.chip { c1 with frames := s.chip.frames, bus := s.chip.bus } n [])))

/-- The head of a recirculation queue re-enters where its PG's dispatch queue has room and the bus a free segment, or waits and
counts once (R22, R212). The reorder buffer releases a ready frame
with its metadata word; a pending place past the timeout expires and counts (R39, R198, R199). -/
def Obligations.FramesReenterAndAreReleased : Prop :=
  (∀ (s : State) (pg : Fin 64) (f : Frame) (fs : List Frame), s.ready (cxOfPg pg) →
    recircQueue s.chip pg.val = f :: fs →
    (queueLen s.chip pg.val < 8 → busFree s.chip pg.val = true → Performs (.recircReentry pg) s (fun d =>
      kvFind d.frames f.id = some { f with loc := .reentered, enq := s.chip.nextOrder, waited := false } ∧
      d.nextOrder = s.chip.nextOrder + 1 ∧
      OnlyRegs s.chip { d with frames := s.chip.frames, nextOrder := s.chip.nextOrder, bus := s.chip.bus } [])) ∧
    (8 ≤ queueLen s.chip pg.val ∨ busFree s.chip pg.val = false → Performs (.recircReentry pg) s (fun d =>
      kvFind d.frames f.id = some { f with rqWait := true } ∧
      (f.rqWait = false → Chip.get d (Frame.glz f) 0x0C0 = Chip.get s.chip (Frame.glz f) 0x0C0 + 1) ∧
      OnlyRegs s.chip { d with frames := s.chip.frames } (if f.rqWait then [] else [regKey (Frame.glz f) 0x0C0])))) ∧
  (∀ (s : State) (pg : Fin 64) (f : Frame), s.ready (cxOfPg pg) → s.chip.frames = [(f.id, f)] → f.pg = pg.val →
    f.placed = true → f.sequ < 9 → f.ended = false → f.slow = none →
    (f.loc = .ready → kvGet 0 s.chip.relSlot pg.val < 4 * (Clk.abs s.clk + 1) →
      Performs (.reorderRelease pg) s (fun d => d.out =
          [.handoff pg.val f.id (nextSlot s.clk s.chip pg.val) (metadataWord f) f.bytes] ∧
        kvFind d.frames f.id = some { f with
          loc := .released, placed := false, fate := some 0, sent := f.bytes.length } ∧
        OnlyRegs s.chip { d with frames := s.chip.frames, relSlot := s.chip.relSlot } [])) ∧
    (f.loc ≠ .ready → f.loc ≠ .gone → f.since + robTimeout s.chip f ≤ Clk.abs s.clk →
      Performs (.reorderTimeout pg) s (fun d => kvFind d.frames f.id = some { f with placed := false, expired := true } ∧
        Chip.get d (Frame.prs f) (0x240 + 8 * (pg.val % 8)) =
          Chip.get s.chip (Frame.prs f) (0x240 + 8 * (pg.val % 8)) + 1 ∧
        Chip.flag d (Frame.prs f) 0x010 9 = true ∧
        OnlyRegs s.chip { d with frames := s.chip.frames }
          ([0x010, 0x240 + 8 * (pg.val % 8)].map (regKey (Frame.prs f))))))

/-! Sessions, streams and meters. -/

/-- Keyed operations act at the command and report at their completion (R231, R233, R239): INSERT finds the key there, or
places the entry in a free row, or in one freed by moves or an eviction (R232), or ends FULL; DELETE clears its VALID, FIND
names its row, UPDATE rewrites it in place; DELETE and UPDATE of a key that is not there end NOT_FOUND; another code is
BAD_OP. That they act on the table at the command is the model's (assumption 14, DEDUCED). -/
def Obligations.KeyedOperationsAct : Prop :=
  ∀ (s : State) (x : Cx), (Chip.sesOf s.chip x).kop = none → s.chip.latent = [] →
    (s.writable (sesPage x) → engineHeld s.chip x = false →
      (∀ (ev : Bool) (o : KeyOp) (r : Nat), o = kopOperands s.chip x 1 ev → findKey s.chip x o.key o.profile = some r →
        Writes (.kopInsert x ev) s (fun d => (Chip.sesOf d x).kop = some ⟨none, 1, none, false⟩ ∧
          Chip.flag d (sesPage x) 0x144 0 = true ∧
          OnlyRegs s.chip { d with ses := s.chip.ses } ([0x13C, 0x144].map (regKey (sesPage x))))) ∧
      (∀ (ev : Bool) (o : KeyOp) (r : Nat), o = kopOperands s.chip x 1 ev → findKey s.chip x o.key o.profile = none →
        (candidates o.key o.profile).find? (sesFree s.chip x) = some r →
        Writes (.kopInsert x ev) s (fun d => (Chip.sesOf d x).kop = some ⟨none, 0, some r, false⟩ ∧
          Chip.flag d (sesPage x) 0x144 0 = true ∧
          d.mem = (Chip.setRow s.chip (sesPage x) 0 r 0 (newEntry o 0 0)).mem ∧
          Chip.get d (sesPage x) 0x1E0 = Chip.get s.chip (sesPage x) 0x1E0 + 1 ∧
          OnlyRegs s.chip { d with ses := s.chip.ses, mem := s.chip.mem, dirty := s.chip.dirty }
            ([0x13C, 0x144, 0x1E0].map (regKey (sesPage x))))) ∧
      (∀ (ev : Bool) (o : KeyOp), o = kopOperands s.chip x 1 ev → findKey s.chip x o.key o.profile = none →
        (∀ r, (placeFor s.clk x o (Chip.clear s.chip)).2 = some r → Writes (.kopInsert x ev) s (fun d =>
          (Chip.sesOf d x).kop = some ⟨none, 0, some r, false⟩ ∧ Chip.flag d (sesPage x) 0x144 0 = true ∧
          Chip.get d (sesPage x) 0x1E0 = Chip.get s.chip (sesPage x) 0x1E0 + 1)) ∧
        ((placeFor s.clk x o (Chip.clear s.chip)).2 = none → Writes (.kopInsert x ev) s (fun d =>
          (Chip.sesOf d x).kop = some ⟨none, 3, none, false⟩ ∧ Chip.flag d (sesPage x) 0x144 0 = true ∧
          Chip.get d (sesPage x) 0x1E8 = Chip.get s.chip (sesPage x) 0x1E8 + 1 ∧
          Chip.flag d (sesPage x) 0x010 9 = true))) ∧
      (∀ (i : Instr) (op : Nat), (i = .kopDelete x ∧ op = 2) ∨ (i = .kopUpdate x ∧ op = 4) →
        (∀ o : KeyOp, o = kopOperands s.chip x op false → findKey s.chip x o.key o.profile = none →
          Writes i s (fun d => (Chip.sesOf d x).kop = some ⟨none, 2, none, false⟩ ∧
            Chip.flag d (sesPage x) 0x144 0 = true ∧
            OnlyRegs s.chip { d with ses := s.chip.ses } ([0x13C, 0x144].map (regKey (sesPage x)))))) ∧
      (∀ (o : KeyOp) (r : Nat), o = kopOperands s.chip x 2 false → findKey s.chip x o.key o.profile = some r →
        Writes (.kopDelete x) s (fun d => (Chip.sesOf d x).kop = some ⟨none, 0, some r, false⟩ ∧
          d.mem = (clearValid (sesPage x) 0 r 104 s.chip).mem ∧
          Chip.get d (sesPage x) 0x398 = Chip.get s.chip (sesPage x) 0x398 + 1 ∧
          OnlyRegs s.chip { d with ses := s.chip.ses, mem := s.chip.mem, dirty := s.chip.dirty }
            ([0x13C, 0x144, 0x398].map (regKey (sesPage x))))) ∧
      (∀ o : KeyOp, o = kopOperands s.chip x 3 false → Writes (.kopFind x) s (fun d =>
        (Chip.sesOf d x).kop = some (match findKey s.chip x o.key o.profile with
          | some r => ⟨none, 0, some r, false⟩
          | none => ⟨none, 2, none, false⟩) ∧
        OnlyRegs s.chip { d with ses := s.chip.ses } ([0x13C, 0x144].map (regKey (sesPage x))))) ∧
      (∀ (o : KeyOp) (r : Nat), o = kopOperands s.chip x 4 false → findKey s.chip x o.key o.profile = some r →
        Memory.wf s.chip.mem = true →
        Writes (.kopUpdate x) s (fun d => (Chip.sesOf d x).kop = some ⟨none, 0, some r, false⟩ ∧
          Chip.rowNat d (sesPage x) 0 r 40 8 = o.seq % 2 ^ 64 ∧
          (∀ a, a < rowKey (sesPage x) 0 r ∨ rowKey (sesPage x) 0 r + 128 ≤ a → memGet d.mem a = memGet s.chip.mem a) ∧
          OnlyRegs s.chip { d with ses := s.chip.ses, mem := s.chip.mem, dirty := s.chip.dirty }
            ([0x13C, 0x144].map (regKey (sesPage x)))))) ∧
    (∀ op : Fin 8, s.writable (sesPage x) → op.val ∉ [1, 2, 3, 4] → Writes (.kopBadOp x op) s (fun d =>
      Chip.fld d (sesPage x) 0x144 7 4 = 6 ∧ Chip.flag d (sesPage x) 0x144 0 = false ∧
      Chip.flag d (sesPage x) 0x010 8 = true ∧
      OnlyRegs s.chip d ([0x010, 0x13C, 0x140, 0x144].map (regKey (sesPage x)))))

/-- A keyed operation that ran reports its status and row (R233); the insertion engine inserts the oldest learn key (R235); a
committed batch's clean-up frees it (R236); a silent RECOVER stream takes any sequence next (R374). -/
def Obligations.SessionUnitFinishesItsWork : Prop :=
  (∀ (s : State) (x : Cx) (st : Nat) (row : Option Nat), s.ready x → st < 16 → (∀ r, row = some r → r < 2 ^ 17) →
    (Chip.sesOf s.chip x).kop = some ⟨none, st, row, false⟩ → Performs (.kopComplete x) s (fun d =>
      (Chip.sesOf d x).kop = none ∧ Chip.fld d (sesPage x) 0x144 7 4 = st ∧ Chip.flag d (sesPage x) 0x144 0 = false ∧
      Chip.flag d (sesPage x) 0x140 31 = row.isSome ∧ (∀ r, row = some r → Chip.fld d (sesPage x) 0x140 16 0 = r) ∧
      Chip.flag d (sesPage x) 0x010 8 = true ∧
      OnlyRegs s.chip { d with ses := s.chip.ses } ([0x010, 0x140, 0x144].map (regKey (sesPage x))))) ∧
  (∀ (s : State) (x : Cx) (key : List Byte) (prof : Nat) (rest : List (List Byte × Nat)), s.ready x →
    (Chip.sesOf s.chip x).learn = (key, prof) :: rest → (Chip.sesOf s.chip x).kop = none → engineHeld s.chip x = false →
    s.chip.latent = [] → (∀ r, findKey s.chip x key prof = some r → Performs (.learnInsert x) s (fun d =>
      (Chip.sesOf d x).learn = rest ∧ Chip.get d (sesPage x) 0x390 = Chip.get s.chip (sesPage x) 0x390 + 1 ∧
      OnlyRegs s.chip { d with ses := s.chip.ses } [regKey (sesPage x) 0x390])) ∧
    (∀ r, findKey s.chip x key prof = none → (candidates key prof).find? (sesFree s.chip x) = some r →
      Performs (.learnInsert x) s (fun d =>
        (Chip.sesOf d x).learn = rest ∧ Chip.get d (sesPage x) 0x1E0 = Chip.get s.chip (sesPage x) 0x1E0 + 1 ∧
        (∃ o : KeyOp, o.key = key ∧ o.profile = prof ∧ o.seq = 0 ∧
          d.mem = (Chip.setRow s.chip (sesPage x) 0 r 0 (newEntry o 0 0)).mem) ∧
        OnlyRegs s.chip { d with ses := s.chip.ses, mem := s.chip.mem, dirty := s.chip.dirty }
          [regKey (sesPage x) 0x1E0]))) ∧
  (∀ (s : State) (x : Cx) (b : Fin 4), s.ready x → b.val ≠ 0 → batchLive s.chip x b.val = true → s.chip.latent = [] →
    Performs (.batchCleanupDone x b) s (fun d => batchLive d x b.val = false ∧
      Chip.flag d (sesPage x) 0x048 (4 + b.val) = false ∧
      (∀ a, a < rowKey (sesPage x) 0 0 ∨ rowKey (sesPage x) 0 0x40000 ≤ a → memGet d.mem a = memGet s.chip.mem a) ∧
      OnlyRegs s.chip { d with mem := s.chip.mem, dirty := s.chip.dirty } [regKey (sesPage x) 0x048])) ∧
  (∀ (s : State) (n : Fin 16384), s.powered → s.chip.latent = [] → streamMode s.chip n.val = 3 → Chip.rowNat s.chip .cap 0 n.val 12 2 ≠ 0 →
    ((Chip.rowNat s.chip .cap 0 n.val 12 2 * 1000000 * 65536 : Nat) : Int) ≤
      stampDiff (Clk.stamp s.clk) (kvGet {} s.chip.recov n.val).last →
    Performs (.streamResetTimer n) s (fun d =>
      d.mem = (Chip.setRowNat s.chip .cap 0 n.val 16 8 (setBits (streamCtl s.chip n.val) 5 5 1)).mem ∧
      OnlyRegs s.chip { d with mem := s.chip.mem } []))

/-- Stage 8 takes the frames that want nothing of it on to stage 9, counts those that pass it by while it does not accept, and
gives a lookup to one that asks in a clock with room (R225, R230); their clock's end brings stage 9's decision (R247). MODIFY
refills a valid meter and installs its rates and sizes, and ends with its status (R250): that it acts on the table at the
command is the model's (assumption 14, DEDUCED). -/
def Obligations.LookupsAndMeterModify : Prop :=
  (∀ (s : State) (x : Cx) (f : Frame), s.ready x → kvFind s.chip.frames f.id = some f → f.loc = .stage8 →
    Frame.cxOf f = x →
    (∀ errs, f.sesProf = none → f.meter = none → f.expired = false →
      Performs (.sessionLookup x [f.id] errs) s (fun d => kvFind d.frames f.id = some { f with loc := .stage9 false } ∧
        d.latent = s.chip.latent ++ errs ∧
        OnlyRegs s.chip { d with frames := s.chip.frames, ses := s.chip.ses, latent := s.chip.latent } [])) ∧
    (∀ errs, sesWant s.chip f = .bypass → Performs (.sessionLookup x [f.id] errs) s (fun d =>
      Chip.get d (sesPage x) 0x190 = Chip.get s.chip (sesPage x) 0x190 + 1)) ∧
    (∀ prof pr seq, sesWant s.chip f = .lookup prof pr seq → (Chip.sesOf s.chip x).clock ≠ Clk.abs s.clk →
      s.chip.latent = [] → Performs (.sessionLookup x [f.id] []) s (fun d => ∃ c1 : Chip,
        d = toStage9 (sesGranted s.clk x prof seq f c1) ∧ (Chip.sesOf c1 x).used = 1 ∧
        OnlyRegs s.chip { c1 with ses := s.chip.ses } []))) ∧
  (∀ (s : State) (x : Cx) (f : Frame) (drop : Bool), s.ready x → s.pending = [] → s.clk.clock < 1599 →
    s.chip.swaps = [] → s.chip.drops = [] → s.chip.bus = [] → s.chip.chk = [] →
    (∀ y : Cx, (Chip.jrnOf s.chip y).pend = [] ∧ (y ≠ x → atStage9 s.chip y = [])) →
    f.loc = .stage9 drop → atStage9 s.chip x = [f] → ∃ t, step s = .next t ∧ t.clk.clock = s.clk.clock + 1 ∧
      t.pending = [] ∧
      (∀ a, rowKey (mtrPage x) 0 0 ≤ a → a < rowKey (mtrPage x) 2 0 →
        memGet t.chip.mem a = memGet (afterSession s.clk (Chip.clear s.chip, f, drop)).mem a) ∧
      (kvFind t.chip.frames f.id).map (·.loc) =
        (kvFind (afterSession s.clk (Chip.clear s.chip, f, drop)).frames f.id).map (·.loc)) ∧
  (∀ (s : State) (x : Cx), s.writable (mtrPage x) → kvFind s.chip.mtrMod x.val = none → s.chip.latent = [] →
    (meterValid s.chip x (Chip.fld s.chip (mtrPage x) 0x040 15 0) = false → Writes (.modify x) s (fun d =>
      kvFind d.mtrMod x.val = some ⟨2, false⟩ ∧ Chip.flag d (mtrPage x) 0x060 0 = true ∧
      OnlyRegs s.chip { d with mtrMod := s.chip.mtrMod } ([0x05C, 0x060].map (regKey (mtrPage x))))) ∧
    (meterValid s.chip x (Chip.fld s.chip (mtrPage x) 0x040 15 0) = true → Writes (.modify x) s (fun d =>
      kvFind d.mtrMod x.val = some ⟨0, false⟩ ∧ Chip.flag d (mtrPage x) 0x060 0 = true ∧
      (∃ m old : Meter, old = Meter.refill (getMeter s.chip x (Chip.fld s.chip (mtrPage x) 0x040 15 0)) (Clk.abs s.clk) ∧
        d.mem = (Chip.setRow s.chip (mtrPage x) 0 (Chip.fld s.chip (mtrPage x) 0x040 15 0) 0 (meterBytes m)).mem ∧
        m.cir = Chip.fld s.chip (mtrPage x) 0x044 31 0 ∧ m.pir = Chip.fld s.chip (mtrPage x) 0x048 31 0 ∧
        m.cbs = Chip.fld s.chip (mtrPage x) 0x050 23 0 ∧ m.pbs = Chip.fld s.chip (mtrPage x) 0x050 55 32 ∧
        m.tc = min old.tc (m.cbs * 2 ^ 24) ∧ m.tp = min old.tp (m.pbs * 2 ^ 24) ∧ m.last = Clk.abs s.clk) ∧
      OnlyRegs s.chip { d with mtrMod := s.chip.mtrMod, mem := s.chip.mem, dirty := s.chip.dirty }
        ([0x05C, 0x060].map (regKey (mtrPage x)))))) ∧
  (∀ (s : State) (x : Cx) (st : Nat), s.ready x → kvFind s.chip.mtrMod x.val = some ⟨st, false⟩ → st < 16 →
    Performs (.modifyComplete x) s (fun d => d.mtrMod = kvErase s.chip.mtrMod x.val ∧
      Chip.fld d (mtrPage x) 0x060 7 4 = st ∧ Chip.flag d (mtrPage x) 0x060 0 = false ∧
      Chip.flag d (mtrPage x) 0x010 8 = true ∧
      OnlyRegs s.chip { d with mtrMod := s.chip.mtrMod } ([0x010, 0x060].map (regKey (mtrPage x)))))

/-! The scheduler, the transmit path and door release. -/

/-- A notice is counted, and joins its queue, marked where its colour and the depth say so, unless an owed head of the queue
goes at once (R43, R270, R271, R280). A port that may decide frees a marked head (R271), or else takes the host frame at the
head of its host queue (R328), or else requests the copy that its nodes choose: it leaves its queue, counts and joins the
port's transmit path (R257, R258, R272). -/
def Obligations.NoticesQueueAndDecisionsRequest : Prop :=
  (∀ (s : State) (x : Cx) (queue : Fin 65536) (len : Fin 16384) (colour : Fin 4) (q depth : Nat), s.ready x →
    q = 65536 * x.val + queue.val → depth = ((noticesOf s.chip q).map (·.len)).sum → s.chip.latent = [] →
    (qValid s.chip q = false → Performs (.enqueueNotice x queue len colour) s (fun d =>
      (∃ m, noticesOf d q = noticesOf s.chip q ++ [⟨len.val, colour.val, m⟩]) ∧
      Chip.get d (whlPage x) 0x098 = Chip.get s.chip (whlPage x) 0x098 + 1 ∧
      Chip.get d (whlPage x) 0x0A0 = Chip.get s.chip (whlPage x) 0x0A0 + 1 ∧
      OnlyRegs s.chip { d with notices := s.chip.notices, mem := s.chip.mem } ([0x098, 0x0A0].map (regKey (whlPage x))))) ∧
    (qValid s.chip q = true → Performs (.enqueueNotice x queue len colour) s (fun d =>
      Chip.get d (whlPage x) 0x098 = Chip.get s.chip (whlPage x) 0x098 + 1 ∧
      (kvGet 0 s.chip.owed q = 0 → ∃ m, noticesOf d q = noticesOf s.chip q ++ [⟨len.val, colour.val, m⟩] ∧
        (m = true ↔ (colour.val = 1 ∧ qEntry s.chip q 24 2 ≠ 0 ∧ qEntry s.chip q 24 2 * 256 ≤ depth) ∨
          (colour.val = 2 ∧ qEntry s.chip q 26 2 ≠ 0 ∧ qEntry s.chip q 26 2 * 256 ≤ depth)))))) ∧
  (∀ (s : State) (n : Fin 512), s.ready (cxOf n) → Chip.modeAt s.chip n ≠ 0 → Chip.isUp s.chip n = true →
    reqRoom s.clk s.chip n = true → owedQueue s.chip n = none → portHeld s.chip n = false →
    lateMember s.clk s.chip n = none → portMay s.clk s.chip n = true → s.chip.latent = [] →
    (∀ q, markedQueue s.chip n = some q → qPort s.chip q = n → Performs (.dequeueDecision n) s (fun d =>
      Chip.get d (schPage n) 0x1C0 = Chip.get s.chip (schPage n) 0x1C0 + 1 ∧
      d.drops = s.chip.drops ++ [(Clk.abs s.clk + 4, q / 65536, q % 65536, portPos n,
        (Chip.schedOf s.chip (cxOf n)).nextTag)] ∧
      d.notices = (setNotices q ((noticesOf s.chip q).drop 1) s.chip).notices)) ∧
    (∀ h hs, markedQueue s.chip n = none → hostHead s.clk s.chip n = some (h, hs) →
      Performs (.dequeueDecision n) s (fun d => d.hostQ = kvPut s.chip.hostQ n.val hs ∧
        ∃ f : TxFrame, (Chip.port d n).tx = (Chip.port s.chip n).tx ++ [f] ∧ f.kind = .host h ∧
          f.len = hostLen s.chip n h ∧ f.cls = h.cls ∧ f.reqAt = Clk.abs s.clk + 4 ∧ f.bytes = h.bytes)) ∧
    (∀ (c2 : Chip) (q cls : Nat) (h : Notice) (rest : List Notice), markedQueue s.chip n = none →
      hostHead s.clk s.chip n = none → portPick s.clk (Chip.clear s.chip) n = some (q, c2) → qPort c2 q = n →
      cls = qCls c2 q → noticesOf c2 q = h :: rest →
      Performs (.dequeueDecision n) s (fun d => d.notices = (setNotices q rest c2).notices ∧
        Chip.get d (schPage n) (0x140 + 8 * cls) = Chip.get c2 (schPage n) (0x140 + 8 * cls) + 1 ∧
        ∃ f : TxFrame, (Chip.port d n).tx = (Chip.port c2 n).tx ++ [f] ∧ f.kind = .queue q ∧ f.len = h.len ∧
          f.cls = cls ∧ f.reqAt = Clk.abs s.clk + 4 ∧ f.tag = (Chip.schedOf c2 (cxOf n)).nextTag)))

/-- A response gives the requested frame its first segment, or takes it away where it is EMPTY or its port has left UP since
(R45, R46, R95); one that comes late counts as that (R46); later segments join their frame (R45), edited with it past stage 3
(R168). An EMPTY leaves the queue's depth as the notice taken at the request left it: the model's choice (assumption 123,
DESIGN CHOICE). Stage 3 edits the oldest frame of a port that receives no remote fault: a short host frame without padding and a
frame grown too long are discarded and counted (R111, R112); another is placed on the line and starts with the egress stamp of
its place (R162, R164), with its R-TAG and, once its header is there, its PTP fields written (R168, R373), and a queue's copy
records its delay (R282). -/
def Obligations.ResponsesAndEgressEdit : Prop :=
  (∀ (s : State) (x : Cx) (tag : Fin 1024) (n : Fin 512) (f : TxFrame), s.ready x →
    findTag s.chip x tag.val = some (n, f) → (Chip.port s.chip n).tx.find? (TxFrame.isTag tag.val) = some f →
    (∀ w bs, f.dead = false → Performs (.dequeueResponse x tag (.first w bs)) s (fun d =>
      { f with
        arrived := some (Clk.abs s.clk), word := w, bytes := bs
        late := f.late || (lateResponse s.clk f && f.group.isSome) } ∈ (Chip.port d n).tx ∧
      (Chip.port d n).tx.length = (Chip.port s.chip n).tx.length ∧
      (lateResponse s.clk f = true →
        Chip.get d (onePage x .cpx) 0x100 = Chip.get s.chip (onePage x .cpx) 0x100 + 1) ∧
      (lateResponse s.clk f = false → OnlyPort s.chip { d with bus := s.chip.bus } n []))) ∧
    (∀ w bs, f.dead = true → Performs (.dequeueResponse x tag (.first w bs)) s (fun d =>
      (Chip.port d n).tx.length + 1 = (Chip.port s.chip n).tx.length ∧
      Chip.get d (prtPage n) 0x440 = Chip.get s.chip (prtPage n) 0x440 + 1)) ∧
    Performs (.dequeueResponse x tag .empty) s (fun d =>
      (Chip.port d n).tx.length + 1 = (Chip.port s.chip n).tx.length ∧
      Chip.get d (onePage x .cpx) 0x108 = Chip.get s.chip (onePage x .cpx) 0x108 + 1 ∧
      (lateResponse s.clk f = true →
        Chip.get d (onePage x .cpx) 0x100 = Chip.get s.chip (onePage x .cpx) 0x100 + 1) ∧
      (lateResponse s.clk f = false → OnlyPort s.chip d n [regKey (onePage x .cpx) 0x108]))) ∧
  (∀ (s : State) (x : Cx) (tag : Fin 1024) (n : Fin 512) (f : TxFrame) (bs : List Byte), s.ready x →
    tagFrame s.chip x tag.val = some n →
    (Chip.port s.chip n).tx.find? (TxFrame.isOpen tag.val) = some f →
    (f.edited = false → Performs (.dequeueResponse x tag (.more bs)) s (fun d =>
      { f with bytes := f.bytes ++ bs } ∈ (Chip.port d n).tx ∧
      (Chip.port d n).tx.length = (Chip.port s.chip n).tx.length ∧ OnlyPort s.chip { d with bus := s.chip.bus } n [])) ∧
    (∀ a : PtpArgs, f.edited = true → a = ptpArgs (Chip.underTx s.chip f) s.clk n f f.stamp →
      Performs (.dequeueResponse x tag (.more bs)) s (fun d =>
        (∃ g ∈ (Chip.port d n).tx, g.stamp = f.stamp ∧ g.tag = f.tag ∧ g.bytes =
          if f.ptp && ptpReady a.ctl false (f.bytes ++ bs) then (ptpEdit a (f.bytes ++ bs)).1 else f.bytes ++ bs) ∧
        (Chip.port d n).tx.length = (Chip.port s.chip n).tx.length ∧
        (f.ptp = false → f.journals = false → OnlyPort s.chip { d with bus := s.chip.bus } n [])))) ∧
  (∀ (s : State) (n : Fin 512) (i : EditInput) (f : TxFrame) (q : Chip) (tagged : List Byte) (len : Nat),
    s.ready (cxOf n) → nextEdit s.chip n = some f → editDue s.clk f (i.whole || hosted f) = true →
    Chip.flag s.chip (prtPage n) 0x04C 6 = false → s.chip.latent = [] →
    q = Chip.underTx s.chip f → tagged = editTagged q n f i →
    len = (if i.whole || hosted f then tagged.length else f.len + (tagged.length - (editHeld q n f i).length)) →
    (editRunt q n f = true → Performs (.egressEdit n i) s (fun d =>
      (Chip.port d n).tx.length + 1 = (Chip.port s.chip n).tx.length ∧
      Chip.get d (prtPage n) 0x4F0 = Chip.get s.chip (prtPage n) 0x4F0 + 1)) ∧
    (editRunt q n f = false → 16383 < len → Performs (.egressEdit n i) s (fun d =>
      (Chip.port d n).tx.length + 1 = (Chip.port s.chip n).tx.length ∧
      Chip.get d (prtPage n) 0x4E8 = Chip.get s.chip (prtPage n) 0x4E8 + 1 ∧
      OnlyPort s.chip d n [regKey (prtPage n) 0x4E8])) ∧
    (∀ (l : Launch) (stamp : Nat) (bs : List Byte), editRunt q n f = false → len ≤ 16383 →
      l = place q (Chip.port s.chip n) n (txReady s.clk q n f.cur) len (f.goal.getD 0) →
      stamp = bitStamp s.clk s.chip.time q n l.bit →
      bs = (if ptpEvent f tagged && ptpReady (ptpArgs q s.clk n f stamp).ctl (i.whole || hosted f) tagged
        then (ptpEdit (ptpArgs q s.clk n f stamp) tagged).1 else tagged) →
      Performs (.egressEdit n i) s (fun d => (Chip.port d n).lastStamp = stamp ∧
        (Chip.port d n).tx.length = (Chip.port s.chip n).tx.length ∧
        (∃ g ∈ (Chip.port d n).tx, g.edited = true ∧ g.bytes = bs ∧ g.len = len ∧
          g.launch = l.clock (Chip.modeAt q n) ∧ g.stamp = stamp) ∧
        (Chip.lpbk s.chip n ≠ 1 → .txStart n.val bs stamp ∈ d.out) ∧
        (∀ qn, f.kind = .queue qn →
          (kvGet ⟨0, 0, 0⟩ d.tel qn).last = delayNs (stampDiff stamp (extendShort s.clk (bits f.word 255 192)))) ∧
        (i.ecc = none → i.corr = 0 → f.group = none → f.journals = false → bit f.word 9 = false →
          ptpEvent f tagged = false →
          (Chip.port s.chip n).probeTx = false → Chip.liveFlag q (telPage (cxOf n)) 0x040 1 = false →
          OnlyPort s.chip { d with tel := s.chip.tel } n []))))

/-- A due entry of the fine wheel fires: its node is refilled and eligible; one past its slot counts late (R265). Maintenance
moves a due entry to the fine wheel within its window and its share of the turn, and does nothing after the window (R24, R266).
Sampling writes the turn's 64 rows, once in its window (R24, R282). -/
def Obligations.WheelAndTelemetryRun : Prop :=
  (∀ (s : State) (x : Cx) (slot i : Nat) (n : Node), s.ready x → (Chip.schedOf s.chip x).fine = [(slot, i)] →
    (Chip.schedOf s.chip x).fired.1 ≠ Clk.abs s.clk → 16 * slot ≤ Clk.abs s.clk →
    n = refillNode s.chip i (Clk.abs s.clk) { getNode s.chip i with onWheel := false, clamped := false } →
    eligibleAt (nodeCfg s.chip i) n (Clk.abs s.clk) ≤ Clk.abs s.clk →
    (Clk.abs s.clk ≤ 16 * slot + 15 → Performs (.wheelSlotFire x) s (fun d => (Chip.schedOf d x).fine = [] ∧
      d.mem = (setNode i n s.chip).mem ∧ OnlyRegs s.chip { d with sched := s.chip.sched, mem := s.chip.mem } [])) ∧
    (16 * slot + 15 < Clk.abs s.clk → Performs (.wheelSlotFire x) s (fun d => (Chip.schedOf d x).fine = [] ∧
      d.mem = (setNode i n s.chip).mem ∧ Chip.get d (whlPage x) 0x088 = Chip.get s.chip (whlPage x) 0x088 + 1 ∧
      Chip.flag d (whlPage x) 0x010 8 = true ∧
      OnlyRegs s.chip { d with sched := s.chip.sched, mem := s.chip.mem } ([0x010, 0x088].map (regKey (whlPage x)))))) ∧
  (∀ (s : State) (x : Cx) (slot i f : Nat), s.ready x → (Chip.schedOf s.chip x).coarse = [(slot, i)] →
    s.clk.clock < 1536 → movedIn s.clk s.chip x < 2048 →
    slot ≤ Clk.abs s.clk / 65536 → (getNode s.chip i).clamped = false →
    f = max (((getNode s.chip i).e + 15) / 16) (Clk.abs s.clk / 16) → f - Clk.abs s.clk / 16 < 4096 →
    Performs (.wheelMaintenance x) s (fun d => (Chip.schedOf d x).coarse = [] ∧
      (Chip.schedOf d x).fine = (Chip.schedOf s.chip x).fine ++ [(f, i)] ∧
      (Chip.schedOf d x).moved = (s.clk.turn, movedIn s.clk s.chip x + 1) ∧
      OnlyRegs s.chip { d with sched := s.chip.sched } [])) ∧
  (∀ (s : State) (x : Cx), s.ready x → 1536 ≤ s.clk.clock →
    exec (.wheelMaintenance x) s = .next { s with chip := s.chip.clear } ∧
    exec (.telemetrySample x) s = .next { s with chip := s.chip.clear }) ∧
  (∀ (s : State) (x : Cx), s.ready x → sampleOwed s.clk s.chip x = true → 64 ≤ s.clk.clock → s.clk.clock < 1536 →
    Memory.wf s.chip.mem = true →
    Performs (.telemetrySample x) s (fun d => Chip.get d (telPage x) 0x088 = Chip.get s.chip (telPage x) 0x088 + 64 ∧
      (∀ i < 64, ∀ r, r = 64 * (s.clk.turn % 1024) + i →
        Chip.rowNat d (telPage x) 0 r 8 4 = (noticesOf s.chip (65536 * x.val + r)).length % 2 ^ 32) ∧
      (∀ a, a < rowKey (telPage x) 0 (64 * (s.clk.turn % 1024)) ∨ rowKey (telPage x) 0 (64 * (s.clk.turn % 1024) + 64) ≤ a →
        memGet d.mem a = memGet s.chip.mem a) ∧
      sampleOwed s.clk d x = false ∧
      OnlyRegs s.chip { d with mem := s.chip.mem, tel := s.chip.tel, sched := s.chip.sched } [regKey (telPage x) 0x088]))

/-- ARM makes its time CUR of an idle group or NEXT of a busy one, and is rejected for a bad time or a full NEXT (R274).
CANCEL empties NEXT and CUR while nothing is decided (R281). A command reaches both complexes (R273). A member whose due clock
has come, after the owner has moved the instant where blackouts hold it (R276), has its copy decided, or is late where it is not
ready, no request is left or another release is in its way (R44, R275, R278, R279); one past its due clock is late in either case (R280). A release whose members are all decided, or whose
window has passed, ends, counts each member it left as missed, and takes NEXT (R280). -/
def Obligations.DoorTimesAndReleases : Prop :=
  (∀ (s : State) (x : Cx) (g t : Nat), Memory.wf s.chip.mem = true → g = armGroup s.chip x →
       t = Chip.fld s.chip (dorPage x) 0x050 47 0 * 2 ^ 48 + Chip.fld s.chip (dorPage x) 0x058 47 0 →
       (s.writable (dorPage x) → Chip.fld s.chip (dorPage x) 0x058 47 0 / 65536 < 1000000000 →
         (grpState s.chip g = 0 → Writes (.arm x) s (fun d => grpState d g = 1 ∧ grp d g 0 12 = t ∧ grp d g 28 4 = 0 ∧
           Chip.door d g = {} ∧ Chip.fld d (dorPage x) 0x064 7 4 = 0 ∧ Chip.flag d (dorPage x) 0x064 0 = true ∧
           OnlyRegs s.chip { d with mem := s.chip.mem, doors := s.chip.doors } ([0x060, 0x064].map (regKey (dorPage x))))) ∧
         (grpState s.chip g ≠ 0 → grpFlag s.chip g 0 = false → Writes (.arm x) s (fun d =>
           grpState d g = grpState s.chip g ∧ grpFlag d g 0 = true ∧ grp d g 12 12 = t ∧
           Chip.fld d (dorPage x) 0x064 7 4 = 0 ∧ Chip.flag d (dorPage x) 0x064 0 = true ∧
           OnlyRegs s.chip { d with mem := s.chip.mem } ([0x060, 0x064].map (regKey (dorPage x))))) ∧
         (grpState s.chip g ≠ 0 → grpFlag s.chip g 0 = true → Writes (.arm x) s (fun d =>
           Chip.fld d (dorPage x) 0x064 7 4 = 1 ∧ Chip.flag d (dorPage x) 0x064 0 = false ∧
           Chip.get d (dorPage x) 0x0B8 = Chip.get s.chip (dorPage x) 0x0B8 + 1 ∧
           OnlyRegs s.chip d ([0x060, 0x064, 0x0B8].map (regKey (dorPage x)))))) ∧
       (s.writable (dorPage x) → 1000000000 ≤ Chip.fld s.chip (dorPage x) 0x058 47 0 / 65536 → Writes (.arm x) s (fun d =>
         Chip.fld d (dorPage x) 0x064 7 4 = 2 ∧ Chip.flag d (dorPage x) 0x064 0 = false ∧
         Chip.get d (dorPage x) 0x0B8 = Chip.get s.chip (dorPage x) 0x0B8 + 1 ∧
         OnlyRegs s.chip d ([0x060, 0x064, 0x0B8].map (regKey (dorPage x))))) ∧
       (s.writable (dorPage x) → Writes (.cancel x) s (fun d => grpFlag d g 0 = false ∧ grp d g 12 12 = 0 ∧
         (grpState s.chip g = 1 → (Chip.door s.chip g).done = [] → grpState d g = 0 ∧ grp d g 0 12 = 0) ∧
         (grpState s.chip g = 2 → grpState d g = 2) ∧ Chip.fld d (dorPage x) 0x064 7 4 = 0 ∧
         Chip.flag d (dorPage x) 0x064 0 = true ∧ Chip.get d (dorPage x) 0x0C0 = Chip.get s.chip (dorPage x) 0x0C0 + 1 ∧
         OnlyRegs s.chip { d with mem := s.chip.mem, doors := s.chip.doors } ([0x060, 0x064, 0x0C0].map (regKey (dorPage x))))) ∧
       (s.ready x → Performs (.dorCommandReached x) s (fun d => Chip.flag d (dorPage x) 0x064 0 = false ∧
         OnlyRegs s.chip d [regKey (dorPage x) 0x064]))) ∧
  ((∀ (s : State) (x : Cx) (queue : Fin 65536) (gr : Fin 1024), s.ready x →
       qGroup s.chip (65536 * x.val + queue.val) ≠ some gr.val →
       exec (.releaseDecision x queue gr) s = .next { s with chip := s.chip.clear }) ∧
     (∀ (s : State) (x : Cx) (queue : Fin 65536) (gr : Fin 1024) (q g fin : Nat) (c1 : Chip), s.ready x →
       s.chip.latent = [] → q = 65536 * x.val + queue.val → g = gr.val → qGroup s.chip q = some g → qValid s.chip q = true → grpState s.chip g ≠ 0 →
       (Chip.door s.chip g).done.contains q = false → (Chip.door s.chip g).late.contains q = false →
       memberDue (memberReady s.clk s.chip) s.clk s.chip g q ≠ .early → c1 = shiftInstant s.clk g (Chip.clear s.chip) →
       fin = (wireSlot s.clk c1 (qPort c1 q) ((noticesOf c1 q).headD ⟨0, 0, false⟩).len).2 →
       (∀ b, memberDue (memberReady s.clk c1) s.clk c1 g q = .now b → memberReady s.clk c1 q = true →
         reqFits s.clk c1 (qPort c1 q) 0 0 = true → doorBlocks s.clk c1 (qPort c1 q) (some g) fin = false →
         Performs (.releaseDecision x queue gr) s (fun d =>
           (Chip.door d g).done = (Chip.door s.chip g).done ++ [q] ∧
           (Chip.cur s.chip (qPort s.chip q) < 32 → ∀ o, o = (if trails s.chip g q then 0x0B0 else 0x088) →
             Chip.get d (dorPage x) o = Chip.get s.chip (dorPage x) o + 1) ∧
           (Chip.port d (qPort s.chip q)).relAt = some (Clk.abs s.clk) ∧
           ∃ f ∈ (Chip.port d (qPort s.chip q)).tx, f.kind = .queue q ∧ f.group = some g ∧
             f.late = decide (32 ≤ Chip.cur s.chip (qPort s.chip q)) ∧
             f.goal = (if trails s.chip g q then none else some b) ∧ f.reqAt = Clk.abs s.clk + 4)) ∧
       (∀ b, memberDue (memberReady s.clk c1) s.clk c1 g q = .now b →
         memberReady s.clk c1 q = false ∨ reqFits s.clk c1 (qPort c1 q) 0 0 = false ∨
           doorBlocks s.clk c1 (qPort c1 q) (some g) fin = true →
         Performs (.releaseDecision x queue gr) s (fun d =>
           Chip.door d g = { Chip.door s.chip g with late := (Chip.door s.chip g).late ++ [q] } ∧
           OnlyRegs c1 { d with doors := c1.doors } [])) ∧
       (memberDue (memberReady s.clk c1) s.clk c1 g q = .past → memberReady s.clk c1 q = true →
         reqRoom s.clk c1 (qPort c1 q) = true → doorBlocks s.clk c1 (qPort c1 q) (some g) fin = false →
         Performs (.releaseDecision x queue gr) s (fun d =>
           (Chip.door d g).done = (Chip.door s.chip g).done ++ [q] ∧ (Memory.wf s.chip.mem = true → grpFlag d g 2 = true) ∧
           Chip.get d (dorPage x) 0x090 = Chip.get s.chip (dorPage x) 0x090 + 1 ∧
           Chip.flag d (dorPage x) 0x010 8 = true ∧
           ∃ f ∈ (Chip.port d (qPort s.chip q)).tx, f.kind = .queue q ∧ f.group = some g ∧ f.late = true)) ∧
       (memberDue (memberReady s.clk c1) s.clk c1 g q = .past →
         memberReady s.clk c1 q = false ∨ reqRoom s.clk c1 (qPort c1 q) = false ∨
           doorBlocks s.clk c1 (qPort c1 q) (some g) fin = true →
         Performs (.releaseDecision x queue gr) s (fun d =>
           Chip.door d g = { Chip.door s.chip g with late := (Chip.door s.chip g).late ++ [q] } ∧
           OnlyRegs c1 { d with doors := c1.doors } []))) ∧
     (∀ (s : State) (g : Fin 1024) (q : Nat), s.ready (groupCx g.val) → s.chip.latent = [] → releaseOver s.clk s.chip g.val = true →
       (members s.chip g.val).filter (fun q => !(Chip.door s.chip g.val).done.contains q) = [q] →
       Performs (.releaseEnd g) s (fun d => Chip.door d g.val = {} ∧
         Chip.get d (dorPage (Fin.ofNat 2 (q / 65536))) 0x098 =
           Chip.get s.chip (dorPage (Fin.ofNat 2 (q / 65536))) 0x098 + 1 ∧
         Chip.flag d (dorPage (Fin.ofNat 2 (q / 65536))) 0x010 9 = true)) ∧
     (∀ (s : State) (g : Fin 1024), s.ready (groupCx g.val) → s.chip.latent = [] → Memory.wf s.chip.mem = true →
       releaseOver s.clk s.chip g.val = true →
       (members s.chip g.val).all (fun q => (Chip.door s.chip g.val).done.contains q) = true →
       Performs (.releaseEnd g) s (fun d => Chip.door d g.val = {} ∧
         Chip.get d (dorPage (groupCx g.val)) 0x080 = Chip.get s.chip (dorPage (groupCx g.val)) 0x080 + 1 ∧
         grp d g.val 48 8 = (grp s.chip g.val 48 8 + 1) % 2 ^ 64 ∧
         (grpFlag s.chip g.val 0 = false → grpState d g.val = 0) ∧
         (grpFlag s.chip g.val 0 = true → grpState d g.val = 1 ∧ grpFlag d g.val 0 = false ∧
           grp d g.val 0 12 = grp s.chip g.val 12 12 ∧ grp d g.val 28 4 = 0) ∧
         OnlyRegs s.chip { d with mem := s.chip.mem, doors := s.chip.doors } [regKey (dorPage (groupCx g.val)) 0x080])))

/-! The journal and the key slots. -/

/-- A FRAME or VOID record of a clock takes its sequence and its place in the buffer as the clock passes, or is lost where no place
is free, with a number (R291, R297, R299). A close or a GAP that waited is formed when a place is free (R298, R299), and a range
whose SPAN a record brings to 1,024 closes with it (R301);
the seal engine forms the SEAL record of the oldest closed range and moves its journal's chain head (R302, R303, R304). -/
def Obligations.RangesCloseAndAreSealed : Prop :=
  ∀ (s : State) (x : Cx) (j : JrnSt) (sh : Bool), s.ready x → j = Chip.jrnOf s.chip x → sh = Chip.inShadow s.chip x →
    jrnFull j = false →
    (∀ (i : Instr) (r : JRange), i = .rangeClose x ∨ i = .reservedPlaceFree x → JrnSt.range j sh = some r →
      j.events = [.close sh] → Performs i s (fun d => JrnSt.range (Chip.jrnOf d x) sh = none ∧
        (Chip.jrnOf d x).events = [] ∧ (Chip.jrnOf d x).buf = j.buf ∧
        (Chip.jrnOf d x).closed = j.closed ++ [⟨sh, r.first, jrnNext s.chip x sh - r.first, r.slot,
          (kvFind s.chip.keys r.slot).isSome, r.recs.reverse, Clk.abs s.clk⟩] ∧
        OnlyRegs s.chip { d with jrn := s.chip.jrn } [regKey (jrnPage x) 0x044])) ∧
    (∀ (l : JLost) (n : Nat), j.events = [.gap] → j.lost = some l → n = jrnNext s.chip x sh → j.buf.length < 65535 →
      Performs (.reservedPlaceFree x) s (fun d => (Chip.jrnOf d x).lost = none ∧ (Chip.jrnOf d x).events = [] ∧
        (∀ r, JrnSt.range j sh = some r → r.first + 1024 ≤ n + 1 → JrnSt.range (Chip.jrnOf d x) sh = none ∧
          (Chip.jrnOf d x).closed.length = j.closed.length + 1) ∧
        (∀ r, JrnSt.range j sh = some r → n + 1 < r.first + 1024 → (Chip.jrnOf d x).closed = j.closed) ∧
        (Chip.jrnOf d x).buf = j.buf ++ [recordBytes n (kindWord (128 * b2n sh) 0 0 3 0 0)
          (leBytes 8 l.first ++ leBytes 4 (l.last + 1 - l.first))
          (leBytes 4 l.count ++ leBytes 8 l.stampF ++ leBytes 8 l.stampL)] ∧
        Chip.get d (jrnPage x) (seqOff sh) = BitVec.ofNat 64 (n + 1) ∧
        Chip.get d (jrnPage x) 0x118 = Chip.get s.chip (jrnPage x) 0x118 + 1 ∧ Chip.flag d (jrnPage x) 0x010 8 = true ∧
        OnlyRegs s.chip { d with jrn := s.chip.jrn } ([0x010, 0x044, 0x118, seqOff sh].map (regKey (jrnPage x))))) ∧
    (∀ (r : JClosed) (rest : List JClosed) (n : Nat) (key : Option (List Byte)) (id tag : List Byte),
      j.main = none → j.shad = none → j.events = [] → j.closed = r :: rest → n = jrnNext s.chip x r.shadow →
      key = (if r.keyed && Chip.enabled s.chip .sel then kvFind s.chip.keys r.slot else none) →
      id = leBytes 2 (idWord s.chip x r.slot r.shadow) →
      tag = (match key with
        | some kk => cmac kk (r.recs.flatten ++ (jrnChain s.chip x r.shadow ++ leBytes 8 r.first ++ leBytes 4 r.span ++ id ++
            leBytes 2 r.recs.length ++ leBytes 8 n ++ leBytes 8 0))
        | none => List.replicate 16 0) →
      Performs (.sealRecord x) s (fun d => (Chip.jrnOf d x).closed = rest ∧
        (Chip.jrnOf d x).buf = j.buf ++ [recordBytes n (kindWord (b2n key.isNone + 128 * b2n r.shadow) 0 0 2 0 0)
          (leBytes 8 r.first ++ leBytes 4 r.span) (id ++ leBytes 2 r.recs.length ++ tag)] ∧
        Chip.get d (jrnPage x) (chainOff r.shadow) = BitVec.ofNat 64 (memNat tag 0 8) ∧
        Chip.get d (jrnPage x) (chainOff r.shadow + 8) = BitVec.ofNat 64 (memNat tag 8 8) ∧
        Chip.get d (jrnPage x) 0x110 = Chip.get s.chip (jrnPage x) 0x110 + 1 ∧
        (key.isSome = true → Chip.get d .sel 0x080 = Chip.get s.chip .sel 0x080 + 1) ∧
        (key = none → Chip.get d (jrnPage x) 0x128 = Chip.get s.chip (jrnPage x) 0x128 + 1 ∧
          Chip.flag d (jrnPage x) 0x010 10 = true))) ∧
    (∀ (r : JPend) (v : Option Nat) (n : Nat) (a : List Byte), s.pending = [] → s.clk.clock < 1599 →
      (∀ y, atStage9 s.chip y = [] ∧ (y ≠ x → (Chip.jrnOf s.chip y).pend = [])) → j.running = true → j.pend = [r] →
      r.voids = v.map .seq → a = (v.map (leBytes 8)).getD [] ++ r.a → r.cnt = 0x100 ∨ r.cnt = 0x108 →
      j.events = [] → j.lost = none → n = jrnNext s.chip x sh →
      (j.buf.length < 65472 → (j.clock = Clk.abs s.clk → j.formed < 64) → ∃ t, step s = .next t ∧
        (Chip.jrnOf t.chip x).pend = [] ∧
        (Chip.jrnOf t.chip x).buf = j.buf ++ [recordBytes n (r.kw + 128 * b2n sh * 2 ^ 20) a r.b] ∧
        Chip.get t.chip (jrnPage x) (seqOff sh) = BitVec.ofNat 64 (n + 1) ∧
        Chip.get t.chip (jrnPage x) r.cnt = Chip.get s.chip (jrnPage x) r.cnt + 1) ∧
      (65472 ≤ j.buf.length → ∃ t, step s = .next t ∧ (Chip.jrnOf t.chip x).pend = [] ∧
        (Chip.jrnOf t.chip x).buf = j.buf ∧ (Chip.jrnOf t.chip x).lost = some ⟨n, n, 1, r.stamp, r.stamp⟩ ∧
        Chip.get t.chip (jrnPage x) (seqOff sh) = BitVec.ofNat 64 (n + 1) ∧
        Chip.get t.chip (jrnPage x) 0x120 = Chip.get s.chip (jrnPage x) 0x120 + 1))

/-- What a clock's records hold: an ingress record once the fate and the end of a journalled frame are known, an egress record
once 256 bytes or all of a copy have passed stage 3, each under the frame's configuration, and the VOID of one not sent as
recorded (R33, R288 to R290, R292, R293). The writer puts the oldest record that no ring holds into the buffer being filled, or opens one of the posted entries (R300,
R333); a buffer filled in an earlier turn completes and its records leave the journal's buffer (R333). -/
def Obligations.JournalRecordsAreWritten : Prop :=
  (∀ (c d : Chip) (f : Frame) (fate : Nat) (x : Cx), x = Fin.ofNat 2 (f.pg / 32) → f.fate = some fate →
    d = (ingressRecord f c).1 →
    (f.ended = false ∨ f.sesValid = false ∨ f.jrn = false ∨ f.recorded = true → ingressRecord f c = (c, f)) ∧
    (f.ended = true → f.sesValid = true → f.jrn = true → f.recorded = false → (ingressRecord f c).2.recorded = true ∧
      (Chip.liveFlag { c with regs := f.cfg } (jrnPage x) 0x040 16 = false → d = c) ∧
      (Chip.liveFlag { c with regs := f.cfg } (jrnPage x) 0x040 16 = true → f.host = none →
        OnlyRegs c { d with jrn := c.jrn } [regKey (jrnPage x) 0x044] ∧
        ∃ r, (Chip.jrnOf d x).pend = pendInsert r (Chip.jrnOf c x).pend ∧ r.cnt = 0x100 ∧ r.voids = none ∧
          r.ord = f.port ∧ r.stamp = stampShort f.stamp ∧ r.a = leBytes 12 (stamp96 f.stamp) ∧
          r.kw = kindWord (b2n f.unlocked + 2 * b2n f.gap + 4 * b2n f.dup + 8 * b2n f.resync + 16 * b2n f.two +
            256 * (if fate = 0 then forwardFate f else fate)) f.colour f.cls 1 0 f.port ∧
          r.b = leBytes 4 (f.session % 2 ^ 18) ++ leBytes 8 f.appSeq ++ leBytes 2 (f.bytes.length % 2 ^ 14) ++
            leBytes 2 f.gen ++ leBytes 4 (crc32c (f.bytes.take 256))))) ∧
  (∀ (c d : Chip) (n : Fin 512) (f : TxFrame) (x : Cx) (whole : Bool), x = cxOf n → f.journals = true → f.recDone = false →
    d = (egressRecord n whole f c).1 →
    (whole = false → f.bytes.length < 256 → egressRecord n whole f c = (c, f)) ∧
    (whole = true ∨ 256 ≤ f.bytes.length → Chip.liveFlag (Chip.underTx c f) (jrnPage x) 0x040 17 = true →
      (egressRecord n whole f c).2.recDone = true ∧
      ∃ r, (Chip.jrnOf d x).pend = pendInsert r (Chip.jrnOf c x).pend ∧ r.cnt = 0x100 ∧ r.voids = none ∧
        r.mark = some (n.val, (Chip.jrnOf c x).pend.length) ∧
        (egressRecord n whole f c).2.seq = some (.id (Chip.jrnOf c x).pend.length) ∧
        r.ord = 512 + n.val ∧ r.stamp = stampShort f.stamp ∧ r.a = leBytes 12 (stamp96 f.stamp) ∧
        r.b = leBytes 4 (bits f.word 111 94 % 2 ^ 18) ++ leBytes 8 (bits f.word 191 128) ++
          leBytes 2 ((if whole then f.bytes.length else f.len) % 2 ^ 14) ++ leBytes 2 (bits f.word 127 112) ++
          leBytes 4 (crc32c (f.bytes.take 256)))) ∧
  (∀ (k : Clk) (c d : Chip) (n : Fin 512) (f : TxFrame) (rec : RecRef) (cause sent : Nat), f.seq = some rec → f.whole = true →
    f.cap = none → queued f = true → d = txVoid k n f cause sent c →
    OnlyRegs c { d with jrn := c.jrn } [regKey (jrnPage (cxOf n)) 0x044] ∧
    ∃ r, (Chip.jrnOf d (cxOf n)).pend = pendInsert r (Chip.jrnOf c (cxOf n)).pend ∧ r.cnt = 0x108 ∧ r.voids = some rec ∧
      r.kw = kindWord (cause * 256) 0 0 7 1 n.val ∧ r.a = leBytes 4 (sent % 2 ^ 14)) ∧
  (∀ (s : State) (x : Cx) (r i : Nat) (g : Ring) (rec : List Byte), s.ready x → jrnRing s.chip x = some (r, g) →
    i = nextRec (Chip.jrnOf s.chip x) → (Chip.jrnOf s.chip x).buf[i]? = some rec → rec ≠ [] →
    (∀ e, 0 < g.fill → e = ((g.ents.drop (jobEnts g - 1)).head?.getD none).getD [] → (g.fill + 1) * 48 < memNat e 8 2 →
      Performs (.journalWrite x 1) s (fun d => d.out = writesOf s.chip g.owner (memNat e 0 8 + 48 * g.fill) rec ∧
        Chip.ring d r = some { g with fill := g.fill + 1, gap := g.gap || decide (recKind rec = 3) } ∧
        (Chip.jrnOf d x).out[i]? = some (some r) ∧ (Chip.jrnOf d x).buf = (Chip.jrnOf s.chip x).buf ∧
        Chip.get d (jrnPage x) 0x140 = Chip.get s.chip (jrnPage x) 0x140 + 1 ∧
        OnlyRegs s.chip { d with jrn := s.chip.jrn, rings := s.chip.rings }
          ([0x044, 0x078, 0x140].map (regKey (jrnPage x))))) ∧
    (∀ e es, g.fill = 0 → freeEnts g = some e :: es → e ≠ [] → bufOk 3 e = true → 96 ≤ memNat e 8 2 →
      Chip.accepting s.chip (dmaPage r) = true →
      Performs (.journalWrite x 1) s (fun d => d.out = writesOf s.chip g.owner (memNat e 0 8) rec ∧
        (∃ h, Chip.ring d r = some h ∧ h.fill = 1 ∧ h.fillT = s.clk.turn ∧ h.first = memNat rec 0 8 ∧
          h.jobs = g.jobs ++ [⟨g.jobNo, ix (ringC s.chip r + jobEnts g), 1, 0, none, false⟩]) ∧
        (Chip.jrnOf d x).out[i]? = some (some r) ∧ (Chip.jrnOf d x).buf = (Chip.jrnOf s.chip x).buf ∧
        Chip.get d (jrnPage x) 0x140 = Chip.get s.chip (jrnPage x) 0x140 + 1))) ∧
  (∀ (s : State) (r : Fin 4096) (g : Ring) (job : RJob), s.ready (ringCx r.val) → Chip.ring s.chip r.val = some g →
    g.kind = 3 → 0 < g.fill → g.fillT < s.clk.turn → g.jobs.find? (fun j => j.res.isNone && !j.lost) = some job →
    Performs (.jrnBufferTimeout r) s (fun d =>
      (Chip.jrnOf d (ringCx r.val)).buf = (((Chip.jrnOf s.chip (ringCx r.val)).buf.zipIdx).filter (fun e =>
        decide (recHolder (Chip.jrnOf s.chip (ringCx r.val)) e.2 ≠ some r.val))).map (·.1) ∧
      (Chip.jrnOf d (ringCx r.val)).out = (Chip.jrnOf s.chip (ringCx r.val)).out.filter (· ≠ some r.val)))

/-- LOAD takes the key data for a slot not in use, and is rejected for one in use; at its end the slot is VALID, the data is
zero and KCV shows; ZEROIZE empties a slot (R305, R310). -/
def Obligations.KeySlotsLoadAndZeroize : Prop :=
  ∀ s : State,
    (s.writable .sel → s.chip.keyLoad = none → ∀ slot : Fin 4,
      (slotInUse s.chip slot.val = false → Writes (.keyLoad slot) s (fun d =>
        (∃ key, d.keyLoad = some (slot.val, key, false) ∧ key.length = 32 ∧
          ∀ i < 8, memNat key (4 * i) 4 = Chip.fld s.chip .sel (0x040 + 4 * i) 31 0) ∧
        Chip.flag d .sel 0x064 0 = true ∧
        OnlyRegs s.chip { d with keyLoad := s.chip.keyLoad } ([0x060, 0x064].map (regKey .sel)))) ∧
      (slotInUse s.chip slot.val = true → Writes (.keyLoad slot) s (fun d =>
        Chip.fld d .sel 0x064 7 4 = 1 ∧ Chip.flag d .sel 0x064 0 = false ∧ Chip.flag d .sel 0x010 9 = true ∧
        OnlyRegs s.chip d ([0x010, 0x060, 0x064].map (regKey .sel)))) ∧
      Writes (.zeroize slot) s (fun d => d.keys = kvErase s.chip.keys slot.val ∧
        Chip.flag d .sel 0x064 (8 + slot.val) = false ∧ Chip.get d .sel (0x070 + 4 * slot.val) = 0 ∧
        Chip.fld d .sel 0x064 7 4 = 0 ∧ Chip.flag d .sel 0x010 8 = true ∧
        OnlyRegs s.chip { d with keys := s.chip.keys, jrn := s.chip.jrn }
          ([0x010, 0x060, 0x064, 0x070 + 4 * slot.val].map (regKey .sel)))) ∧
    (∀ (slot : Fin 4) (key : List Byte), s.powered → s.chip.keyLoad = some (slot.val, key, false) →
      Performs .keyLoadDone s (fun d => d.keyLoad = none ∧ kvFind d.keys slot.val = some key ∧
        (∀ i < 8, Chip.get d .sel (0x040 + 4 * i) = 0) ∧ Chip.flag d .sel 0x064 (8 + slot.val) = true ∧
        Chip.get d .sel (0x070 + 4 * slot.val) = BitVec.ofNat 64 (memNat (aes256 key (List.replicate 16 0)) 0 4) ∧
        Chip.get d .sel 0x088 = Chip.get s.chip .sel 0x088 + 1 ∧ Chip.fld d .sel 0x064 7 4 = 0 ∧
        Chip.flag d .sel 0x064 0 = false ∧ Chip.flag d .sel 0x010 8 = true ∧
        OnlyRegs s.chip { d with keyLoad := s.chip.keyLoad, keys := s.chip.keys }
          ([0x010, 0x040, 0x044, 0x048, 0x04C, 0x050, 0x054, 0x058, 0x05C, 0x064, 0x070 + 4 * slot.val, 0x088].map
            (regKey .sel))))

/-! Host functions and descriptor rings. -/

/-- A function's ENABLE acts at once: it runs, or its rings stop and it is QUIESCED once they are done (R311, R312, R313). A
RESET stops a ring; a stopped ring completes what is outstanding and is DISABLED, at its reset values where a soft reset stopped
it, or runs again (R67, R315, R340). -/
def Obligations.FunctionsAndRingsStartAndStop : Prop :=
  (∀ (s : State) (f : Fin 64), s.writable .func →
    (f.val ∉ s.chip.funcOn → f.val ∉ s.chip.funcStop → Writes (.funcEnable f) s (fun d =>
      d.funcOn = f.val :: s.chip.funcOn ∧ d.funcStop = s.chip.funcStop ∧ Chip.flag d .func (0x100 + 4 * f.val) 31 = true ∧
      (s.chip.sweep = [] → OnlyRegs s.chip { d with funcOn := s.chip.funcOn } [regKey .func (0x100 + 4 * f.val)]))) ∧
    (funcRuns s.chip f.val = true → Writes (.funcDisable f) s (fun d =>
      d.funcOn = s.chip.funcOn.filter (· ≠ f.val) ∧ d.funcStop = f.val :: s.chip.funcStop ∧
      Chip.flag d .func (0x100 + 4 * f.val) 31 = false ∧
      (∀ r, ringsOf s.chip f.val = [r] → (Chip.ring s.chip r).isSome = true → awake s.chip (ringCx r) = true →
        ringState s.chip r ≠ 2 →
        ringState d r = 2 ∧ ∃ h, Chip.ring d r = some h ∧ h.why = some .owner) ∧
      (s.chip.sweep = [] → ringsOf s.chip f.val = [] → OnlyRegs s.chip
        { d with funcOn := s.chip.funcOn, funcStop := s.chip.funcStop } [regKey .func (0x100 + 4 * f.val)])))) ∧
  (∀ (s : State) (f : Fin 64), s.powered → f.val ∈ s.chip.funcStop → ringsOf s.chip f.val = [] →
    hostScan s.chip f.val = false → Performs (.funcQuiesced f) s (fun d => d.funcStop = s.chip.funcStop.filter (· ≠ f.val) ∧
      Chip.flag d .func 0x010 8 = true ∧
      d.funcOn = (if Chip.flag s.chip .func (0x100 + 4 * f.val) 31 then f.val :: s.chip.funcOn else s.chip.funcOn) ∧
      OnlyRegs s.chip { d with funcOn := s.chip.funcOn, funcStop := s.chip.funcStop } [regKey .func 0x010])) ∧
  (∀ (s : State) (r : Fin 4096) (g : Ring), Chip.ring s.chip r.val = some g →
    (s.writable (dmaPage r.val) → ringState s.chip r.val = 1 → Writes (.ringReset r) s (fun d => ringState d r.val = 2 ∧
      (∃ h, Chip.ring d r.val = some h ∧ h.why = some .reset ∧ h.rxq = [] ∧ h.evs = [] ∧ h.ents = g.ents) ∧
      Chip.get d (dmaPage r.val) (ringOff r.val + 0x50) =
        Chip.get s.chip (dmaPage r.val) (ringOff r.val + 0x50) + BitVec.ofNat 64 (g.rxq.length + g.evs.length))) ∧
    (s.ready (ringCx r.val) → ringState s.chip r.val = 2 → txInFlight s.chip r.val = false → g.jobs = [] →
      kvSorted s.chip.rings = true → Performs (.ringStopped r) s (fun d =>
        (g.wiped = false → ringC d r.val = ix (ringC s.chip r.val + g.ents.length)) ∧
        (g.wiped = true → g.why ≠ some .reset → ringC d r.val = 0 ∧ ringP d r.val = 0) ∧
        (g.why ≠ some .reset → ringState d r.val = 0 ∧ Chip.ring d r.val = none) ∧
        (g.why = some .reset → Chip.liveFlag s.chip (dmaPage r.val) (ringOff r.val + 0x10) 31 = true →
          ringState d r.val = 1 ∧ ringP d r.val = ringC d r.val ∧ ringAck d r.val = ringC d r.val ∧
          ∃ h, Chip.ring d r.val = some h ∧ h.ents = [] ∧ h.jobs = []))))

/-- A doorbell posts entries within the ring's size, and is rejected and counted outside it or while the ring does not run
(R318); an EVT ring's doorbell moves C, and ACK moves within what is done (R319, R339). The push window holds what is written
to it and reads as all-ones (R325), and AGE turns without a change of ACK age the ring (R319). -/
def Obligations.DoorbellsAndAcks : Prop :=
  (∀ (s : State) (r : Fin 4096) (v : Word), s.writable (dmaPage r.val) → ringState s.chip r.val ≠ 1 →
    Writes (.doorbell r v) s (fun d => d.push = kvErase s.chip.push r.val ∧
      Chip.get d (dmaPage r.val) (ringOff r.val + 0x58) = Chip.get s.chip (dmaPage r.val) (ringOff r.val + 0x58) + 1 ∧
      OnlyRegs s.chip { d with push := s.chip.push } [regKey (dmaPage r.val) (ringOff r.val + 0x58)])) ∧
  (∀ (s : State) (r : Fin 4096) (v : Word) (g : Ring) (p old : Nat), s.writable (dmaPage r.val) →
    Chip.ring s.chip r.val = some g → ringState s.chip r.val = 1 → p = v.toNat % 2 ^ 32 →
    old = ixSub (ringP s.chip r.val) (ringC s.chip r.val) →
    (g.kind ≠ 5 → freeEnts g = [] → bits v.toNat 34 32 = 0 → ixSub p (ringC s.chip r.val) ≤ 2 ^ g.size →
      old ≤ ixSub p (ringC s.chip r.val) → Writes (.doorbell r v) s (fun d => ringP d r.val = p ∧
        d.push = kvErase s.chip.push r.val ∧
        Chip.ring d r.val = some { g with
          ents := g.ents ++ List.replicate (ixSub p (ringC s.chip r.val) - old) none } ∧
        OnlyRegs s.chip { d with rings := s.chip.rings, push := s.chip.push }
          ([0x20, 0x28, 0x60].map (fun o => regKey (dmaPage r.val) (ringOff r.val + o))))) ∧
    (g.kind ≠ 5 → 2 ^ g.size < ixSub p (ringC s.chip r.val) → Writes (.doorbell r v) s (fun d =>
      ringP d r.val = ringP s.chip r.val ∧ Chip.fld d (dmaPage r.val) (ringOff r.val + 0x34) 5 4 = 1 ∧
      Chip.flag d (dmaPage r.val) (ringOff r.val + 0x34) 0 = true ∧ Chip.flag d (dmaPage r.val) 0x010 (8 + r.val % 8) = true ∧
      Chip.get d (dmaPage r.val) (ringOff r.val + 0x58) = Chip.get s.chip (dmaPage r.val) (ringOff r.val + 0x58) + 1)) ∧
    (g.kind = 5 → ixSub p (ringC s.chip r.val) ≤ old → Writes (.evtDoorbell r v) s (fun d => ringC d r.val = p ∧
      ringAck d r.val = p ∧ ringP d r.val = ringP s.chip r.val ∧
      OnlyRegs s.chip { d with rings := s.chip.rings, acks := s.chip.acks }
        ([0x20, 0x2C, 0x30].map (fun o => regKey (dmaPage r.val) (ringOff r.val + o))))) ∧
    (g.kind = 5 → old < ixSub p (ringC s.chip r.val) → ixSub (ringC s.chip r.val) p ≤ 2 ^ g.size →
      Writes (.evtDoorbell r v) s (fun d => OnlyRegs s.chip d []))) ∧
  (∀ (s : State) (r : Fin 4096) (v : BitVec 32) (g : Ring), s.writable (dmaPage r.val) →
    Chip.ring s.chip r.val = some g → g.kind ≠ 5 →
    (ixSub v.toNat (ringAck s.chip r.val) ≤ ixSub (ringC s.chip r.val) (ringAck s.chip r.val) →
      Writes (.ackWrite r v) s (fun d => ringAck d r.val = v.toNat ∧
        (v.toNat ≠ ringAck s.chip r.val → ackOf d r.val = { at_ := s.clk.turn, aged := false }) ∧
        OnlyRegs s.chip { d with acks := s.chip.acks } [regKey (dmaPage r.val) (ringOff r.val + 0x30)])) ∧
    (ixSub (ringC s.chip r.val) (ringAck s.chip r.val) < ixSub v.toNat (ringAck s.chip r.val) →
      Writes (.ackWrite r v) s (fun d => ringAck d r.val = ringAck s.chip r.val ∧
        Chip.get d (dmaPage r.val) (ringOff r.val + 0x58) = Chip.get s.chip (dmaPage r.val) (ringOff r.val + 0x58) + 1 ∧
        OnlyRegs s.chip d [regKey (dmaPage r.val) (ringOff r.val + 0x58)]))) ∧
  (∀ (s : State) (a : Fin 1048576) (bs : List Byte), s.powered → bs.length % 4 = 0 → a.val % 4 = 0 → 0 < bs.length →
    a.val % 0x80 + bs.length ≤ 0x80 → a.val / 0x80 < 4096 → hasCx s.chip.part (ringCx (a.val / 0x80)) = true →
    Performs (.pushWindowWrite a (.write bs)) s (fun d =>
      (∀ i b, bs[i]? = some b → kvFind (kvGet [] d.push (a.val / 0x80)) (a.val % 0x80 + i) = some b) ∧
      OnlyRegs s.chip { d with push := s.chip.push } [])) ∧
  (∀ (s : State) (a : Fin 1048576) (bs : List Byte), s.powered → (bs.length % 4 ≠ 0 ∨ a.val % 4 ≠ 0 ∨ 4096 ≤ a.val / 0x80) →
    Performs (.pushWindowWrite a (.write bs)) s (fun d => Chip.get d .func 0x310 = Chip.get s.chip .func 0x310 + 1 ∧
      OnlyRegs s.chip d [regKey .func 0x310])) ∧
  (∀ (s : State) (a : Fin 1048576) (n : Nat), s.powered → n ≤ 8 → Performs (.pushWindowWrite a (.read n)) s (fun d =>
    d.out = [.readData (BitVec.ofNat 64 (2 ^ (8 * n) - 1))] ∧ OnlyRegs s.chip d [])) ∧
  (∀ (s : State) (r : Fin 4096), s.ready (ringCx r.val) → ringAge s.chip r.val ≠ 0 →
    (ackOf s.chip r.val).at_ + ringAge s.chip r.val ≤ s.clk.turn → Performs (.notifyAge r) s (fun d =>
      ackOf d r.val = { ackOf s.chip r.val with aged := true } ∧ OnlyRegs s.chip { d with acks := s.chip.acks } []))

/-- Fetched entries of the ring whose turn it is are read and fill the first places not fetched (R316); one lost to a read error completes with DMA_ERROR and
both kinds of host error count (R50). A TX job's bytes are read and join its port's host frame queue, or it completes at once
where the port is down or quiesces; a core job's frame enters the core in free segments, or is discarded and counted for want of
a place (R197, R328). A slow-path frame is written to a posted entry, or dropped after HOLD (R330, R331). What goes to host
memory is cut: no request is longer than its limit or crosses 4 KiB, and together they are the whole transfer (R48). -/
def Obligations.EntriesFramesAndHostErrors : Prop :=
  (∀ (s : State) (r : Fin 4096) (g : Ring), s.ready (ringCx r.val) → Chip.ring s.chip r.val = some g →
    ringState s.chip r.val = 1 → g.kind ∈ [1, 2, 3] → g.jobs = [] →
    (∀ es x xs, g.ents = none :: es → fetchTurn s.chip (ringCx r.val) = some r.val → bufOk g.kind (slice x 0 32) = true → Performs (.entryFetch r (x :: xs)) s (fun d =>
      Chip.ring d r.val = some { g with ents := fillEnts g.ents (((x :: xs).take 16).map (fun e => slice e 0 32)) } ∧
      d.out = (fetchReads r.val (xs.length + 1) g (Chip.clear s.chip)).out ∧
      kvFind d.fetchAt (ringCx r.val).val = some (r.val + 1) ∧
      OnlyRegs s.chip { d with rings := s.chip.rings, fetchAt := s.chip.fetchAt } [])) ∧
    (∀ n, 0 < n → g.ents = [none] → Performs (.hostReadError (.entry r n) false) s (fun d =>
      (∃ h, Chip.ring d r.val = some h ∧ h.ents = []) ∧ ringC d r.val = ix (ringC s.chip r.val + 1) ∧
      Chip.flag d (dmaPage r.val) (ringOff r.val + 0x34) 1 = true ∧
      Chip.get d (dmaPage r.val) (ringOff r.val + 0x48) = Chip.get s.chip (dmaPage r.val) (ringOff r.val + 0x48) + 1 ∧
      Chip.fld d (onePage (ringCx r.val) .cpx) 0x110 31 0 =
        satAdd 0xFFFFFFFF (Chip.fld s.chip (onePage (ringCx r.val) .cpx) 0x110 31 0) 1)) ∧
    (∀ e i q, g.kind = 1 → g.ents = [some e] → g.rxq = i :: q → g.wb = 0 → e ≠ [] → bufOk 1 e = true →
      0 < i.bytes.length → i.bytes.length ≤ memNat e 8 2 → Chip.accepting s.chip (dmaPage r.val) = true →
      Performs (.rxFrameWrite r) s (fun d =>
        d.out = writesOf s.chip g.owner (memNat e 0 8) i.bytes ++
          writesOf s.chip g.owner (slotAddr g (ringC s.chip r.val)) (doneEntry (leBytes 12 (stamp96 i.stamp) ++
            leBytes 2 i.bytes.length ++ leBytes 2 i.bytes.length ++ (leBytes 2 i.port ++ leBytes 1 i.reason ++
            leBytes 1 i.tag ++ leBytes 2 i.gen)) true true 0) ∧
        ringC d r.val = ix (ringC s.chip r.val + 1) ∧
        ∃ h, Chip.ring d r.val = some h ∧ h.rxq = q ∧ h.ents = []))) ∧
  (∀ (s : State) (r : Fin 4096) (g : Ring), s.ready (ringCx r.val) → Chip.ring s.chip r.val = some g →
    Performs (.rxHoldExpiry r) s (fun d => ∃ keep,
      keep = g.rxq.filter (fun i => decide (s.clk.turn <
        i.ready + Chip.live s.chip (dmaPage r.val) (ringOff r.val + 0x14) 31 16)) ∧
      Chip.ring d r.val = some { g with rxq := keep } ∧
      Chip.get d (dmaPage r.val) (ringOff r.val + 0x50) =
        Chip.get s.chip (dmaPage r.val) (ringOff r.val + 0x50) + BitVec.ofNat 64 (g.rxq.length - keep.length) ∧
      OnlyRegs s.chip { d with rings := s.chip.rings } [regKey (dmaPage r.val) (ringOff r.val + 0x50)])) ∧
  (∀ (s : State) (x : Cx), s.ready x → Performs (.hostWriteError x none) s (fun d =>
    Chip.fld d (onePage x .cpx) 0x110 63 48 = satAdd 0xFFFF (Chip.fld s.chip (onePage x .cpx) 0x110 63 48) 1 ∧
    OnlyRegs s.chip d [regKey (onePage x .cpx) 0x110])) ∧
  (∀ (s : State) (r : Fin 4096) (g : Ring) (data : List Byte) (m total : Nat) (e : List Byte) (n : Fin 512),
    s.ready (ringCx r.val) → Chip.ring s.chip r.val = some g → ringState s.chip r.val = 1 → g.kind = 0 →
    Chip.accepting s.chip (dmaPage r.val) = true → readJob 32 (2 ^ g.size) (freeEnts g) = .good m →
    jobOk s.chip r.val g m = true → (freeEnts g).length = m → (freeEnts g).head? = some (some e) →
    total = (((freeEnts g).take m).map (fun e => memNat (e.getD []) 8 2)).sum →
    txStaged s.chip (ringCx r.val) + total ≤ 524288 → txPaused s.clk s.chip r.val = false →
    memNat e 12 2 = n.val → (kvGet [] s.chip.hostQ n.val).length < 16 →
    (Chip.isUp s.chip n = true → portQuiesce s.chip n = false → Performs (.txJobStart r data) s (fun d =>
      (∃ h, kvGet [] d.hostQ n.val = kvGet [] s.chip.hostQ n.val ++ [h] ∧ h.ring = r.val ∧ h.job = g.jobNo ∧
        h.fn = g.owner ∧ h.cls = memNat e 14 1 ∧ h.bytes = slice data 0 total) ∧
      Chip.ring d r.val = some { g with
        jobs := g.jobs ++ [⟨g.jobNo, ix (ringC s.chip r.val + jobEnts g), m, total, none, false⟩], jobNo := g.jobNo + 1 } ∧
      d.out = ((freeEnts g).take m).flatMap (fun e =>
        readsOf s.chip g.owner (memNat (e.getD []) 0 8) (memNat (e.getD []) 8 2)) ∧
      OnlyRegs s.chip { d with rings := s.chip.rings, hostQ := s.chip.hostQ } [])) ∧
    (Chip.isUp s.chip n = false ∨ portQuiesce s.chip n = true → g.jobs = [] → Performs (.txJobStart r data) s (fun d =>
      ringC d r.val = ix (ringC s.chip r.val + m) ∧ d.hostQ = s.chip.hostQ ∧
      Chip.get d (dmaPage r.val) (ringOff r.val + 0x48) =
        Chip.get s.chip (dmaPage r.val) (ringOff r.val + 0x48) + BitVec.ofNat 64 m))) ∧
  (∀ (s : State) (r : Fin 4096) (g : Ring) (data : List Byte) (m total : Nat) (e : List Byte) (pg : Fin 64),
    s.ready (ringCx r.val) → Chip.ring s.chip r.val = some g → ringState s.chip r.val = 1 → g.kind = 0 →
    Chip.accepting s.chip (dmaPage r.val) = true → readJob 32 (2 ^ g.size) (freeEnts g) = .good m →
    jobOk s.chip r.val g m = true → (freeEnts g).head? = some (some e) →
    total = (((freeEnts g).take m).map (fun e => memNat (e.getD []) 8 2)).sum →
    txStaged s.chip (ringCx r.val) + total ≤ 524288 → txPaused s.clk s.chip r.val = false →
    memNat e 12 2 = 2 ^ 15 + pg.val → Performs (.txJobStart r data) s (fun d => d.hostQ = s.chip.hostQ ∧
      ∃ h, kvGet [] d.coreQ pg.val = kvGet [] s.chip.coreQ pg.val ++ [h] ∧ h.ring = r.val ∧ h.job = g.jobNo ∧
        h.fn = g.owner ∧ h.cls = memNat e 14 1 ∧ h.bytes = slice data 0 total)) ∧
  (∀ (s : State) (pg : Fin 64) (h : HostFrame) (rest : List HostFrame), s.ready (cxOfPg pg) →
    kvGet [] s.chip.coreQ pg.val = h :: rest → queueLen s.chip pg.val < 8 → busFree s.chip pg.val = true →
    (512 ≤ (placesOf s.chip pg.val).length → Performs (.coreInject pg) s (fun d => kvGet [] d.coreQ pg.val = rest ∧
      Chip.get d (prsPage (Fin.ofNat 8 (pg.val / 8))) (0x280 + 8 * (pg.val % 8)) =
        Chip.get s.chip (prsPage (Fin.ofNat 8 (pg.val / 8))) (0x280 + 8 * (pg.val % 8)) + 1)) ∧
    ((placesOf s.chip pg.val).length < 512 →
      segmentsOf s.chip pg.val + ceilDiv (max 60 h.bytes.length + 4) 64 ≤ 1024 →
      Chip.accepting s.chip (prsPage (Fin.ofNat 8 (pg.val / 8))) = true → Performs (.coreInject pg) s (fun d =>
      kvGet [] d.coreQ pg.val = rest ∧ d.nextFrame = s.chip.nextFrame + 1 ∧
      ∃ f, kvFind d.frames s.chip.nextFrame = some f ∧ f.host = some (h.ring, h.fn) ∧ f.pg = pg.val ∧ f.loc = .queued ∧
        f.ended = true ∧ f.bytes.take h.bytes.length = h.bytes ∧ f.bytes.length = max 60 h.bytes.length + 4 ∧
        fcsOk f.bytes = true))) ∧
  (∀ (c : Chip) (fn addr n : Nat) (bs : List Byte),
    (∀ o ∈ writesOf c fn addr bs, ∃ a b, o = .hostWrite fn a b ∧ 0 < b.length ∧
      b.length ≤ max 1 (min 256 c.maxPay) ∧ a % 4096 + b.length ≤ 4096) ∧
    (writesOf c fn addr bs).flatMap (fun o => match o with | .hostWrite _ _ b => b | _ => []) = bs ∧
    (∀ o ∈ readsOf c fn addr n, ∃ a l, o = .hostRead fn a l ∧ 0 < l ∧ l ≤ max 1 (min 512 c.maxRead) ∧
      a % 4096 + l ≤ 4096) ∧
    ((readsOf c fn addr n).map (fun o => match o with | .hostRead _ _ l => l | _ => 0)).sum = n)

/-- Entries of a CMD job act one by one, and each leaves its completion: a row of a table written, invalidated or read, the
session operations of the job's batch, whose inserts count when it commits, a lookup and a SWAP (R334, R335, R336); a job that
inserts and deletes one key changes nothing (R237). -/
def Obligations.CommandRingEntriesAct : Prop :=
  ∀ (s : State) (r : Fin 4096) (x : Cx) (g : Ring) (j : RJob) (e : List Byte), x = ringCx r.val → s.ready x →
    cmdNext s.chip r.val = some (g, j, e) → Chip.ring s.chip r.val = some g → g.fail ≠ 2 → s.chip.latent = [] →
    cmdEntryOk e = true → (∀ n, (jobEntries g j.id)[g.done.length + 1]? = some n → cmdEntryOk n = true) →
    (g.done.length + 1 < j.n → ∀ later,
      (sesEntry e = false → jobClash (jobKeys s.chip r.val g j later) = false) →
      (∀ data p t row i, memNat e 22 1 = 1 → cmdOwner s.chip r.val e = some p → t = memNat e 13 1 → row = memNat e 16 3 →
        memNat e 20 2 = 1 → tableOf s.chip.part p t = some i → 0 < i.bytes → memNat e 8 4 = i.bytes →
        tableCheck s.chip (some p) t row true = 0 → plainTable p t = true → Performs (.cmdWrite r ⟨data, later⟩) s (fun d =>
          d.mem = memWrite s.chip.mem (rowKey p t row) (slice data 0 i.bytes) ∧
          Chip.ring d r.val = some { g with done := g.done ++ [cmdDoneEntry e 1 0] } ∧
          d.out = readsOf s.chip g.owner (memNat e 0 8) i.bytes ∧
          OnlyRegs s.chip { d with mem := s.chip.mem, rings := s.chip.rings } [])) ∧
      (∀ data p t row i, memNat e 22 1 = 1 → cmdOwner s.chip r.val e = some p → t = memNat e 13 1 → row = memNat e 16 3 →
        memNat e 20 2 = 1 → tableOf s.chip.part p t = some i → 0 < i.bytes → memNat e 8 4 = i.bytes →
        tableCheck s.chip (some p) t row true = 0 → Performs (.cmdWrite r ⟨data, later⟩) s (fun d =>
          Chip.ring d r.val = some { g with done := g.done ++ [cmdDoneEntry e 1 0] })) ∧
      (∀ data p t row i s1, memNat e 22 1 = 1 → cmdOwner s.chip r.val e = some p → t = memNat e 13 1 → row = memNat e 16 3 →
        memNat e 20 2 = 1 → tableOf s.chip.part p t = some i → 0 < i.bytes → memNat e 8 4 = i.bytes →
        tableCheck s.chip (some p) t row true = s1 → s1 ≠ 0 → Performs (.cmdWrite r ⟨data, later⟩) s (fun d =>
          Chip.ring d r.val = some { g with done := g.done ++ [cmdDoneEntry e 0 (cmdStatus s1)] } ∧
          OnlyRegs s.chip { d with rings := s.chip.rings } [])) ∧
      (∀ p t row rows n, memNat e 22 1 = 2 → cmdOwner s.chip r.val e = some p → t = memNat e 13 1 → row = memNat e 16 3 →
        memNat e 20 2 = 1 → tableOf s.chip.part p t = some ⟨rows, n, .plain⟩ →
        tableCheck s.chip (some p) t row true = 0 → Performs (.cmdInvalidate ⟨r, later⟩) s (fun d =>
          d.mem = memWrite s.chip.mem (rowKey p t row) (List.replicate n 0) ∧
          Chip.ring d r.val = some { g with done := g.done ++ [cmdDoneEntry e 1 0] } ∧
          OnlyRegs s.chip { d with mem := s.chip.mem, rings := s.chip.rings } [])) ∧
      (∀ p t row i, memNat e 22 1 = 3 → cmdOwner s.chip r.val e = some p → t = memNat e 13 1 → row = memNat e 16 3 →
        memNat e 20 2 = 1 → tableOf s.chip.part p t = some i → 0 < i.bytes → i.bytes ≤ memNat e 8 4 →
        tableCheck s.chip (some p) t row false = 0 → tableRead s.chip p t row ≠ [] → Performs (.cmdRead ⟨r, later⟩ []) s (fun d =>
          d.out = writesOf s.chip g.owner (memNat e 0 8) (tableRead s.chip p t row) ∧
          Chip.ring d r.val = some { g with done := g.done ++ [cmdDoneEntry e 1 0] } ∧
          OnlyRegs s.chip { d with rings := s.chip.rings } [])) ∧
      (∀ (data : List Byte) (o : KeyOp) (i : Nat) (c1 : Chip) (h : Ring),
        jobClash (jobKeys s.chip r.val g j (data :: later)) = false → sesOwnerOk s.chip r.val e = true → memNat e 8 4 = 64 → memNat (slice data 0 64) 60 4 = 0 →
        Chip.locked s.chip (sesPage x) = false →
        sesBatch r.val g (hostRead g.owner (memNat e 0 8) 64 (Chip.clear s.chip)) = some c1 →
        Chip.ring c1 r.val = some h →
        (memNat e 22 1 = 4 → h.fail = 0 → o = blockOp 1 (bit (memNat e 23 1) 0) (slice data 0 64) →
          findKey s.chip x o.key o.profile = none → (candidates o.key o.profile).find? (sesFree s.chip x) = some i →
          Performs (.sesInsert r ⟨data, later⟩) s (fun d =>
            d.mem = (Chip.setRow s.chip (sesPage x) 0 i 0 (newEntry o h.batch 0)).mem ∧
            Chip.get d (sesPage x) 0x1E0 = Chip.get s.chip (sesPage x) 0x1E0 ∧
            Chip.ring d r.val = some { h with done := h.done ++ [cmdDoneEntry e (rowResult (some i)) 0] })) ∧
        (memNat e 22 1 = 5 → h.fail = 0 → o = blockOp 2 (bit (memNat e 23 1) 0) (slice data 0 64) →
          findKey s.chip x o.key o.profile = some i → bits (sesCtl s.chip x i) 12 11 = 0 →
          Performs (.sesDelete r ⟨data, later⟩) s (fun d =>
            d.mem = (Chip.setRowNat s.chip (sesPage x) 0 i 104 8 (setBits (sesCtl s.chip x i) 13 11 (4 + h.batch))).mem ∧
            Chip.ring d r.val = some { h with done := h.done ++ [cmdDoneEntry e (rowResult (some i)) 0] })) ∧
        (memNat e 22 1 = 7 → h.fail ≠ 2 → o = blockOp 4 false (slice data 0 64) →
          findKey s.chip x o.key o.profile = some i →
          Performs (.sesUpdate r ⟨data, later⟩) s (fun d => d.mem = (kopUpdate x o s.chip).1.mem ∧
            Chip.ring d r.val = some { h with done := h.done ++ [cmdDoneEntry e (rowResult (some i)) 0] }))) ∧
      (∀ (sl : Fin 8) (v : Nat), v = memNat e 16 4 &&& 0xFFFF03FF → memNat e 22 1 = 8 → cmdOwner s.chip r.val e = some (slcPage sl) →
        Chip.flag s.chip (slcPage sl) 0x050 31 = false → Chip.locked s.chip (slcPage sl) = false →
        kvFind s.chip.swaps sl.val = none → bits v 31 16 ≠ Chip.fld s.chip (slcPage sl) 0x044 31 16 →
        Performs (.cmdSwap ⟨r, later⟩) s (fun d => d.swaps = kvPut s.chip.swaps sl.val (Clk.abs s.clk + 2, v) ∧
          Chip.get d (slcPage sl) 0x040 = BitVec.ofNat 64 v ∧
          Chip.ring d r.val = some { g with done := g.done ++ [cmdDoneEntry e 0 0] } ∧
          OnlyRegs s.chip { d with swaps := s.chip.swaps, rings := s.chip.rings } [regKey (slcPage sl) 0x040]))) ∧
    (∀ (data : List Byte) (later : List (List Byte)) (cmd : Instr), g.done.length + 1 < j.n → g.fail = 0 → g.batch = 0 →
      ((jobEntries g j.id).take g.done.length).all (fun e => !cmdEntryOk e) = true →
      jobClash (jobKeys s.chip r.val g j (if sesEntry e then data :: later else later)) = true →
      (memNat e 22 1 = 6 → 4 ≤ memNat e 8 4) →
      (memNat e 22 1, cmd) ∈ [(1, Instr.cmdWrite r ⟨data, later⟩), (2, .cmdInvalidate ⟨r, later⟩),
        (3, .cmdRead ⟨r, later⟩ []), (4, .sesInsert r ⟨data, later⟩), (5, .sesDelete r ⟨data, later⟩),
        (6, .sesFind r ⟨data, later⟩), (7, .sesUpdate r ⟨data, later⟩), (8, .cmdSwap ⟨r, later⟩)] →
      Performs cmd s (fun d => d.mem = s.chip.mem ∧
        Chip.ring d r.val = some { g with fail := 2, done := g.done ++ [cmdDoneEntry e 0 2] })) ∧
    (∀ (data : List Byte) (later : List (List Byte)) (o : KeyOp) (i : Nat) (c1 : Chip), memNat e 22 1 = 6 →
      jobClash (jobKeys s.chip r.val g j (data :: later)) = false →
      sesOwnerOk s.chip r.val e = true → memNat e 8 4 = 64 → memNat (slice data 0 64) 60 4 = 0 →
      sesBatch r.val g (hostRead g.owner (memNat e 0 8) 64 (Chip.clear s.chip)) = some c1 →
      o = blockOp 3 false (slice data 0 64) → findKey s.chip x o.key o.profile = some i →
      g.jobs = [j] → j.n = 1 → g.ents.length = 1 → g.done = [] → g.fail = 0 → g.batch = 0 → g.wb = 0 →
      Performs (.sesFind r ⟨data, later⟩) s (fun d =>
        d.out = readsOf s.chip g.owner (memNat e 0 8) 64 ++
          writesOf s.chip g.owner (memNat e 0 8) (leBytes 4 (rowResult (some i))) ++
          writesOf s.chip g.owner (slotAddr g (ringC s.chip r.val)) (cmdDoneEntry e (rowResult (some i)) 0) ∧
        d.mem = s.chip.mem ∧ ringC d r.val = ix (ringC s.chip r.val + 1) ∧
        ∃ h, Chip.ring d r.val = some h ∧ h.jobs = [] ∧ h.ents = []))

/-! The interrupt controller, the Pilot and STANDBY. -/

/-- A source's level reaches the controller (R344); a CLAIM read returns the lowest source eligible before the level changes of its clock, and claims it (R347, R348); a
COMPLETE of it ends the claim, holds the line low and its group off, and another number is a fault (R349, R352); then the line
may rise and the group is free (R53, R352). -/
def Obligations.SourcesAreClaimedAndCompleted : Prop :=
  (∀ (s : State) (n : Fin 1024), s.powered → Performs (.sourceLevelChange n) s (fun d =>
    (n.val ≠ 0 → (n.val ∈ d.icu.level ↔ sourceLevel s.chip n.val = true)) ∧
    (∀ m, m ≠ n.val → (m ∈ d.icu.level ↔ m ∈ s.chip.icu.level)) ∧ d.icu.holdoff = s.chip.icu.holdoff ∧
    d.icu.claims.map (fun e => (e.1, e.2.source)) = s.chip.icu.claims.map (fun e => (e.1, e.2.source)) ∧
    OnlyRegs s.chip { d with icu := s.chip.icu } [])) ∧
  (∀ (s : State) (t : Fin 8), s.powered → Chip.busy s.chip s.clk .icu = false →
    (∀ n, kvFind s.chip.icu.claims t.val = none → nextSource s.clk (claimView s.clk s.chip) t.val = some n →
      Performs (.icuClaim t) s (fun d => kvFind d.icu.claims t.val =
        some { source := n, low := decide (n ≠ 0) && !decide (n ∈ s.chip.icu.level) } ∧ isPending d n = false ∧ d.out = [.readData (BitVec.ofNat 64 n)] ∧
      d.readPcie = BitVec.ofNat 64 n ∧
      OnlyRegs s.chip { d with icu := s.chip.icu, readPcie := s.chip.readPcie } [])) ∧
    (kvFind s.chip.icu.claims t.val = none → nextSource s.clk (claimView s.clk s.chip) t.val = none → Performs (.icuClaim t) s (fun d =>
      d.out = [.readData 0xFFFF] ∧ OnlyRegs s.chip { d with readPcie := s.chip.readPcie } []))) ∧
  (∀ (s : State) (t : Fin 8) (n : BitVec 16), s.writable .icu → n ≠ 0xFFFF →
    (∀ cl, kvFind s.chip.icu.claims t.val = some cl → cl.source = n.toNat → kvSorted s.chip.icu.claims = true →
      Writes (.icuComplete t n) s (fun d => kvFind d.icu.claims t.val = none ∧
        kvFind d.icu.dip t.val = some (Clk.abs s.clk + 4) ∧
        (holdoffOf s.chip (n.toNat / 16) ≠ 0 →
          kvFind d.icu.holdoff (n.toNat / 16) = some (Clk.abs s.clk + 64 * holdoffOf s.chip (n.toNat / 16))) ∧
        OnlyRegs s.chip { d with icu := s.chip.icu }
          ([0x208, 0x210].map (fun o => regKey .icu (o + 0x20 * t.val))))) ∧
    ((∀ cl, kvFind s.chip.icu.claims t.val = some cl → cl.source ≠ n.toNat) → Writes (.icuComplete t n) s (fun d =>
      d.icu.claims = s.chip.icu.claims ∧ Chip.flag d .icu 0x300 31 = true ∧
      Chip.get d .icu (0x218 + 0x20 * t.val) = Chip.get s.chip .icu (0x218 + 0x20 * t.val) + 1 ∧
      OnlyRegs s.chip { d with icu := s.chip.icu }
        [regKey .icu (0x208 + 0x20 * t.val), regKey .icu (0x218 + 0x20 * t.val), regKey .icu 0x300]))) ∧
  (∀ (s : State) (t : Fin 8) (a : Nat), s.powered → kvFind s.chip.icu.dip t.val = some a → a ≤ Clk.abs s.clk →
    Performs (.lineReassert t) s (fun d => d.icu = { s.chip.icu with dip := kvErase s.chip.icu.dip t.val } ∧
      OnlyRegs s.chip { d with icu := s.chip.icu } [])) ∧
  (∀ (s : State) (g : Fin 64) (a : Nat), s.powered → kvFind s.chip.icu.holdoff g.val = some a → a ≤ Clk.abs s.clk →
    Performs (.holdoffExpiry g) s (fun d => d.icu = { s.chip.icu with holdoff := kvErase s.chip.icu.holdoff g.val } ∧
      OnlyRegs s.chip { d with icu := s.chip.icu } []))

/-- A complex in STANDBY has lost its work in flight and resumes as it was (R355, R358, R359). The armed Pilot makes one wake
event of the watched levels that are high, lowers WAKE_N and asks for power (R356), and goes idle when all is awake and
acknowledged (R357). -/
def Obligations.StandbyAndThePilot : Prop :=
  (∀ (s : State) (x : Cx), s.powered →
    (awake s.chip x = true → Performs (.standbyEntry x) s (fun d => d.standby = x :: s.chip.standby ∧
      (∀ e ∈ d.frames, e.2.pg / 32 ≠ x.val) ∧ (∀ e ∈ d.hostQ, e.1 / 256 ≠ x.val) ∧ (∀ e ∈ d.coreQ, e.1 / 32 ≠ x.val) ∧
      (∀ e ∈ d.twRun, e.1 / 64 ≠ x.val) ∧
      (∀ r g, ringCx r = x → Chip.ring d r = some g → ∀ j ∈ g.jobs, j.res = none → j.lost = true))) ∧
    (x ∈ s.chip.standby → (∀ e ∈ s.chip.rings, ringCx e.1 = x → funcRuns s.chip e.2.owner = true) →
      Performs (.complexResume x) s (fun d => d.standby = s.chip.standby.filter (· ≠ x) ∧
      ((∀ i < 256, (Chip.port s.chip (laneOf x i)).gated = false) →
        OnlyRegs s.chip { d with standby := s.chip.standby } [])))) ∧
  (∀ s : State, s.writable .pil → (∀ n < 32, watchHigh s.chip n = false) → Writes .pilotArm s (fun d =>
    Chip.flag d .pil 0x040 0 = true ∧ Chip.fld d .pil 0x044 1 0 = 1 ∧
    OnlyRegs s.chip d ([0x040, 0x044].map (regKey .pil)))) ∧
  (∀ (s : State) (n : Nat), n < 32 → watchHigh s.chip n = true → Chip.enabled s.chip .pil = true →
    (s.powered → Chip.flag s.chip .pil 0x040 0 = true → Performs .pilotWake s (fun d => Chip.flag d .pil 0x048 n = true ∧
      (∀ m < 32, watchHigh s.chip m = false → Chip.flag d .pil 0x048 m = Chip.flag s.chip .pil 0x048 m) ∧
      Chip.flag d .pil 0x040 0 = false ∧ Chip.fld d .pil 0x044 1 0 = 2 ∧ wakeLow d = true ∧
      Chip.get d .pil 0x100 = Chip.get s.chip .pil 0x100 + 1 ∧
      Chip.get d .pil 0x108 = BitVec.ofNat 64 (shortStamp s.clk) ∧ Chip.flag d .pil 0x010 8 = true ∧
      d.out = s.chip.standby.map Output.powerUp ∧
      OnlyRegs s.chip d ([0x010, 0x040, 0x044, 0x048, 0x100, 0x108].map (regKey .pil)))) ∧
    (s.writable .pil → Writes .pilotArm s (fun d => Chip.flag d .pil 0x040 0 = false ∧ Chip.fld d .pil 0x044 1 0 = 2 ∧
      Chip.flag d .pil 0x048 n = true ∧ wakeLow d = true))) ∧
  (∀ s : State, s.powered → s.chip.standby = [] → Chip.fld s.chip .pil 0x048 31 0 = 0 → Chip.fld s.chip .pil 0x044 1 0 = 2 →
    Performs .pilotIdle s (fun d => Chip.fld d .pil 0x044 1 0 = 0 ∧ wakeLow d = false ∧
      OnlyRegs s.chip d [regKey .pil 0x044]))

/-! The check-value units. -/

/-- INIT loads the register and latches the configuration and the 64-bit parameters, or is BAD_CFG (R364, R369, R370): that one
written without SCAN is so in RECORD mode with the ADDR fold is the model's reading (assumption 82, DEDUCED); data fed changes the running register
and counts, and is discarded while the unit is busy (R366); SCAN starts or ends at once, and its end feeds the region and sets
DONE (R367, R368); CHECK compares the final value (R362, R365). -/
def Obligations.CheckUnitsRun : Prop :=
  ∀ (s : State) (x : Cx) (u : Fin 4) (st : ChkSt) (ctl : Nat), st = Chip.chkOf s.chip x u →
    ctl = (Chip.get s.chip (chkPage x u) 0x040).toNat →
    (s.writable (chkPage x u) → st.scan = none →
      (chkRecord ctl = false → Writes (.init x u) s (fun d =>
        Chip.chkOf d x u = { ctl := ctl, seed := (Chip.get s.chip (chkPage x u) 0x048).toNat
                             base := (Chip.get s.chip (chkPage x u) 0x050).toNat
                             expect := (Chip.get s.chip (chkPage x u) 0x058).toNat
                             from_ := (Chip.get s.chip (chkPage x u) 0x060).toNat, busy := st.busy } ∧
        Chip.get d (chkPage x u) 0x080 = BitVec.ofNat 64 (chkWidth ctl (Chip.get s.chip (chkPage x u) 0x048).toNat) ∧
        Chip.get d (chkPage x u) 0x088 = 0 ∧ Chip.get d (chkPage x u) 0x090 = 0 ∧
        Chip.fld d (chkPage x u) 0x074 11 8 = 0 ∧ OnlyRegs s.chip { d with chk := s.chip.chk } ([0x070, 0x074, 0x080, 0x088, 0x090].map (regKey (chkPage x u))))) ∧
      (chkRecord ctl = true → (bits ctl 31 16 % 4 ≠ 0 ∨ bits ctl 31 16 < 2 * chkField ctl ∨ chkFold ctl = 1) →
        Writes (.init x u) s (fun d => Chip.fld d (chkPage x u) 0x074 11 8 = 1 ∧
          OnlyRegs s.chip d ([0x070, 0x074].map (regKey (chkPage x u))))) ∧
      (Chip.flag s.chip (chkPage x u) 0x008 1 = false → Chip.fld s.chip (chkPage x u) 0x068 31 0 ≠ 0 →
        Chip.flag s.chip (chkPage x u) 0x06C 31 = false → funcRuns s.chip (Chip.fld s.chip (chkPage x u) 0x06C 5 0) = true →
        Writes (.scan x u) s (fun d => Chip.flag d (chkPage x u) 0x074 1 = true ∧
          Chip.chkOf d x u = { st with scan := some ⟨none, st.from_, Chip.fld s.chip (chkPage x u) 0x068 31 0,
            Chip.fld s.chip (chkPage x u) 0x06C 5 0, false, false, 0, Clk.abs s.clk⟩ } ∧
          OnlyRegs s.chip { d with chk := s.chip.chk } ([0x070, 0x074].map (regKey (chkPage x u))))) ∧
      (Chip.flag s.chip (chkPage x u) 0x008 1 = false → Chip.fld s.chip (chkPage x u) 0x068 31 0 = 0 →
        Writes (.scan x u) s (fun d => Chip.flag d (chkPage x u) 0x074 1 = false ∧
          Chip.fld d (chkPage x u) 0x074 11 8 = 0 ∧ Chip.flag d (chkPage x u) 0x010 8 = true ∧
          OnlyRegs s.chip { d with chk := s.chip.chk } ([0x010, 0x070, 0x074].map (regKey (chkPage x u))))) ∧
      (∀ v, chkRecord st.ctl = false → v = chkFinal st.ctl (Chip.get s.chip (chkPage x u) 0x080).toNat →
        Writes (.check x u) s (fun d => Chip.get d (chkPage x u) 0x078 = BitVec.ofNat 64 v ∧
          Chip.flag d (chkPage x u) 0x074 2 = true ∧
          (Chip.flag d (chkPage x u) 0x074 3 = true ↔ v = chkWidth st.ctl st.expect) ∧
          (v ≠ chkWidth st.ctl st.expect → Chip.flag d (chkPage x u) 0x010 9 = true ∧
            Chip.get d (chkPage x u) 0x100 = Chip.get s.chip (chkPage x u) 0x100 + 1) ∧
          OnlyRegs s.chip d ([0x010, 0x070, 0x074, 0x078, 0x100].map (regKey (chkPage x u))))) ∧
      (Chip.flag s.chip (chkPage x u) 0x074 0 = false → ∀ (size : Fin 4) (v : Word) (n : Nat) (r : ChkRun), n = 2 ^ size.val →
        r = chkFeedFrom (bits st.ctl 31 16)
          (fun i => st.base + (st.block + (st.pos + i) / bits st.ctl 31 16) * bits st.ctl 31 16) 0 (leBytes n v.toNat)
          ⟨st, (Chip.get s.chip (chkPage x u) 0x080).toNat, []⟩ →
        Writes (.chkDataFeed x u size v) s (fun d => Chip.get d (chkPage x u) 0x080 = BitVec.ofNat 64 r.reg ∧
          (bits st.ctl 31 16 = 0 →
            r.reg = (leBytes n v.toNat).foldl (chkByte st.ctl) (Chip.get s.chip (chkPage x u) 0x080).toNat) ∧
          Chip.get d (chkPage x u) 0x088 = Chip.get s.chip (chkPage x u) 0x088 + BitVec.ofNat 64 n ∧
          Chip.flag d (chkPage x u) 0x074 0 = true ∧ (Chip.chkOf d x u).busy = Clk.abs s.clk + n)) ∧
      (Chip.flag s.chip (chkPage x u) 0x074 0 = true → ∀ (size : Fin 4) (v : Word),
        Writes (.chkDataFeed x u size v) s (fun d => Chip.flag d (chkPage x u) 0x074 5 = true ∧
          Chip.flag d (chkPage x u) 0x010 10 = true ∧
          Chip.get d (chkPage x u) 0x110 = Chip.get s.chip (chkPage x u) 0x110 + 1 ∧
          OnlyRegs s.chip d ([0x010, 0x074, 0x110].map (regKey (chkPage x u)))))) ∧
    (∀ (start len fn rows next : Nat) (data : List Byte), s.ready x →
      st.scan = some ⟨none, start, len, fn, false, false, rows, next⟩ →
      funcRuns s.chip fn = true → bits st.ctl 31 16 = 0 → Performs (.scanEnd x u data []) s (fun d =>
        (Chip.chkOf d x u).scan = none ∧ Chip.flag d (chkPage x u) 0x074 1 = false ∧
        Chip.fld d (chkPage x u) 0x074 11 8 = 0 ∧ Chip.flag d (chkPage x u) 0x010 8 = true ∧
        Chip.get d (chkPage x u) 0x080 = BitVec.ofNat 64
          ((slice data 0 len).foldl (chkByte st.ctl) (Chip.get s.chip (chkPage x u) 0x080).toNat) ∧
        Chip.get d (chkPage x u) 0x088 = Chip.get s.chip (chkPage x u) 0x088 + BitVec.ofNat 64 len)) ∧
    (s.ready x → st.busy ≤ Clk.abs s.clk → Performs (.chkFeedDone x u) s (fun d =>
      Chip.flag d (chkPage x u) 0x074 0 = false ∧ OnlyRegs s.chip d [regKey (chkPage x u) 0x074]))

/-- Every CHECK that completes sets RESULT_VALID; a mismatch sets MISMATCH and its cause and is counted, and a match clears
MISMATCH (R365). A CHECK completes at once, or
with the scan it waits for (R369). -/
def Obligations.ChecksReportTheirResult : Prop :=
  ∀ (x : Cx) (u : Fin 4),
    (∀ s : State, s.writable (chkPage x u) → (Chip.chkOf s.chip x u).scan = none →
      Writes (.check x u) s (CheckDone x u s.chip)) ∧
    (∀ (c : Chip) (again : Bool), CheckDone x u c (chkScanDone x u 0 true again c))

/-! The Saggar pair. -/

/-- CLAIM in STANDBY enters CLAIMING; CLAIM, QUERY and RENEW ask the witness with a new REQ_ID, and an unanswered CLAIM or a
QUERY is repeated every 16 turns (R380, R381, R385); a request unanswered for 32 turns counts (R381); a lease that ends or is
released returns the chip to STANDBY out of SYNC (R380, R394). -/
def Obligations.WitnessRequestsAreSent : Prop :=
  ∀ s : State,
    (s.writable .sag → pairRole s.chip = 1 → Writes .claim s (fun d => pairRole d = 2 ∧
      d.pair.claim = some (s.chip.pair.reqId, s.clk.turn) ∧ d.pair.reqId = (s.chip.pair.reqId + 1) % 2 ^ 32 ∧
      Asked s.chip d s.clk.turn 0x10 s.chip.pair.reqId ∧ OnlyPair s.chip d [0x010, 0x064, 0x068])) ∧
    (s.writable .sag → pairRole s.chip ≠ 0 → Writes .query s (fun d => pairRole d = pairRole s.chip ∧
      d.pair.lastAsk = s.clk.turn ∧ d.pair.reqId = (s.chip.pair.reqId + 1) % 2 ^ 32 ∧
      Asked s.chip d s.clk.turn 0x13 s.chip.pair.reqId ∧ OnlyPair s.chip d [0x010, 0x064, 0x068])) ∧
    (∀ id last, s.paired → s.chip.pair.claim = some (id, last) → pairRole s.chip = 2 → last + 16 ≤ s.clk.turn →
      Performs .claimRepeat s (fun d => d.pair.claim = some (id, s.clk.turn) ∧ d.pair.reqId = s.chip.pair.reqId ∧
        Asked s.chip d s.clk.turn 0x10 id ∧ OnlyPair s.chip d [0x010, 0x068])) ∧
    (s.paired → pairRole s.chip ∈ [1, 2] → s.chip.pair.silence = 2 → s.chip.pair.lastAsk + 16 ≤ s.clk.turn →
      Performs .queryRepeat s (fun d => d.pair.lastAsk = s.clk.turn ∧ Asked s.chip d s.clk.turn 0x13 s.chip.pair.reqId ∧
        OnlyPair s.chip d [0x010, 0x068])) ∧
    (s.paired → pairRole s.chip = 3 → s.clk.turn % 16 = 0 → s.chip.pair.renewTurn ≠ some s.clk.turn →
      Performs .renewSend s (fun d => d.pair.renewTurn = some s.clk.turn ∧
      d.pair.reqId = (s.chip.pair.reqId + 1) % 2 ^ 32 ∧ Asked s.chip d s.clk.turn 0x11 s.chip.pair.reqId ∧
      OnlyPair s.chip d [0x010, 0x068])) ∧
    (∀ r, s.paired → s.chip.pair.reqs = [r] → r.late = false → r.first + 32 ≤ s.clk.turn →
      Performs .witnessTimeout s (fun d => d.pair.reqs = [{ r with late := true }] ∧
        d.pair.timeouts = s.chip.pair.timeouts + 1 ∧ Chip.get d .sag 0x170 = Chip.get s.chip .sag 0x170 + 1 ∧
        (4 ≤ s.chip.pair.timeouts + 1 → Chip.flag d .sag 0x010 11 = true) ∧ OnlyPair s.chip d [0x010, 0x170])) ∧
    (s.paired → pairRole s.chip = 3 → (Chip.get s.chip .sag 0x070).toNat ≤ s.clk.turn → jrnStill s.chip →
      Performs .leaseExpiry s (fun d => pairRole d = 1 ∧ pairSync d = false ∧ Chip.get d .sag 0x070 = 0 ∧
        Chip.get d .sag 0x160 = Chip.get s.chip .sag 0x160 + 1 ∧ Chip.flag d .sag 0x010 9 = true ∧
        (∀ x ∈ complexes s.chip.part, Chip.inShadow d x = true))) ∧
    (s.writable .sag → pairRole s.chip = 3 → jrnStill s.chip → Writes .release s (fun d => pairRole d = 1 ∧
      pairSync d = false ∧ Chip.get d .sag 0x070 = 0 ∧ Chip.get d .sag 0x160 = Chip.get s.chip .sag 0x160 + 1 ∧
      Chip.flag d .sag 0x010 9 = true ∧ d.pair.reqs = s.chip.pair.reqs))

/-- GRANT renews the lease or makes a claimant ACTIVE; DENY and STATUS adopt NEW_EPOCH, and so does DEPOSE in a chip that is not
ACTIVE; DENY returns a claimant, and DEPOSE an ACTIVE chip, to STANDBY (R380, R381, R393). -/
def Obligations.WitnessAnswersAreTaken : Prop :=
  ∀ (s : State) (n : Fin 512) (bs : List Byte) (m : PairMsg) (q : WitReq), s.paired →
    (answerAccept n bs 0x18 [2, 3] [0x11] (Chip.clear s.chip) = (Chip.clear s.chip, some (m, q)) → pairRole s.chip = 3 →
      s.clk.turn ≤ q.first + memNat m.body 6 2 + 32 → Performs (.grant n bs) s (fun d =>
        Chip.get d .sag 0x070 =
          BitVec.ofNat 64 (max (Chip.get s.chip .sag 0x070).toNat (q.first + memNat m.body 6 2 + 64)) ∧
        Chip.flag d .sag 0x068 7 = true ∧ Chip.flag d .sag 0x010 11 = false ∧ d.pair.timeouts = 0 ∧ pairRole d = 3 ∧
        OnlyPair s.chip d [0x010, 0x068, 0x070])) ∧
    (answerAccept n bs 0x18 [2, 3] [0x10] (Chip.clear s.chip) = (Chip.clear s.chip, some (m, q)) → pairRole s.chip = 2 →
      s.clk.turn ≤ q.first + memNat m.body 6 2 + 32 → jrnStill s.chip → Performs (.grant n bs) s (fun d => pairRole d = 3 ∧
        roleEpoch d = memNat m.body 0 4 ∧
        Chip.get d .sag 0x070 = BitVec.ofNat 64 (q.first + memNat m.body 6 2 + 64) ∧
        Chip.get d .sag 0x158 = Chip.get s.chip .sag 0x158 + 1 ∧ Chip.flag d .sag 0x010 8 = true ∧ d.pair.claim = none ∧
        (∀ x ∈ complexes s.chip.part, Chip.inShadow d x = false))) ∧
    (answerAccept n bs 0x19 [2] [0x10] (Chip.clear s.chip) = (Chip.clear s.chip, some (m, q)) →
      Performs (.deny n bs) s (fun d => pairRole d = 1 ∧ roleEpoch d = memNat m.body 0 4 ∧ pairSync d = false ∧
        d.pair.claim = none ∧ Chip.get d .sag 0x168 = Chip.get s.chip .sag 0x168 + 1 ∧
        OnlyPair s.chip d [0x010, 0x068, 0x06C, 0x168])) ∧
    (answerAccept n bs 0x1A [1, 2] [0x10, 0x11, 0x13] (Chip.clear s.chip) = (Chip.clear s.chip, some (m, q)) →
      memNat m.body 8 1 ≠ 1 → Performs (.status n bs) s (fun d => pairRole d = pairRole s.chip ∧
        roleEpoch d = memNat m.body 0 4 ∧ Chip.flag d .sag 0x068 7 = true ∧ d.pair.timeouts = 0 ∧
        OnlyPair s.chip d [0x010, 0x068, 0x06C])) ∧
    (answerAccept n bs 0x1B [1, 2, 3] [0x10, 0x11, 0x13] (Chip.clear s.chip) = (Chip.clear s.chip, some (m, q)) →
      jrnStill s.chip → Performs (.depose n bs) s (fun d =>
        pairRole d = (if pairRole s.chip = 3 then 1 else pairRole s.chip) ∧
        (pairRole s.chip ≠ 3 → roleEpoch d = memNat m.body 0 4) ∧
        (pairRole s.chip = 3 → roleEpoch d = roleEpoch s.chip ∧ pairSync d = false ∧ Chip.get d .sag 0x070 = 0)))

/-- HEARTBEAT is sent on every lane that is up (R384), but under remote fault or remote loopback (R96, R165); one received is
stamped where it enters (R376) and ends any silence (R384, R385, R387). Silence is partner or link loss (R385); after 256 turns
SYNC goes (R392); an edge of PAIR_HB_IN keeps PIN_ALIVE (R385). -/
def Obligations.HeartbeatsKeepThePair : Prop :=
  ∀ s : State, s.paired →
    (∀ n ahead, pairOut s.chip = some n → pairRole s.chip ≠ 0 → s.clk.clock = 64 →
      s.chip.pair.beatTurn ≠ some s.clk.turn →
      Performs (.heartbeatSend ahead) s (fun d =>
        (Chip.lpbk s.chip n ≠ 1 →
          d.out.map (fun o => match o with | .pairTx l _ => some l | _ => none) = (pairLanes s.chip).map some) ∧
        d.pair.seq = (s.chip.pair.seq + (pairLanes s.chip).length) % 2 ^ 32 ∧
        Chip.get d .sag 0x100 = Chip.get s.chip .sag 0x100 + BitVec.ofNat 64 (pairLanes s.chip).length)) ∧
    (∀ n cap bs m, pairUp s.chip = some n →
      linkAccept bs 0x01 [1, 2, 3] (Chip.clear s.chip) = (Chip.clear s.chip, some m) → Performs (.heartbeatRx cap bs) s (fun d =>
        d.pair.lastHb = Clk.abs s.clk ∧ (bit m.flags 0 = true → d.pair.lastAct = Clk.abs s.clk) ∧ d.pair.silence = 0 ∧
        d.pair.echo = some (m.seq, ingressStamp s.chip n (startCapture s.clk s.chip n 9 cap), memNat m.body 0 12) ∧
        Chip.get d .sag 0x088 = BitVec.ofNat 64 (memNat m.body 40 8) ∧
        Chip.get d .sag 0x108 = Chip.get s.chip .sag 0x108 + 1)) ∧
    (s.chip.pair.lastHb + missClocks s.chip ≤ Clk.abs s.clk →
      (pairRole s.chip = 3 → s.chip.pair.silence = 0 → Performs .heartbeatMiss s (fun d => d.pair.silence = 1 ∧
        Chip.get d .sag 0x110 = Chip.get s.chip .sag 0x110 + 1 ∧ OnlyPair s.chip d [0x110])) ∧
      (pairRole s.chip ∈ [1, 2] → s.chip.pair.silence ≠ 2 →
        (s.chip.pair.settled = true ∨ (Chip.liveFlag s.chip .sag 0x040 18 = true ∧ pinAlive s.clk s.chip = true)) →
        Performs .heartbeatMiss s (fun d => d.pair.silence = 2 ∧ pairSync d = false ∧ Chip.flag d .sag 0x010 12 = true ∧
          d.pair.lastAsk = s.clk.turn ∧ Chip.get d .sag 0x110 = Chip.get s.chip .sag 0x110 + 1 ∧
          OnlyPair s.chip d [0x010, 0x068, 0x110])) ∧
      (pairRole s.chip = 1 → s.chip.pair.silence = 0 → s.chip.pair.settled = false →
        Chip.liveFlag s.chip .sag 0x040 18 = false → Performs .heartbeatMiss s (fun d => d.pair.silence = 1 ∧
          Chip.get d .sag 0x110 = Chip.get s.chip .sag 0x110 + 1 ∧
          (Chip.liveFlag s.chip .sag 0x040 17 = true → pairRole d = 2) ∧
          (Chip.liveFlag s.chip .sag 0x040 17 = false → pairRole d = 1 ∧ Chip.flag d .sag 0x010 15 = true)))) ∧
    (pairRole s.chip ∈ [1, 2] → s.chip.pair.longGone = false → s.chip.pair.lastHb + 409600 ≤ Clk.abs s.clk →
      Performs .silenceUnsync s (fun d => pairSync d = false ∧ Chip.flag d .sag 0x010 12 = true ∧
        d.pair.longGone = true ∧ OnlyPair s.chip d [0x010, 0x068])) ∧
    (pairRole s.chip ≠ 0 → Performs .pairHbInEdge s (fun d => pinAlive s.clk d = true ∧ OnlyPair s.chip d []))

/-- The ACTIVE chip sends owed entries and closes each epoch with its heads, BLOCKS and CHECK (R388, R398); the standby keeps
the blocks, accepts a whole epoch that checks and discards another (R389), and applies it (R390, R392). -/
def Obligations.SlipIsSentAndApplied : Prop :=
  ∀ s : State, s.paired →
    (∀ (port : Fin 512) (sl : Slip) (o : Dirty), pairOut s.chip = some port → pairRole s.chip = 3 →
      s.chip.pair.closing = none → s.chip.pair.silence = 0 → s.chip.pair.opened = some sl → s.chip.dirty = [o] → o.kind ≠ 1 →
      s.chip.latent = [] →
      (complexes s.chip.part).length + sl.blocks.length < 65535 → s.chip.pair.again = [] →
      Performs (.slipDataSend 1) s (fun d => d.dirty = [] ∧
        (∃ t, d.pair.opened = some t ∧ t.no = sl.no ∧ t.sent = sl.sent ++ [o] ∧
          t.blocks = slipRecord s.clk o (Chip.clear s.chip) ++ sl.blocks) ∧
        (Chip.lpbk s.chip port ≠ 1 → ∃ f, d.out = [.pairTx (pairLane s.chip) f]) ∧
        Chip.get d .sag 0x130 = Chip.get s.chip .sag 0x130 + 1)) ∧
    (∀ (port : Fin 512) (sl : Slip) (heads : List (List Byte)), pairOut s.chip = some port → pairRole s.chip = 3 →
      s.chip.pair.silence = 0 → s.chip.pair.closing = some sl → s.clk.turn = 16 * (sl.no + 1) →
      (complexes s.chip.part).mapM (fun x => journalHead s.clk x (Chip.clear s.chip)) = some heads →
      Performs .slipEpochClose s (fun d => d.pair.closing = none ∧ Chip.get d .sag 0x080 = BitVec.ofNat 64 sl.no ∧
        (Chip.lpbk s.chip port ≠ 1 → ∃ f l g, d.out = [.pairTx (pairLane s.chip) f, .pairTx l g]) ∧ (sl.no, sl.sent) ∈ d.pair.unacked ∧
        Chip.get d .sag 0x130 = Chip.get s.chip .sag 0x130 + BitVec.ofNat 64 heads.length)) ∧
    (∀ bs m got, slipAccept bs 0x02 (Chip.clear s.chip) = (Chip.clear s.chip, some m) → s.chip.pair.rxBuf = [] →
      s.chip.pair.dead ≠ some m.no → got = numbered ((m.len - 8) / 64) (memNat m.body 0 4) (m.body.drop 8) →
      slipHeld s.chip + got.length ≤ 65536 → Performs (.slipDataRx bs) s (fun d =>
        (∀ j, kvFind (kvGet [] d.pair.rxBuf m.no) j = kvFind got j) ∧ OnlyPair s.chip d [])) ∧
    (∀ bs m got blocks, slipAccept bs 0x03 (Chip.clear s.chip) = (Chip.clear s.chip, some m) →
      s.chip.pair.rxBuf = [(m.no, got)] → s.chip.pair.dead ≠ some m.no → s.chip.pair.applied = false →
      s.chip.pair.ready = [] → blocks = (got.filter (fun b => decide (b.1 < memNat m.body 0 4))).map (·.2) →
      (blocks.length = memNat m.body 0 4 → memNat m.body 8 8 = slipCheck m.no blocks.flatten →
        Performs (.slipCloseRx bs) s (fun d => d.pair.ready = [⟨m.no, blocks, bit m.flags 0⟩] ∧ d.pair.rxBuf = [] ∧
          OnlyPair s.chip d [])) ∧
      ((blocks.length ≠ memNat m.body 0 4 ∨ memNat m.body 8 8 ≠ slipCheck m.no blocks.flatten) →
        Performs (.slipCloseRx bs) s (fun d => d.pair.ready = [] ∧ d.pair.rxBuf = [] ∧
          d.pair.failRow = s.chip.pair.failRow + 1 ∧ Chip.get d .sag 0x140 = Chip.get s.chip .sag 0x140 + 1 ∧
          Chip.flag d .sag 0x010 14 = true ∧ OnlyPair s.chip d [0x010, 0x068, 0x140]))) ∧
    (∀ (e : SlipIn) (b : List Byte) (rest : List SlipIn), s.chip.pair.ready = e :: rest → pairRole s.chip ∈ [1, 2] →
      e.blocks = [b] → memNat b 0 1 = 3 → bits (memNat b 2 1) 0 0 = 0 → Memory.wf s.chip.mem = true →
      Performs .slipApply s (fun d => d.pair.ready = rest ∧ d.pair.applied = true ∧ d.pair.failRow = 0 ∧
        Chip.get d .sag 0x078 = BitVec.ofNat 64 e.no ∧ Chip.get d .sag 0x138 = Chip.get s.chip .sag 0x138 + 1 ∧
        Chip.rowNat d .cap 0 (memNat b 4 2) 0 8 = max (Chip.rowNat s.chip .cap 0 (memNat b 4 2) 0 8) (memNat b 8 8)))

/-- The serving witness grants a claim of a vacant pair, its lease running from the claim's receipt and HELD, and holds one of a
taken pair, extends its holder's lease, takes a release, and answers QUERY with STATUS (R382, R383). -/
def Obligations.ServingWitnessAnswers : Prop :=
  ∀ s : State, s.paired → Chip.liveFlag s.chip .sag 0x040 24 = true → Memory.wf s.chip.mem = true → s.chip.latent = [] →
    (∀ (n : Fin 512) (bs : List Byte) (m : PairMsg) (r : Nat), witPair s.chip m.sender = some r →
      m.epoch = witRow s.chip r 4 4 →
      (witParse s.chip n bs 0x10 = some (m, true) → m.msg = 0x10 → witRow s.chip r 8 2 ≠ m.sender →
        (∀ first, first = (if witRow s.chip r 10 2 = m.sender then witFirst s.chip r else Clk.abs s.clk) →
          vacantAt s.chip r (Clk.abs s.clk) = true → Performs (.witnessClaimRx n bs) s (fun d =>
          witRow d r 4 4 = (witRow s.chip r 4 4 + 1) % 2 ^ 32 ∧ witRow d r 8 2 = m.sender % 2 ^ 16 ∧
          witRow d r 10 2 = 0xFFFF ∧
          witRow d r 12 8 = (first / 1600 + (Clk.abs s.clk - first) / 1600) % 2 ^ 64 ∧
          d.pair.held = kvErase s.chip.pair.held r)) ∧
        (vacantAt s.chip r (Clk.abs s.clk) = false → witRow s.chip r 10 2 ≠ m.sender → Performs (.witnessClaimRx n bs) s (fun d =>
          witRow d r 10 2 = m.sender % 2 ^ 16 ∧ witRow d r 20 8 = Clk.abs s.clk / 1600 % 2 ^ 64 ∧
          (kvFind d.pair.held r).isSome = true ∧ OnlyPair s.chip { d with mem := s.chip.mem } []))) ∧
      (witParse s.chip n bs 0x11 = some (m, true) → m.msg = 0x11 → witRow s.chip r 8 2 = m.sender → witRow s.chip r 10 2 = 0xFFFF →
        Performs (.witnessRenewRx n bs) s (fun d => witRow d r 12 8 = Clk.abs s.clk / 1600 % 2 ^ 64 ∧
          OnlyPair s.chip { d with mem := s.chip.mem } [])) ∧
      (witParse s.chip n bs 0x12 = some (m, true) → m.msg = 0x12 → witRow s.chip r 8 2 = m.sender → kvFind s.chip.pair.held r = none →
        Performs (.witnessReleaseRx n bs) s (fun d => witRow d r 8 2 = 0xFFFF ∧
          OnlyPair s.chip { d with mem := s.chip.mem } [])) ∧
      (witParse s.chip n bs 0x13 = some (m, true) → m.msg = 0x13 → linkOpen s.chip n = true → Chip.lpbk s.chip n ≠ 2 →
        Performs (.witnessQueryRx n bs) s (fun d =>
          (Chip.port d n).tx.length = (Chip.port s.chip n).tx.length + 1 ∧ (∃ f ∈ (Chip.port d n).tx, f.kind = .pair) ∧
          OnlyPort s.chip d n (probeKeys n)))) ∧
    (∀ (r : Fin 16) (f : WitFrom) (first : Nat), first = witFirst s.chip r.val → kvFind s.chip.pair.held r.val = some f → bit (witRow s.chip r.val 28 1) 0 = true →
      witRow s.chip r.val 10 2 ≠ 0xFFFF → vacantAt s.chip r.val (Clk.abs s.clk) = true →
      Performs (.witnessHeldGrant r) s (fun d => witRow d r.val 8 2 = witRow s.chip r.val 10 2 ∧
        witRow d r.val 10 2 = 0xFFFF ∧ witRow d r.val 4 4 = (witRow s.chip r.val 4 4 + 1) % 2 ^ 32 ∧
        witRow d r.val 12 8 = (first / 1600 + (Clk.abs s.clk - first) / 1600) % 2 ^ 64))

/-! Scrub, repair, the firing check and the cone report. -/

/-- The decoder of a table word (R403): no syndrome is clean; else the lowest symbol that is not zero is the error, and the
nibble whose column times it is the syndrome is corrected; no such column is uncorrectable. So every error within one nibble
of a codeword is corrected, one of a check nibble without touching the data, and one of exactly two nibbles is found. -/
def Obligations.WordErrorsAreLocated : Prop :=
  (∀ s, s < 2 ^ 16 → (s = 0 → eccDecode s = .clean) ∧
    (∀ m, m < 4 → (∀ r, r < m → eccSym s r = 0) → eccSym s m ≠ 0 →
      (∀ j h, eccColumns[j]? = some h → (∀ r, r < 4 → gf16Mul (eccSym s m) (colAt h r) = eccSym s r) →
        eccDecode s = .correct j (eccSym s m)) ∧
      ((∀ h ∈ eccColumns, ∃ r, r < 4 ∧ gf16Mul (eccSym s m) (colAt h r) ≠ eccSym s r) →
        eccDecode s = .uncorrectable))) ∧
  (∀ data, data < 2 ^ 128 → eccFix (eccEncode data) = some (eccEncode data) ∧ eccEncode data % 2 ^ 128 = data ∧
    (∀ j e, j < 36 → 0 < e → e < 16 → eccFix (eccEncode data ^^^ e * 16 ^ j) = some (eccEncode data) ∧
      (32 ≤ j → (eccEncode data ^^^ e * 16 ^ j) % 2 ^ 128 = data)) ∧
    (∀ i j e f, i < j → j < 36 → 0 < e → e < 16 → 0 < f → f < 16 →
      eccFix (eccEncode data ^^^ e * 16 ^ i ^^^ f * 16 ^ j) = none))

/-- The word whose turn it is in its table is checked: a correctable error is counted and remembered (R404, R406), a word that
is a hard fault takes a spare or counts a failure (R408 to R410), and a pass that ends makes what it found that of the previous
pass, and is counted for the largest table (R406, R408, R421); a finished remap is recorded, counted and logged (R409). That a
table is one segment is the model's (assumption 91, DESIGN CHOICE). -/
def Obligations.RowsAreScrubbedAndRepaired : Prop :=
  ∀ (s : State) (p : Page) (t : Fin 256) (r : Fin 262144) (w : Fin 32) (i : TableInfo) (x : Cx) (h h1 : HltSt)
    (at_ words key unit : Nat), s.powered → s.chip.latent = [] →
    Page.present s.chip.part p = true → x = Page.home p → awake s.chip x = true → tableOf s.chip.part p t.val = some i →
    r.val < i.rows → w.val < ceilDiv i.bytes 16 → h = Chip.hltOf s.chip x → at_ = ceilDiv i.bytes 16 * r.val + w.val →
    words = ceilDiv i.bytes 16 * i.rows → key = wordKey p t.val r.val w.val → unit = repairUnit p t.val r.val →
    h1 = { h with scrubAt := kvPut h.scrubAt (tabKey p t.val) ((at_ + 1) % words) } →
    (kvGet 0 h.scrubAt (tabKey p t.val) ≠ at_ → ∀ e hard sh,
      exec (.scrubRead p t r w e hard sh) s = .next { s with chip := s.chip.clear }) ∧
    (kvGet 0 h.scrubAt (tabKey p t.val) = at_ → key ∉ h.suspect → ∀ hard sh,
      (at_ + 1 < words → Performs (.scrubRead p t r w none hard sh) s (fun d => Chip.hltOf d x = h1 ∧
        d.mem = s.chip.mem ∧ d.logs = s.chip.logs ∧ OnlyHealth s.chip d [])) ∧
      (at_ + 1 = words → Performs (.scrubRead p t r w none hard sh) s (fun d =>
        Chip.hltOf d x = { h1 with
          seenPrev := h.seenPrev.filter (fun a => decide (a.1 ≠ tabKey p t.val)) ++
            h.seen.filter (fun a => decide (a.1 = tabKey p t.val))
          seen := h.seen.filter (fun a => decide (a.1 ≠ tabKey p t.val)) } ∧
        Chip.get d (hltPage x) 0x118 = Chip.get s.chip (hltPage x) 0x118 + (if words = 1048576 then 1 else 0) ∧
        d.mem = s.chip.mem ∧ d.logs = s.chip.logs ∧ OnlyHealth s.chip d [regKey (hltPage x) 0x118])) ∧
      (∀ (e : EccErr) (j v : Nat), at_ + 1 < words → eccDecode e.synd = .correct j v → (tabKey p t.val, at_) ∉ h.seen →
        ((tabKey p t.val, at_) ∉ h.seenPrev → Performs (.scrubRead p t r w (some e) hard sh) s (fun d =>
          Chip.hltOf d x = { h1 with corr := h.corr + 1, seen := (tabKey p t.val, at_) :: h.seen } ∧
          Chip.get d (hltPage x) 0x100 = Chip.get s.chip (hltPage x) 0x100 + 1 ∧
          (Chip.flag s.chip p 0x020 30 = false → Chip.get d p 0x024 = BitVec.ofNat 64 (tableAddr t.val r.val) ∧
            Chip.fld d p 0x020 19 16 = 1 ∧ Chip.fld d p 0x020 22 20 = 2) ∧ d.mem = s.chip.mem ∧
          OnlyHealth s.chip d (regKey (hltPage x) 0x100 :: [0x010, 0x020, 0x024].map (regKey p)))) ∧
        ((tabKey p t.val, at_) ∈ h.seenPrev → kvGet 0 h.spares unit < 4 →
          (∀ m ∈ h.remaps, m.1 ≠ p ∨ m.2.1 ≠ t.val ∨ m.2.2.1 ≠ r.val) →
          Performs (.scrubRead p t r w (some e) true sh) s (fun d =>
            (Chip.hltOf d x).spares = kvPut h.spares unit (kvGet 0 h.spares unit + 1) ∧
            (Chip.hltOf d x).remaps = h.remaps ++ [(p, t.val, r.val, kvGet 0 h.spares unit, false)])))) ∧
    (kvGet 0 h.scrubAt (tabKey p t.val) = at_ → at_ + 1 < words → key ∈ h.suspect →
      (∀ m ∈ h.remaps, m.1 ≠ p ∨ m.2.1 ≠ t.val ∨ m.2.2.1 ≠ r.val) →
      (kvGet 0 h.spares unit < 4 → Performs (.scrubRead p t r w none true false) s (fun d =>
        (Chip.hltOf d x).spares = kvPut h.spares unit (kvGet 0 h.spares unit + 1) ∧
        (Chip.hltOf d x).remaps = h.remaps ++ [(p, t.val, r.val, kvGet 0 h.spares unit, true)] ∧
        key ∉ (Chip.hltOf d x).suspect ∧ OnlyHealth s.chip d [])) ∧
      (4 ≤ kvGet 0 h.spares unit → Performs (.scrubRead p t r w none true false) s (fun d =>
        (Chip.hltOf d x).remaps = h.remaps ∧ key ∉ (Chip.hltOf d x).suspect ∧
        Chip.get d (hltPage x) 0x128 = Chip.get s.chip (hltPage x) 0x128 + 1 ∧ Chip.flag d (hltPage x) 0x010 9 = true ∧
        Logged s.clk s.chip d x 0x19 p (r.val % 2 ^ 24 + t.val * 2 ^ 24) ∧
        OnlyHealth s.chip d (logKeys x ++ [0x010, 0x128].map (regKey (hltPage x)))))) ∧
    (∀ (spare : Nat) (bad : Bool) (n : Nat), h.remaps = [(p, t.val, r.val, spare, bad)] → Memory.wf s.chip.mem = true →
      n = (Chip.get s.chip (hltPage x) 0x120).toNat % 1024 → Performs (.remapDone p t r) s (fun d =>
        Chip.hltOf d x = { h with remaps := [] } ∧ Chip.rowNat d (hltPage x) 0 n 4 4 = r.val % 2 ^ 24 ∧
        Chip.rowNat d (hltPage x) 0 n 8 1 = spare % 256 ∧ Chip.rowNat d (hltPage x) 0 n 9 1 = 1 + 2 * b2n bad ∧
        Chip.get d (hltPage x) 0x120 = Chip.get s.chip (hltPage x) 0x120 + 1 ∧ Chip.flag d (hltPage x) 0x010 8 = true ∧
        OnlyHealth s.chip d (logKeys x ++ [0x010, 0x120].map (regKey (hltPage x)))))

/-- An engine leaves for its test at clock 0, returns untested if it has not drained, and is returned or held by its signature
(R411, R413); a loopback frame is counted (R414); a trim moves a lane at most 2 ps, within 20 ps (R411); a figure of merit is
sampled and compared (R415). -/
def Obligations.FiringCheckTestsAndWatches : Prop :=
  ∀ (s : State) (x : Cx) (h : HltSt), s.ready x → h = Chip.hltOf s.chip x →
    (∀ sl : Fin 8, x = cxOfSlice sl →
      (∀ e : Fin 16, checkMay s.chip x = true → Chip.liveFlag s.chip (hltPage x) 0x040 1 = true → throttled s.chip x = false →
        s.clk.clock = 0 → Chip.liveFlag s.chip (prsPage sl) 0x044 e.val = true → kvFind h.lastTest sl.val = none →
        (∀ t ∈ h.rotated ++ h.held ++ h.testing, t.1 ≠ sl.val) →
        14 ≤ ((enginesIn s.chip sl).filter (fun a => decide (a ≠ e.val))).length →
        Performs (.engineTestStart sl e) s (fun d => Chip.hltOf d x = { h with
          testing := h.testing ++ [(sl.val, e.val)], rotated := h.rotated ++ [(sl.val, e.val)]
          lastTest := kvPut h.lastTest sl.val s.clk.turn } ∧ d.logs = s.chip.logs ∧ OnlyHealth s.chip d [])) ∧
      (∀ e, underTest s.chip sl = some e →
        (512 ≤ s.clk.clock → engineDrained s.chip sl e = false → Performs (.engineTestAbandon sl) s (fun d =>
          Chip.hltOf d x = { h with testing := h.testing.filter (fun t => decide (t ≠ (sl.val, e))) } ∧
          Chip.get d (hltPage x) 0x140 = Chip.get s.chip (hltPage x) 0x140 + 1 ∧
          OnlyHealth s.chip d [regKey (hltPage x) 0x140])) ∧
        (engineDrained s.chip sl e = true →
          Performs (.engineTestEnd sl Config.engineSig) s (fun d =>
            Chip.hltOf d x = { h with finished := h.finished ++ [(sl.val, e)] } ∧
            Chip.get d (hltPage x) 0x130 = Chip.get s.chip (hltPage x) 0x130 + 1 ∧
            OnlyHealth s.chip d [regKey (hltPage x) 0x130]) ∧
          (∀ sig, sig ≠ Config.engineSig → Performs (.engineTestEnd sl sig) s (fun d =>
            (sl.val, e) ∈ (Chip.hltOf d x).held ∧ (sl.val, e) ∉ (Chip.hltOf d x).testing ∧
            Chip.get d (hltPage x) 0x138 = Chip.get s.chip (hltPage x) 0x138 + 1 ∧ Chip.flag d (hltPage x) 0x010 10 = true ∧
            Logged s.clk s.chip d x 0x20 (prsPage sl) (e + sig.toNat * 2 ^ 32) ∧
            OnlyHealth s.chip d (logKeys x ++ [0x010, 0x130, 0x138].map (regKey (hltPage x)))))))) ∧
    (∀ g : Fin 64, x = cxOfPg g → checkMay s.chip x = true → Chip.liveFlag s.chip (hltPage x) 0x040 2 = true →
      throttled s.chip x = false → kvFind h.loopTurn g.val ≠ some s.clk.turn → segmentsOf s.chip g.val + 16 ≤ 1024 →
      busFree s.chip g.val = true → busFree s.chip (64 + g.val) = true →
      Performs (.loopbackFrame g none) s (fun d => Chip.get d (hltPage x) 0x148 = Chip.get s.chip (hltPage x) 0x148 + 1 ∧
        g.val ∉ (Chip.hltOf d x).loopBad ∧ OnlyHealth s.chip { d with bus := s.chip.bus } [regKey (hltPage x) 0x148]) ∧
      (∀ b : Fin 16, Performs (.loopbackFrame g (some b)) s (fun d => g.val ∈ (Chip.hltOf d x).loopBad ∧
        Chip.get d (hltPage x) 0x150 = Chip.get s.chip (hltPage x) 0x150 + 1 ∧ Chip.flag d (hltPage x) 0x010 11 = true ∧
        Logged s.clk s.chip d x 0x22 (hltPage x) (g.val % 32 + b.val * 2 ^ 8) ∧
        OnlyHealth s.chip { d with bus := s.chip.bus } (logKeys x ++ [0x010, 0x148, 0x150].map (regKey (hltPage x)))))) ∧
    (∀ (l : Nat) (v : Int), l < 256 → Chip.enabled s.chip (hltPage x) = true →
      Chip.liveFlag s.chip (hltPage x) 0x040 3 = true → hltWindowed s.chip = false → h.trimTurn ≠ some s.clk.turn →
      Performs (.distributionTrim x [(l, v)]) s (fun d =>
        kvGet 0 (Chip.hltOf d x).comp l = max (-20) (min 20 (kvGet 0 h.comp l + max (-2) (min 2 v))) ∧
        (∀ j, j ≠ l → kvGet 0 (Chip.hltOf d x).comp j = kvGet 0 h.comp j) ∧ OnlyHealth s.chip d [])) ∧
    (∀ (lanes : List (Nat × LaneReport)) (i v : Nat) (r : LaneReport) (p : Page), i < 256 →
      (laneOwner s.chip (laneOf x i)).isSome = true → kvFind lanes i = some r → v = r.fom % 65536 →
      p = lnePage (laneOf x i) →
      Performs (.fomWatch x lanes) s (fun d => Chip.fld d p 0x048 15 0 = v ∧
        Chip.fld d p 0x048 31 16 = min (Chip.fld s.chip p 0x048 31 16) v ∧
        (∀ ws, r.dfe = some ws → bit (laneStat s.chip (laneOf x i)) 0 = true →
          (∀ j, j < 4 → Chip.get d p (0x050 + 4 * j) = BitVec.ofNat 64 (ws.getD j 0).toNat) ∧
          Chip.get d p 0x064 = BitVec.ofNat 64 (ws.getD 4 0).toNat ∧
          Chip.get d p 0x060 = BitVec.ofNat 64 (min 124 (max 17 ((ws.getD 5 0).toNat % 128)))) ∧
        (Chip.enabled s.chip (hltPage x) = true → h.fomTurn ≠ some s.clk.turn →
          (v < Chip.fld s.chip p 0x04C 31 16 → Chip.flag d p 0x010 9 = true) ∧
          (v < Chip.fld s.chip p 0x04C 15 0 → kvGet 0 (Chip.hltOf d x).fomLow i = kvGet 0 h.fomLow i + 1 ∧
            (kvGet 0 h.fomLow i = 15 → Chip.flag d p 0x010 10 = true))) ∧
        OnlyHealth s.chip d (logKeys x ++ (List.range 256).flatMap (fun j =>
          [0x010, 0x048, 0x050, 0x054, 0x058, 0x05C, 0x060, 0x064].map (regKey (lnePage (laneOf x j)))))))

/-- A cone report is built once in the turn that begins a slip epoch (R416, R417); OPEN and CLOSE are noted for the boundary
in windowed mode, a periodic window opens, and a window ends after LEN turns (R412). A temperature reading is shown with the
highest so far and compared with the warning level (R438 to R440); the fourth reading in a row at or above THR makes the
throttle due at the next turn boundary (R441). -/
def Obligations.ReportsWindowsAndTemperature : Prop :=
  (∀ (s : State) (x : Cx) (h : HltSt), h = Chip.hltOf s.chip x →
       (∀ fatal, s.ready x → Chip.enabled s.chip (hltPage x) = true → s.clk.turn % 16 = 0 → h.built ≠ some (s.clk.turn / 16) →
         fatal = decide (fatalBits s.chip x &&& Chip.live s.chip (hltPage x) 0x040 12 8 ≠ 0) →
         Performs (.healthReport x) s (fun d =>
           Chip.get d (hltPage x) 0x058 = BitVec.ofNat 64 (coneWord s.clk x fatal s.chip) ∧
           Chip.flag d (hltPage x) 0x04C 3 = degraded s.chip x ∧ Chip.flag d (hltPage x) 0x04C 2 = fatal ∧
           Chip.flag d (hltPage x) 0x010 13 = true ∧
           (fatal = true → Chip.flag d (hltPage x) 0x04C 4 = true ∧ Chip.flag d (hltPage x) 0x010 12 = true) ∧
           Chip.hltOf d x = { h with
             corr := 0, uncorr := 0, bus := 0, noSpare := false, loopPrev := h.loopBad, built := some (s.clk.turn / 16) } ∧
           (hasCx s.chip.part 1 = false → x = 0 → Chip.get d (hltPage 0) 0x060 = Chip.get d (hltPage 0) 0x058) ∧
           OnlyHealth s.chip d (regKey (hltPage 0) 0x060 :: [0x010, 0x04C, 0x058].map (regKey (hltPage x))))) ∧
       (s.writable (hltPage x) → hltWindowed s.chip = true →
         Writes (.windowOpen x) s (fun d => Chip.hltOf d x = { h with wantOpen := true } ∧
           OnlyHealth s.chip d [regKey (hltPage x) 0x048]) ∧
         Writes (.windowClose x) s (fun d => Chip.hltOf d x = { h with wantShut := true } ∧
           OnlyHealth s.chip d [regKey (hltPage x) 0x048])) ∧
       (∀ period, s.ready x → hltWindowed s.chip = true → Chip.enabled s.chip (hltPage x) = true →
         period = Chip.live s.chip (hltPage x) 0x044 31 16 → period ≠ 0 → s.clk.turn % (16 * period) = 0 → s.clk.clock = 0 →
         h.window ≠ some s.clk.turn → Performs (.periodicWindowOpen x) s (fun d =>
           Chip.hltOf d x = { h with window := some s.clk.turn } ∧ Chip.flag d (hltPage x) 0x04C 0 = true ∧
           Logged s.clk s.chip d x 0x41 (hltPage x) (1 + Chip.live s.chip (hltPage x) 0x044 15 0 * 2 ^ 16) ∧
           OnlyHealth s.chip d (regKey (hltPage x) 0x04C :: logKeys x))) ∧
       (∀ t, s.ready x → h.window = some t → t + max 1 (Chip.live s.chip (hltPage x) 0x044 15 0) ≤ s.clk.turn →
         Performs (.windowEnd x) s (fun d => Chip.hltOf d x = { h with window := none } ∧
           Chip.flag d (hltPage x) 0x04C 0 = false ∧
           Logged s.clk s.chip d x 0x41 (hltPage x) (Chip.live s.chip (hltPage x) 0x044 15 0 * 2 ^ 16) ∧
           OnlyHealth s.chip d (regKey (hltPage x) 0x04C :: logKeys x)))) ∧
  (∀ (s : State) (x : Cx) (v : BitVec 16) (t : ThermSt) (p : Page) (thr low : Int), s.ready x → p = cpxPage x →
       t = Chip.thermOf s.chip x → t.read_ ≠ some s.clk.turn → thr = Chip.live s.chip p 0x184 7 0 * 4 →
       low = thr - Chip.live s.chip p 0x184 11 8 * 4 →
       Performs (.tempReading x v) s (fun d => Chip.fld d p 0x180 15 0 = v.toNat ∧
         signed 16 (Chip.fld d p 0x180 31 16) = max v.toInt (signed 16 (Chip.fld s.chip p 0x180 31 16)) ∧
         (Chip.flag d p 0x18C 1 = true ↔ low ≤ v.toInt) ∧
         (low ≤ v.toInt → Chip.flag s.chip p 0x18C 1 = false → Chip.flag d p 0x010 9 = true) ∧
         (Chip.thermOf d x).hot = (if thr ≤ v.toInt then t.hot + 1 else 0) ∧
         (throttled s.chip x = false → thr ≤ v.toInt → 3 ≤ t.hot → (Chip.thermOf d x).due = some (true, false, v.toNat)) ∧
         (throttled s.chip x = true → v.toInt < low → 63 ≤ t.cool → Chip.liveFlag s.chip p 0x184 24 = false →
           (Chip.thermOf d x).due = some (false, false, v.toNat)) ∧
         OnlyRegs s.chip { d with therm := s.chip.therm } ([0x010, 0x180, 0x18C].map (regKey p))))
/-! The crazing log, the Sweep and temperature. -/

/-- A software mark is written to the log with ENTRY and its cause, merged into an equal entry of the same turn, or dropped by a
frozen log that is full (R418 to R420); FREEZE restarts the fullness count (R418). -/
def Obligations.MarksAreLogged : Prop :=
  ∀ (s : State) (x : Cx) (st : LogSt) (lp : Page) (key : Nat × Nat × Nat × Nat × Nat), lp = onePage x .log → s.writable lp →
    st = Chip.logSt s.chip x →
    key = (s.clk.turn, 0xF0, Page.code lp, Page.instNum lp, (Chip.get s.chip lp 0x048).toNat) →
    (st.last ≠ some key → Chip.flag s.chip lp 0x040 0 = false → Memory.wf s.chip.mem = true →
      Writes (.logMarkWrite x) s (fun d => Chip.logSt d x = { st with entry := st.entry + 1, last := some key } ∧
        Chip.row d lp 0 (st.entry % 4096) 0 32 =
          logBytes s.clk st.entry 0xF0 (Page.code lp) (Page.instNum lp) (Chip.get s.chip lp 0x048).toNat ∧
        (∀ a, a < rowKey lp 0 (st.entry % 4096) ∨ rowKey lp 0 (st.entry % 4096) + 32 ≤ a →
          memGet d.mem a = memGet s.chip.mem a) ∧ Chip.flag d lp 0x010 8 = true ∧
        (4096 ≤ st.entry → Chip.get d lp 0x080 = Chip.get s.chip lp 0x080 + 1) ∧
        OnlyHealth s.chip d (regKey lp 0x050 :: logKeys x))) ∧
    (st.last = some key → Memory.wf s.chip.mem = true → Writes (.logMarkWrite x) s (fun d => d.logs = s.chip.logs ∧
      Chip.rowNat d lp 0 ((st.entry + 4095) % 4096) 22 2 =
        min 0xFFFF (Chip.rowNat s.chip lp 0 ((st.entry + 4095) % 4096) 22 2 + 1) ∧
      Chip.get d lp 0x090 = Chip.get s.chip lp 0x090 + 1 ∧ OnlyHealth s.chip d (regKey lp 0x050 :: logKeys x))) ∧
    (st.last ≠ some key → Chip.flag s.chip lp 0x040 0 = true → st.frozen + 4096 ≤ st.entry →
      Writes (.logMarkWrite x) s (fun d => d.logs = s.chip.logs ∧ d.mem = s.chip.mem ∧
        Chip.get d lp 0x088 = Chip.get s.chip lp 0x088 + 1 ∧ Chip.flag d lp 0x010 9 = true ∧
        OnlyHealth s.chip d (regKey lp 0x050 :: logKeys x))) ∧
    Writes (.logFreezeWrite x) s (fun d => Chip.logSt d x = { st with frozen := st.entry } ∧
      Chip.flag d lp 0x040 0 = true ∧ OnlyHealth s.chip d [regKey lp 0x040])

/-- START asks for a pass and STOP ends a running one, with the chunk due if one is, and a waiting one (R435); a pass starts with a good list, or fails by name (R426, R428); a
chunk is written data first, then its header (R427, R429); the record ends the pass (R432). -/
def Obligations.SweepPassesRun : Prop :=
  ∀ (s : State) (x : Cx) (g : SweepSt) (p : Page), p = swpPage x → g = Chip.swpOf s.chip x →
    (s.writable p →
      (swpState s.chip x = 0 → g.asked = none → Writes (.sweepStart x) s (fun d =>
        Chip.swpOf d x = { g with asked := some s.clk.turn } ∧ Chip.get d p 0x060 = Chip.get s.chip p 0x060 + 1 ∧
        OnlyRegs s.chip { d with sweep := s.chip.sweep } [regKey p 0x044, regKey p 0x060])) ∧
      (swpState s.chip x = 0 → Writes (.sweepStop x) s (fun d => OnlyRegs s.chip d [regKey p 0x044])) ∧
      (swpState s.chip x = 2 → Writes (.sweepStop x) s (fun d => swpState d x = 0 ∧ d.sweep = s.chip.sweep ∧
        OnlyRegs s.chip d [regKey p 0x044, regKey p 0x054])) ∧
      (swpState s.chip x = 1 → g.ended = true ∨ g.due ≤ s.clk.turn → Writes (.sweepStop x) s (fun d =>
        Chip.swpOf d x = { g with stop := true } ∧
        OnlyRegs s.chip { d with sweep := s.chip.sweep } [regKey p 0x044])) ∧
      (swpState s.chip x = 1 → g.ended = false → s.clk.turn < g.due → Writes (.sweepStop x) s (fun d =>
        Chip.swpOf d x = { g with stop := true, ended := true, due := s.clk.turn + 1 } ∧
        OnlyRegs s.chip { d with sweep := s.chip.sweep } [regKey p 0x044]))) ∧
    (∀ (t : Nat) (ds : List SweepDesc), s.ready x → Chip.accepting s.chip p = true → s.clk.clock = 0 → g.asked = some t →
      t < s.clk.turn → s.chip.latent = [] → ds = sweepList s.chip x →
      ((∀ e ∈ ds, sweepBad s.chip x e = false) → sweepChunks ds < Chip.live s.chip p 0x050 19 0 →
        funcRuns s.chip (Chip.live s.chip p 0x040 13 8) = true → Performs (.sweepPassStart x) s (fun d => swpState d x = 1 ∧
          Chip.get d p 0x05C = BitVec.ofNat 64 (sweepChunks ds) ∧ Chip.get d p 0x068 = 0 ∧
          Chip.fld d p 0x054 8 8 = (Chip.get s.chip p 0x060).toNat % 2 ∧
          (Chip.swpOf d x).running = true ∧ (Chip.swpOf d x).list = ds ∧ (Chip.swpOf d x).due = s.clk.turn ∧
          (Chip.swpOf d x).base = (Chip.getLive s.chip p 0x048).toNat / 4096 * 4096 +
            (Chip.get s.chip p 0x060).toNat % 2 * Chip.live s.chip p 0x050 19 0 * 4096 ∧
          OnlyRegs s.chip { d with sweep := s.chip.sweep } ([0x054, 0x05C, 0x068].map (regKey p)))) ∧
      ((∀ e ∈ ds, sweepBad s.chip x e = false) → Chip.live s.chip p 0x050 19 0 ≤ sweepChunks ds →
        Performs (.sweepPassStart x) s (fun d => swpState d x = 0 ∧ Chip.fld d p 0x054 7 4 = 2 ∧
          (Chip.swpOf d x).running = false ∧ (Chip.swpOf d x).asked = none ∧
          Chip.get d p 0x120 = Chip.get s.chip p 0x120 + 1 ∧ Chip.flag d p 0x010 9 = true ∧
          OnlyRegs s.chip { d with sweep := s.chip.sweep } ([0x010, 0x054, 0x120].map (regKey p)))) ∧
      (∀ r, ds.findIdx? (sweepBad s.chip x) = some r → Performs (.sweepPassStart x) s (fun d => swpState d x = 0 ∧
        Chip.fld d p 0x054 7 4 = 1 ∧ Chip.get d p 0x058 = BitVec.ofNat 64 r ∧
        Chip.get d p 0x120 = Chip.get s.chip p 0x120 + 1 ∧
        OnlyRegs s.chip { d with sweep := s.chip.sweep } ([0x010, 0x054, 0x058, 0x120].map (regKey p))))) ∧
    (∀ (data : List Byte) (n slot : Nat), s.ready x → g.running = true → g.ended = false → g.due = s.clk.turn →
      64 ≤ s.clk.clock → s.chip.latent = [] → n = (Chip.get s.chip p 0x068).toNat → slot = g.base + 4096 * (n + 1) →
      data = (dueSlices g).zipIdx.flatMap (fun q => (readSlice s.clk x g.list [] q (Chip.clear s.chip)).2.1) →
      Performs (.sweepChunk x []) s (fun d => Chip.get d p 0x068 = BitVec.ofNat 64 (n + 1) ∧
        Chip.get d p 0x100 = Chip.get s.chip p 0x100 + 1 ∧
        (∃ hd, d.out = writesOf s.chip g.func (slot + 64) data ++ writesOf s.chip g.func slot hd ∧ hd.length = 64 ∧
          memNat hd 0 8 = (Chip.get s.chip p 0x060).toNat ∧ memNat hd 8 8 = s.clk.turn % 2 ^ 64 ∧
          memNat hd 24 4 = n % 2 ^ 32 ∧
          memNat hd 60 4 = sweepCheck s.clk.turn (hd.take 60 ++ data) % 2 ^ 32) ∧
        (Chip.swpOf d x).last = s.clk.turn ∧ (Chip.swpOf d x).due = s.clk.turn + 1 ∧
        (Chip.swpOf d x).ended = (decide ((Chip.get s.chip p 0x05C).toNat ≤ n + 1) || g.stop) ∧
        OnlyRegs s.chip { d with sweep := s.chip.sweep } ([0x068, 0x100, 0x118].map (regKey p)))) ∧
    (s.ready x → g.running = true → g.ended = true → g.due ≤ s.clk.turn → 64 ≤ s.clk.clock →
      Performs (.sweepPassRecord x) s (fun d =>
        (∃ r, d.out = writesOf s.chip g.func g.base r ∧ r.length = 64 ∧ memNat r 0 8 = (Chip.get s.chip p 0x060).toNat ∧
          ((Chip.get s.chip p 0x05C).toNat ≠ 0 → memNat r 8 8 = g.start % 2 ^ 64 ∧ memNat r 16 8 = g.last % 2 ^ 64) ∧
          memNat r 28 4 = g.missing % 2 ^ 32) ∧
        (Chip.swpOf d x).running = false ∧ Chip.get d p 0x110 = Chip.get s.chip p 0x110 + 1 ∧
        Chip.flag d p 0x010 8 = true ∧ Chip.fld d p 0x054 7 4 = (if g.stop then 4 else 0) ∧
        swpState d x = (if Chip.liveFlag s.chip p 0x040 0 && !g.stop then 2 else 0) ∧
        OnlyRegs s.chip { d with sweep := s.chip.sweep } ([0x010, 0x054, 0x070, 0x110].map (regKey p))))
end

