-- ==== Sys2Proof/Laws/Ecc.lean ====
section
/-!
SUPPORT. Reads of table rows in which no error stands (R75, R404): they change nothing.
-/
namespace Sys2Proof.Machine

theorem meet_nil (k : Clk) (source : Nat) (reads : LookupErr → Bool) (c : Chip) (h : c.latent = []) :
    meet k source reads c = c := by
  cases c; simp_all [meet]

theorem meetRows_nil (k : Clk) (source : Nat) (p : Page) (t : Nat) (rows : List Nat) (c : Chip) (h : c.latent = []) :
    meetRows k source p t rows c = c := meet_nil k source _ c h

theorem standing_nil (p : Page) (t r : Nat) (w : Option Nat) (c : Chip) (h : c.latent = []) :
    standing p t r w c = (none, c) := by
  simp [standing, h]

theorem rewritten_nil (p : Page) (t r : Nat) (c : Chip) (h : c.latent = []) : rewritten p t r c = c := by
  cases c; simp_all [rewritten]

/-- Of a row written anew no error is left. -/
theorem rewritten_latent (p : Page) (t r : Nat) (c : Chip) :
    ∀ e ∈ (rewritten p t r c).latent, LookupErr.inRows p t [r] e = false := by
  simp [rewritten]

end Sys2Proof.Machine
end

