-- ==== Sys2Proof/Laws/Sparse.lean ====
section
/-!
SUPPORT. The sparse stores: a read after a write, and the canonical form of a byte store, which every memory operation keeps.
-/
namespace Sys2Proof.Machine

/-! Reads after writes. -/

theorem kvFind_kvPut_self {β : Type} (m : List (Nat × β)) (k : Nat) (v : β) : kvFind (kvPut m k v) k = some v := by
  induction m with
  | nil => simp [kvPut, kvFind]
  | cons e m ih =>
    obtain ⟨a, w⟩ := e
    rcases lt_trichotomy k a with h | h | h
    · simp [kvPut, kvFind, h]
    · subst h; simp [kvPut, kvFind]
    · have h1 : ¬ k < a := by omega
      have h2 : ¬ k = a := by omega
      have h3 : ¬ a = k := by omega
      simp [kvPut, kvFind, h1, h2, h3, ih]

theorem kvFind_kvPut_ne {β : Type} (m : List (Nat × β)) {k j : Nat} (v : β) (h : j ≠ k) :
    kvFind (kvPut m k v) j = kvFind m j := by
  induction m with
  | nil => simp [kvPut, kvFind, Ne.symm h]
  | cons e m ih =>
    obtain ⟨a, w⟩ := e
    by_cases h1 : k < a
    · simp [kvPut, kvFind, h1, Ne.symm h]
    · by_cases h2 : k = a
      · subst h2; simp [kvPut, kvFind, Ne.symm h]
      · simp [kvPut, kvFind, h1, h2, ih]

theorem kvGet_eq_kvFind {β : Type} (d : β) (m : List (Nat × β)) (k : Nat) : kvGet d m k = (kvFind m k).getD d := by
  induction m with
  | nil => rfl
  | cons e m ih =>
    obtain ⟨a, w⟩ := e
    by_cases h : a = k
    · simp [kvGet, kvFind, h]
    · simp [kvGet, kvFind, h, ih]

@[simp] theorem kvGet_kvPut_self {β : Type} (d : β) (m : List (Nat × β)) (k : Nat) (v : β) : kvGet d (kvPut m k v) k = v := by
  simp [kvGet_eq_kvFind, kvFind_kvPut_self]

theorem kvGet_kvPut_ne {β : Type} (d : β) (m : List (Nat × β)) {k j : Nat} (v : β) (h : j ≠ k) :
    kvGet d (kvPut m k v) j = kvGet d m j := by
  simp [kvGet_eq_kvFind, kvFind_kvPut_ne m v h]

theorem kvFind_kvErase_ne {β : Type} (m : List (Nat × β)) {k j : Nat} (h : j ≠ k) :
    kvFind (kvErase m k) j = kvFind m j := by
  induction m with
  | nil => rfl
  | cons e m ih =>
    obtain ⟨a, w⟩ := e
    by_cases h1 : a = k
    · subst h1; simp [kvErase, kvFind, Ne.symm h]
    · simp [kvErase, kvFind, h1, ih]

/-! Rising keys. -/

/-- Every key is above `b`. -/
def kvAbove {β : Type} (b : Nat) (m : List (Nat × β)) : Prop := ∀ e ∈ m, b < e.1

theorem kvSorted_cons {β : Type} (a : Nat) (w : β) (m : List (Nat × β)) :
    kvSorted ((a, w) :: m) = true ↔ kvAbove a m ∧ kvSorted m = true := by
  induction m generalizing a w with
  | nil => simp [kvSorted, kvAbove]
  | cons e m ih =>
    obtain ⟨b, x⟩ := e
    constructor
    · intro h
      simp only [kvSorted, Bool.and_eq_true, decide_eq_true_eq] at h
      refine ⟨?_, h.2⟩
      intro e he
      rcases List.mem_cons.mp he with rfl | he
      · exact h.1
      · exact lt_trans h.1 (((ih b x).mp h.2).1 e he)
    · rintro ⟨h1, h2⟩
      simp only [kvSorted, Bool.and_eq_true, decide_eq_true_eq]
      exact ⟨h1 (b, x) (by simp), h2⟩

theorem kvAbove_kvPut {β : Type} {b : Nat} {m : List (Nat × β)} {k : Nat} {v : β} (h : kvAbove b m) (hk : b < k) :
    kvAbove b (kvPut m k v) := by
  induction m with
  | nil => intro e he; simp [kvPut] at he; subst he; exact hk
  | cons e m ih =>
    obtain ⟨a, w⟩ := e
    intro e he
    by_cases h1 : k < a
    · simp only [kvPut, h1, if_true] at he
      rcases List.mem_cons.mp he with rfl | he
      · exact hk
      · exact h e he
    · by_cases h2 : k = a
      · subst h2
        simp only [kvPut, lt_irrefl, if_false, if_true] at he
        rcases List.mem_cons.mp he with rfl | he
        · exact hk
        · exact h e (by simp [he])
      · simp only [kvPut, h1, h2, if_false] at he
        rcases List.mem_cons.mp he with rfl | he
        · exact h (a, w) (by simp)
        · exact ih (fun x hx => h x (by simp [hx])) e he

theorem kvSorted_kvPut {β : Type} {m : List (Nat × β)} {k : Nat} {v : β} (h : kvSorted m = true) :
    kvSorted (kvPut m k v) = true := by
  induction m with
  | nil => rfl
  | cons e m ih =>
    obtain ⟨a, w⟩ := e
    have h' := (kvSorted_cons a w m).mp h
    by_cases h1 : k < a
    · simp only [kvPut, h1, if_true]
      refine (kvSorted_cons k v _).mpr ⟨?_, h⟩
      intro e he
      rcases List.mem_cons.mp he with rfl | he
      · exact h1
      · exact lt_trans h1 (h'.1 e he)
    · by_cases h2 : k = a
      · subst h2
        simp only [kvPut, lt_irrefl, if_false, if_true]
        exact (kvSorted_cons k v m).mpr h'
      · simp only [kvPut, h1, h2, if_false]
        exact (kvSorted_cons a w _).mpr ⟨kvAbove_kvPut h'.1 (by omega), ih h'.2⟩

theorem mem_kvErase {β : Type} {m : List (Nat × β)} {k : Nat} {e : Nat × β} (h : e ∈ kvErase m k) : e ∈ m := by
  induction m with
  | nil => simp [kvErase] at h
  | cons x m ih =>
    obtain ⟨a, w⟩ := x
    by_cases h1 : a = k
    · simp [kvErase, h1] at h; simp [h]
    · simp only [kvErase, h1, if_false] at h
      rcases List.mem_cons.mp h with rfl | h
      · simp
      · simp [ih h]

theorem kvSorted_kvErase {β : Type} {m : List (Nat × β)} {k : Nat} (h : kvSorted m = true) :
    kvSorted (kvErase m k) = true := by
  induction m with
  | nil => rfl
  | cons e m ih =>
    obtain ⟨a, w⟩ := e
    have h' := (kvSorted_cons a w m).mp h
    by_cases h1 : a = k
    · simp [kvErase, h1, h'.2]
    · simp only [kvErase, h1, if_false]
      exact (kvSorted_cons a w _).mpr ⟨fun x hx => h'.1 x (mem_kvErase hx), ih h'.2⟩

theorem kvSorted_filter {β : Type} {m : List (Nat × β)} (f : Nat × β → Bool) (h : kvSorted m = true) :
    kvSorted (m.filter f) = true := by
  induction m with
  | nil => rfl
  | cons e m ih =>
    obtain ⟨a, w⟩ := e
    have h' := (kvSorted_cons a w m).mp h
    by_cases h1 : f (a, w) = true
    · rw [List.filter_cons_of_pos h1]
      exact (kvSorted_cons a w _).mpr ⟨fun x hx => h'.1 x (List.mem_of_mem_filter hx), ih h'.2⟩
    · rw [List.filter_cons_of_neg h1]
      exact ih h'.2

theorem kvFind_kvErase_self {β : Type} {m : List (Nat × β)} {k : Nat} (h : kvSorted m = true) :
    kvFind (kvErase m k) k = none := by
  induction m with
  | nil => rfl
  | cons e m ih =>
    obtain ⟨a, w⟩ := e
    have h' := (kvSorted_cons a w m).mp h
    by_cases h1 : a = k
    · subst h1
      simp only [kvErase, if_true]
      have key : ∀ (l : List (Nat × β)), kvAbove a l → kvFind l a = none := by
        intro l
        induction l with
        | nil => intro _; rfl
        | cons x l il =>
          obtain ⟨b, y⟩ := x
          intro hl
          have hb : a < b := hl (b, y) (by simp)
          have hne : ¬ b = a := by omega
          simp only [kvFind, hne, if_false]
          exact il (fun z hz => hl z (by simp [hz]))
      exact key m h'.1
    · simp only [kvErase, kvFind, h1, if_false]
      exact ih h'.2

/-! The canonical form of a byte store. -/

theorem Memory.wf_iff (m : List Host.Cell) : Memory.wf m = true ↔ kvSorted m = true ∧ ∀ e ∈ m, e.2 ≠ 0 := by
  simp [Memory.wf]

theorem mem_kvPut {β : Type} {m : List (Nat × β)} {k : Nat} {v : β} {e : Nat × β} (h : e ∈ kvPut m k v) :
    e = (k, v) ∨ e ∈ m := by
  induction m with
  | nil => simp [kvPut] at h; exact Or.inl h
  | cons x m ih =>
    obtain ⟨a, w⟩ := x
    by_cases h1 : k < a
    · simp only [kvPut, h1, if_true] at h
      rcases List.mem_cons.mp h with rfl | h
      · exact Or.inl rfl
      · exact Or.inr h
    · by_cases h2 : k = a
      · subst h2
        simp only [kvPut, lt_irrefl, if_false, if_true] at h
        rcases List.mem_cons.mp h with rfl | h
        · exact Or.inl rfl
        · exact Or.inr (by simp [h])
      · simp only [kvPut, h1, h2, if_false] at h
        rcases List.mem_cons.mp h with rfl | h
        · exact Or.inr (by simp)
        · rcases ih h with rfl | h
          · exact Or.inl rfl
          · exact Or.inr (by simp [h])

theorem Memory.wf_nil : Memory.wf [] = true := rfl

/-- Setting a byte keeps the canonical form. -/
theorem Memory.wf_memPut {m : List Host.Cell} (a : Nat) (v : Byte) (h : Memory.wf m = true) :
    Memory.wf (memPut m a v) = true := by
  obtain ⟨hs, hz⟩ := (Memory.wf_iff m).mp h
  refine (Memory.wf_iff _).mpr ?_
  unfold memPut
  by_cases hv : v = 0
  · simp only [hv, if_true]
    exact ⟨kvSorted_kvErase hs, fun e he => hz e (mem_kvErase he)⟩
  · simp only [hv, if_false]
    refine ⟨kvSorted_kvPut hs, fun e he => ?_⟩
    rcases mem_kvPut he with rfl | he
    · exact hv
    · exact hz e he

/-- Writing bytes keeps the canonical form. -/
theorem Memory.wf_memWrite {m : List Host.Cell} (a : Nat) (bs : List Byte) (h : Memory.wf m = true) :
    Memory.wf (memWrite m a bs) = true := by
  induction bs generalizing m a with
  | nil => exact h
  | cons b bs ih => exact ih (a + 1) (Memory.wf_memPut a b h)

/-- Dropping bytes keeps the canonical form. -/
theorem Memory.wf_filter {m : List Host.Cell} (f : Host.Cell → Bool) (h : Memory.wf m = true) :
    Memory.wf (m.filter f) = true := by
  obtain ⟨hs, hz⟩ := (Memory.wf_iff m).mp h
  exact (Memory.wf_iff _).mpr ⟨kvSorted_filter f hs, fun e he => hz e (List.mem_of_mem_filter he)⟩

/-- A byte set reads back. -/
theorem memGet_memPut_self {m : List Host.Cell} (a : Nat) (v : Byte) (h : kvSorted m = true) :
    memGet (memPut m a v) a = v := by
  unfold memGet memPut
  by_cases hv : v = 0
  · rw [if_pos hv, hv, kvGet_eq_kvFind, kvFind_kvErase_self h]; rfl
  · rw [if_neg hv, kvGet_kvPut_self]

/-- A byte set leaves every other byte. -/
theorem memGet_memPut_ne {m : List Host.Cell} {a b : Nat} (v : Byte) (h : b ≠ a) :
    memGet (memPut m a v) b = memGet m b := by
  unfold memGet memPut
  by_cases hv : v = 0
  · rw [if_pos hv, kvGet_eq_kvFind, kvFind_kvErase_ne m h, ← kvGet_eq_kvFind]
  · rw [if_neg hv, kvGet_kvPut_ne 0 m v h]

/-- Bytes written leave every byte outside them. -/
theorem memGet_memWrite_out {m : List Host.Cell} {a b : Nat} (bs : List Byte) (h : b < a ∨ a + bs.length ≤ b) :
    memGet (memWrite m a bs) b = memGet m b := by
  induction bs generalizing m a with
  | nil => rfl
  | cons x bs ih =>
    simp only [List.length_cons] at h
    simp only [memWrite]
    rw [ih (by omega), memGet_memPut_ne x (by omega)]

/-- Bytes written read back. -/
theorem memRead_memWrite {m : List Host.Cell} (a : Nat) (bs : List Byte) (h : Memory.wf m = true) :
    memRead (memWrite m a bs) a bs.length = bs := by
  induction bs generalizing m a with
  | nil => rfl
  | cons x bs ih =>
    have hs := ((Memory.wf_iff m).mp h).1
    simp only [memWrite, List.length_cons, memRead]
    rw [ih (a + 1) (Memory.wf_memPut a x h), memGet_memWrite_out bs (Or.inl (by omega)), memGet_memPut_self a x hs]

end Sys2Proof.Machine
end

