-- ==== Sys2Proof/Laws/State.lean ====
section
/-!
SUPPORT. What each basic update of the chip leaves unchanged, field by field, and what the updates of the state do.
-/
namespace Sys2Proof.Machine

/-! Chip.put changes `regs` alone. -/

@[simp] theorem Chip.put_part (c : Chip) (p : Page) (o : Nat) (v : Word) : (Chip.put c p o v).part = c.part := rfl
@[simp] theorem Chip.put_off (c : Chip) (p : Page) (o : Nat) (v : Word) : (Chip.put c p o v).off = c.off := rfl
@[simp] theorem Chip.put_mem (c : Chip) (p : Page) (o : Nat) (v : Word) : (Chip.put c p o v).mem = c.mem := rfl
@[simp] theorem Chip.put_twBuf (c : Chip) (p : Page) (o : Nat) (v : Word) : (Chip.put c p o v).twBuf = c.twBuf := rfl
@[simp] theorem Chip.put_twRun (c : Chip) (p : Page) (o : Nat) (v : Word) : (Chip.put c p o v).twRun = c.twRun := rfl
@[simp] theorem Chip.put_initBusy (c : Chip) (p : Page) (o : Nat) (v : Word) : (Chip.put c p o v).initBusy = c.initBusy := rfl
@[simp] theorem Chip.put_commits (c : Chip) (p : Page) (o : Nat) (v : Word) : (Chip.put c p o v).commits = c.commits := rfl
@[simp] theorem Chip.put_resetting (c : Chip) (p : Page) (o : Nat) (v : Word) : (Chip.put c p o v).resetting = c.resetting := rfl
@[simp] theorem Chip.put_committed (c : Chip) (p : Page) (o : Nat) (v : Word) : (Chip.put c p o v).committed = c.committed := rfl
@[simp] theorem Chip.put_readPcie (c : Chip) (p : Page) (o : Nat) (v : Word) : (Chip.put c p o v).readPcie = c.readPcie := rfl
@[simp] theorem Chip.put_readMgmt (c : Chip) (p : Page) (o : Nat) (v : Word) : (Chip.put c p o v).readMgmt = c.readMgmt := rfl
@[simp] theorem Chip.put_logs (c : Chip) (p : Page) (o : Nat) (v : Word) : (Chip.put c p o v).logs = c.logs := rfl
@[simp] theorem Chip.put_time (c : Chip) (p : Page) (o : Nat) (v : Word) : (Chip.put c p o v).time = c.time := rfl
@[simp] theorem Chip.put_frames (c : Chip) (p : Page) (o : Nat) (v : Word) : (Chip.put c p o v).frames = c.frames := rfl
@[simp] theorem Chip.put_nextFrame (c : Chip) (p : Page) (o : Nat) (v : Word) : (Chip.put c p o v).nextFrame = c.nextFrame := rfl
@[simp] theorem Chip.put_ses (c : Chip) (p : Page) (o : Nat) (v : Word) : (Chip.put c p o v).ses = c.ses := rfl
@[simp] theorem Chip.put_recov (c : Chip) (p : Page) (o : Nat) (v : Word) : (Chip.put c p o v).recov = c.recov := rfl
@[simp] theorem Chip.put_mtrEpoch (c : Chip) (p : Page) (o : Nat) (v : Word) : (Chip.put c p o v).mtrEpoch = c.mtrEpoch := rfl
@[simp] theorem Chip.put_mtrMod (c : Chip) (p : Page) (o : Nat) (v : Word) : (Chip.put c p o v).mtrMod = c.mtrMod := rfl
@[simp] theorem Chip.put_dirty (c : Chip) (p : Page) (o : Nat) (v : Word) : (Chip.put c p o v).dirty = c.dirty := rfl
@[simp] theorem Chip.put_jrn (c : Chip) (p : Page) (o : Nat) (v : Word) : (Chip.put c p o v).jrn = c.jrn := rfl
@[simp] theorem Chip.put_keys (c : Chip) (p : Page) (o : Nat) (v : Word) : (Chip.put c p o v).keys = c.keys := rfl
@[simp] theorem Chip.put_keyLoad (c : Chip) (p : Page) (o : Nat) (v : Word) : (Chip.put c p o v).keyLoad = c.keyLoad := rfl
@[simp] theorem Chip.put_funcOn (c : Chip) (p : Page) (o : Nat) (v : Word) : (Chip.put c p o v).funcOn = c.funcOn := rfl
@[simp] theorem Chip.put_funcStop (c : Chip) (p : Page) (o : Nat) (v : Word) : (Chip.put c p o v).funcStop = c.funcStop := rfl
@[simp] theorem Chip.put_rings (c : Chip) (p : Page) (o : Nat) (v : Word) : (Chip.put c p o v).rings = c.rings := rfl
@[simp] theorem Chip.put_push (c : Chip) (p : Page) (o : Nat) (v : Word) : (Chip.put c p o v).push = c.push := rfl
@[simp] theorem Chip.put_hostQ (c : Chip) (p : Page) (o : Nat) (v : Word) : (Chip.put c p o v).hostQ = c.hostQ := rfl
@[simp] theorem Chip.put_coreQ (c : Chip) (p : Page) (o : Nat) (v : Word) : (Chip.put c p o v).coreQ = c.coreQ := rfl
@[simp] theorem Chip.put_hlt (c : Chip) (p : Page) (o : Nat) (v : Word) : (Chip.put c p o v).hlt = c.hlt := rfl
@[simp] theorem Chip.put_nextOrder (c : Chip) (p : Page) (o : Nat) (v : Word) : (Chip.put c p o v).nextOrder = c.nextOrder := rfl
@[simp] theorem Chip.put_swaps (c : Chip) (p : Page) (o : Nat) (v : Word) : (Chip.put c p o v).swaps = c.swaps := rfl
@[simp] theorem Chip.put_slowCnt (c : Chip) (p : Page) (o : Nat) (v : Word) : (Chip.put c p o v).slowCnt = c.slowCnt := rfl
@[simp] theorem Chip.put_recCnt (c : Chip) (p : Page) (o : Nat) (v : Word) : (Chip.put c p o v).recCnt = c.recCnt := rfl
@[simp] theorem Chip.put_disp (c : Chip) (p : Page) (o : Nat) (v : Word) : (Chip.put c p o v).disp = c.disp := rfl
@[simp] theorem Chip.put_relSlot (c : Chip) (p : Page) (o : Nat) (v : Word) : (Chip.put c p o v).relSlot = c.relSlot := rfl
@[simp] theorem Chip.put_bus (c : Chip) (p : Page) (o : Nat) (v : Word) : (Chip.put c p o v).bus = c.bus := rfl
@[simp] theorem Chip.put_latent (c : Chip) (p : Page) (o : Nat) (v : Word) : (Chip.put c p o v).latent = c.latent := rfl
@[simp] theorem Chip.put_acks (c : Chip) (p : Page) (o : Nat) (v : Word) : (Chip.put c p o v).acks = c.acks := rfl
@[simp] theorem Chip.put_fetchAt (c : Chip) (p : Page) (o : Nat) (v : Word) : (Chip.put c p o v).fetchAt = c.fetchAt := rfl
@[simp] theorem Chip.put_passed (c : Chip) (p : Page) (o : Nat) (v : Word) : (Chip.put c p o v).passed = c.passed := rfl
@[simp] theorem Chip.put_laneCnt (c : Chip) (p : Page) (o : Nat) (v : Word) : (Chip.put c p o v).laneCnt = c.laneCnt := rfl
@[simp] theorem Chip.put_maxPay (c : Chip) (p : Page) (o : Nat) (v : Word) : (Chip.put c p o v).maxPay = c.maxPay := rfl
@[simp] theorem Chip.put_maxRead (c : Chip) (p : Page) (o : Nat) (v : Word) : (Chip.put c p o v).maxRead = c.maxRead := rfl
@[simp] theorem Chip.put_ranks (c : Chip) (p : Page) (o : Nat) (v : Word) : (Chip.put c p o v).ranks = c.ranks := rfl
@[simp] theorem Chip.put_ports (c : Chip) (p : Page) (o : Nat) (v : Word) : (Chip.put c p o v).ports = c.ports := rfl
@[simp] theorem Chip.put_notices (c : Chip) (p : Page) (o : Nat) (v : Word) : (Chip.put c p o v).notices = c.notices := rfl
@[simp] theorem Chip.put_sched (c : Chip) (p : Page) (o : Nat) (v : Word) : (Chip.put c p o v).sched = c.sched := rfl
@[simp] theorem Chip.put_drops (c : Chip) (p : Page) (o : Nat) (v : Word) : (Chip.put c p o v).drops = c.drops := rfl
@[simp] theorem Chip.put_doors (c : Chip) (p : Page) (o : Nat) (v : Word) : (Chip.put c p o v).doors = c.doors := rfl
@[simp] theorem Chip.put_owed (c : Chip) (p : Page) (o : Nat) (v : Word) : (Chip.put c p o v).owed = c.owed := rfl
@[simp] theorem Chip.put_tel (c : Chip) (p : Page) (o : Nat) (v : Word) : (Chip.put c p o v).tel = c.tel := rfl
@[simp] theorem Chip.put_icu (c : Chip) (p : Page) (o : Nat) (v : Word) : (Chip.put c p o v).icu = c.icu := rfl
@[simp] theorem Chip.put_standby (c : Chip) (p : Page) (o : Nat) (v : Word) : (Chip.put c p o v).standby = c.standby := rfl
@[simp] theorem Chip.put_chk (c : Chip) (p : Page) (o : Nat) (v : Word) : (Chip.put c p o v).chk = c.chk := rfl
@[simp] theorem Chip.put_pair (c : Chip) (p : Page) (o : Nat) (v : Word) : (Chip.put c p o v).pair = c.pair := rfl
@[simp] theorem Chip.put_therm (c : Chip) (p : Page) (o : Nat) (v : Word) : (Chip.put c p o v).therm = c.therm := rfl
@[simp] theorem Chip.put_sweep (c : Chip) (p : Page) (o : Nat) (v : Word) : (Chip.put c p o v).sweep = c.sweep := rfl
@[simp] theorem Chip.put_out (c : Chip) (p : Page) (o : Nat) (v : Word) : (Chip.put c p o v).out = c.out := rfl

/-! Chip.putLive changes `regs` alone. -/

@[simp] theorem Chip.putLive_part (c : Chip) (p : Page) (o : Nat) (v : Word) : (Chip.putLive c p o v).part = c.part := rfl
@[simp] theorem Chip.putLive_off (c : Chip) (p : Page) (o : Nat) (v : Word) : (Chip.putLive c p o v).off = c.off := rfl
@[simp] theorem Chip.putLive_mem (c : Chip) (p : Page) (o : Nat) (v : Word) : (Chip.putLive c p o v).mem = c.mem := rfl
@[simp] theorem Chip.putLive_twBuf (c : Chip) (p : Page) (o : Nat) (v : Word) : (Chip.putLive c p o v).twBuf = c.twBuf := rfl
@[simp] theorem Chip.putLive_twRun (c : Chip) (p : Page) (o : Nat) (v : Word) : (Chip.putLive c p o v).twRun = c.twRun := rfl
@[simp] theorem Chip.putLive_initBusy (c : Chip) (p : Page) (o : Nat) (v : Word) : (Chip.putLive c p o v).initBusy = c.initBusy := rfl
@[simp] theorem Chip.putLive_commits (c : Chip) (p : Page) (o : Nat) (v : Word) : (Chip.putLive c p o v).commits = c.commits := rfl
@[simp] theorem Chip.putLive_resetting (c : Chip) (p : Page) (o : Nat) (v : Word) : (Chip.putLive c p o v).resetting = c.resetting := rfl
@[simp] theorem Chip.putLive_committed (c : Chip) (p : Page) (o : Nat) (v : Word) : (Chip.putLive c p o v).committed = c.committed := rfl
@[simp] theorem Chip.putLive_readPcie (c : Chip) (p : Page) (o : Nat) (v : Word) : (Chip.putLive c p o v).readPcie = c.readPcie := rfl
@[simp] theorem Chip.putLive_readMgmt (c : Chip) (p : Page) (o : Nat) (v : Word) : (Chip.putLive c p o v).readMgmt = c.readMgmt := rfl
@[simp] theorem Chip.putLive_logs (c : Chip) (p : Page) (o : Nat) (v : Word) : (Chip.putLive c p o v).logs = c.logs := rfl
@[simp] theorem Chip.putLive_time (c : Chip) (p : Page) (o : Nat) (v : Word) : (Chip.putLive c p o v).time = c.time := rfl
@[simp] theorem Chip.putLive_frames (c : Chip) (p : Page) (o : Nat) (v : Word) : (Chip.putLive c p o v).frames = c.frames := rfl
@[simp] theorem Chip.putLive_nextFrame (c : Chip) (p : Page) (o : Nat) (v : Word) : (Chip.putLive c p o v).nextFrame = c.nextFrame := rfl
@[simp] theorem Chip.putLive_ses (c : Chip) (p : Page) (o : Nat) (v : Word) : (Chip.putLive c p o v).ses = c.ses := rfl
@[simp] theorem Chip.putLive_recov (c : Chip) (p : Page) (o : Nat) (v : Word) : (Chip.putLive c p o v).recov = c.recov := rfl
@[simp] theorem Chip.putLive_mtrEpoch (c : Chip) (p : Page) (o : Nat) (v : Word) : (Chip.putLive c p o v).mtrEpoch = c.mtrEpoch := rfl
@[simp] theorem Chip.putLive_mtrMod (c : Chip) (p : Page) (o : Nat) (v : Word) : (Chip.putLive c p o v).mtrMod = c.mtrMod := rfl
@[simp] theorem Chip.putLive_dirty (c : Chip) (p : Page) (o : Nat) (v : Word) : (Chip.putLive c p o v).dirty = c.dirty := rfl
@[simp] theorem Chip.putLive_jrn (c : Chip) (p : Page) (o : Nat) (v : Word) : (Chip.putLive c p o v).jrn = c.jrn := rfl
@[simp] theorem Chip.putLive_keys (c : Chip) (p : Page) (o : Nat) (v : Word) : (Chip.putLive c p o v).keys = c.keys := rfl
@[simp] theorem Chip.putLive_keyLoad (c : Chip) (p : Page) (o : Nat) (v : Word) : (Chip.putLive c p o v).keyLoad = c.keyLoad := rfl
@[simp] theorem Chip.putLive_funcOn (c : Chip) (p : Page) (o : Nat) (v : Word) : (Chip.putLive c p o v).funcOn = c.funcOn := rfl
@[simp] theorem Chip.putLive_funcStop (c : Chip) (p : Page) (o : Nat) (v : Word) : (Chip.putLive c p o v).funcStop = c.funcStop := rfl
@[simp] theorem Chip.putLive_rings (c : Chip) (p : Page) (o : Nat) (v : Word) : (Chip.putLive c p o v).rings = c.rings := rfl
@[simp] theorem Chip.putLive_push (c : Chip) (p : Page) (o : Nat) (v : Word) : (Chip.putLive c p o v).push = c.push := rfl
@[simp] theorem Chip.putLive_hostQ (c : Chip) (p : Page) (o : Nat) (v : Word) : (Chip.putLive c p o v).hostQ = c.hostQ := rfl
@[simp] theorem Chip.putLive_coreQ (c : Chip) (p : Page) (o : Nat) (v : Word) : (Chip.putLive c p o v).coreQ = c.coreQ := rfl
@[simp] theorem Chip.putLive_hlt (c : Chip) (p : Page) (o : Nat) (v : Word) : (Chip.putLive c p o v).hlt = c.hlt := rfl
@[simp] theorem Chip.putLive_nextOrder (c : Chip) (p : Page) (o : Nat) (v : Word) : (Chip.putLive c p o v).nextOrder = c.nextOrder := rfl
@[simp] theorem Chip.putLive_swaps (c : Chip) (p : Page) (o : Nat) (v : Word) : (Chip.putLive c p o v).swaps = c.swaps := rfl
@[simp] theorem Chip.putLive_slowCnt (c : Chip) (p : Page) (o : Nat) (v : Word) : (Chip.putLive c p o v).slowCnt = c.slowCnt := rfl
@[simp] theorem Chip.putLive_recCnt (c : Chip) (p : Page) (o : Nat) (v : Word) : (Chip.putLive c p o v).recCnt = c.recCnt := rfl
@[simp] theorem Chip.putLive_disp (c : Chip) (p : Page) (o : Nat) (v : Word) : (Chip.putLive c p o v).disp = c.disp := rfl
@[simp] theorem Chip.putLive_relSlot (c : Chip) (p : Page) (o : Nat) (v : Word) : (Chip.putLive c p o v).relSlot = c.relSlot := rfl
@[simp] theorem Chip.putLive_bus (c : Chip) (p : Page) (o : Nat) (v : Word) : (Chip.putLive c p o v).bus = c.bus := rfl
@[simp] theorem Chip.putLive_latent (c : Chip) (p : Page) (o : Nat) (v : Word) : (Chip.putLive c p o v).latent = c.latent := rfl
@[simp] theorem Chip.putLive_acks (c : Chip) (p : Page) (o : Nat) (v : Word) : (Chip.putLive c p o v).acks = c.acks := rfl
@[simp] theorem Chip.putLive_fetchAt (c : Chip) (p : Page) (o : Nat) (v : Word) : (Chip.putLive c p o v).fetchAt = c.fetchAt := rfl
@[simp] theorem Chip.putLive_passed (c : Chip) (p : Page) (o : Nat) (v : Word) : (Chip.putLive c p o v).passed = c.passed := rfl
@[simp] theorem Chip.putLive_laneCnt (c : Chip) (p : Page) (o : Nat) (v : Word) : (Chip.putLive c p o v).laneCnt = c.laneCnt := rfl
@[simp] theorem Chip.putLive_maxPay (c : Chip) (p : Page) (o : Nat) (v : Word) : (Chip.putLive c p o v).maxPay = c.maxPay := rfl
@[simp] theorem Chip.putLive_maxRead (c : Chip) (p : Page) (o : Nat) (v : Word) : (Chip.putLive c p o v).maxRead = c.maxRead := rfl
@[simp] theorem Chip.putLive_ranks (c : Chip) (p : Page) (o : Nat) (v : Word) : (Chip.putLive c p o v).ranks = c.ranks := rfl
@[simp] theorem Chip.putLive_ports (c : Chip) (p : Page) (o : Nat) (v : Word) : (Chip.putLive c p o v).ports = c.ports := rfl
@[simp] theorem Chip.putLive_notices (c : Chip) (p : Page) (o : Nat) (v : Word) : (Chip.putLive c p o v).notices = c.notices := rfl
@[simp] theorem Chip.putLive_sched (c : Chip) (p : Page) (o : Nat) (v : Word) : (Chip.putLive c p o v).sched = c.sched := rfl
@[simp] theorem Chip.putLive_drops (c : Chip) (p : Page) (o : Nat) (v : Word) : (Chip.putLive c p o v).drops = c.drops := rfl
@[simp] theorem Chip.putLive_doors (c : Chip) (p : Page) (o : Nat) (v : Word) : (Chip.putLive c p o v).doors = c.doors := rfl
@[simp] theorem Chip.putLive_owed (c : Chip) (p : Page) (o : Nat) (v : Word) : (Chip.putLive c p o v).owed = c.owed := rfl
@[simp] theorem Chip.putLive_tel (c : Chip) (p : Page) (o : Nat) (v : Word) : (Chip.putLive c p o v).tel = c.tel := rfl
@[simp] theorem Chip.putLive_icu (c : Chip) (p : Page) (o : Nat) (v : Word) : (Chip.putLive c p o v).icu = c.icu := rfl
@[simp] theorem Chip.putLive_standby (c : Chip) (p : Page) (o : Nat) (v : Word) : (Chip.putLive c p o v).standby = c.standby := rfl
@[simp] theorem Chip.putLive_chk (c : Chip) (p : Page) (o : Nat) (v : Word) : (Chip.putLive c p o v).chk = c.chk := rfl
@[simp] theorem Chip.putLive_pair (c : Chip) (p : Page) (o : Nat) (v : Word) : (Chip.putLive c p o v).pair = c.pair := rfl
@[simp] theorem Chip.putLive_therm (c : Chip) (p : Page) (o : Nat) (v : Word) : (Chip.putLive c p o v).therm = c.therm := rfl
@[simp] theorem Chip.putLive_sweep (c : Chip) (p : Page) (o : Nat) (v : Word) : (Chip.putLive c p o v).sweep = c.sweep := rfl
@[simp] theorem Chip.putLive_out (c : Chip) (p : Page) (o : Nat) (v : Word) : (Chip.putLive c p o v).out = c.out := rfl

/-! Chip.setFld changes `regs` alone. -/

@[simp] theorem Chip.setFld_part (c : Chip) (p : Page) (o hi lo x : Nat) : (Chip.setFld c p o hi lo x).part = c.part := rfl
@[simp] theorem Chip.setFld_off (c : Chip) (p : Page) (o hi lo x : Nat) : (Chip.setFld c p o hi lo x).off = c.off := rfl
@[simp] theorem Chip.setFld_mem (c : Chip) (p : Page) (o hi lo x : Nat) : (Chip.setFld c p o hi lo x).mem = c.mem := rfl
@[simp] theorem Chip.setFld_twBuf (c : Chip) (p : Page) (o hi lo x : Nat) : (Chip.setFld c p o hi lo x).twBuf = c.twBuf := rfl
@[simp] theorem Chip.setFld_twRun (c : Chip) (p : Page) (o hi lo x : Nat) : (Chip.setFld c p o hi lo x).twRun = c.twRun := rfl
@[simp] theorem Chip.setFld_initBusy (c : Chip) (p : Page) (o hi lo x : Nat) : (Chip.setFld c p o hi lo x).initBusy = c.initBusy := rfl
@[simp] theorem Chip.setFld_commits (c : Chip) (p : Page) (o hi lo x : Nat) : (Chip.setFld c p o hi lo x).commits = c.commits := rfl
@[simp] theorem Chip.setFld_resetting (c : Chip) (p : Page) (o hi lo x : Nat) : (Chip.setFld c p o hi lo x).resetting = c.resetting := rfl
@[simp] theorem Chip.setFld_committed (c : Chip) (p : Page) (o hi lo x : Nat) : (Chip.setFld c p o hi lo x).committed = c.committed := rfl
@[simp] theorem Chip.setFld_readPcie (c : Chip) (p : Page) (o hi lo x : Nat) : (Chip.setFld c p o hi lo x).readPcie = c.readPcie := rfl
@[simp] theorem Chip.setFld_readMgmt (c : Chip) (p : Page) (o hi lo x : Nat) : (Chip.setFld c p o hi lo x).readMgmt = c.readMgmt := rfl
@[simp] theorem Chip.setFld_logs (c : Chip) (p : Page) (o hi lo x : Nat) : (Chip.setFld c p o hi lo x).logs = c.logs := rfl
@[simp] theorem Chip.setFld_time (c : Chip) (p : Page) (o hi lo x : Nat) : (Chip.setFld c p o hi lo x).time = c.time := rfl
@[simp] theorem Chip.setFld_frames (c : Chip) (p : Page) (o hi lo x : Nat) : (Chip.setFld c p o hi lo x).frames = c.frames := rfl
@[simp] theorem Chip.setFld_nextFrame (c : Chip) (p : Page) (o hi lo x : Nat) : (Chip.setFld c p o hi lo x).nextFrame = c.nextFrame := rfl
@[simp] theorem Chip.setFld_ses (c : Chip) (p : Page) (o hi lo x : Nat) : (Chip.setFld c p o hi lo x).ses = c.ses := rfl
@[simp] theorem Chip.setFld_recov (c : Chip) (p : Page) (o hi lo x : Nat) : (Chip.setFld c p o hi lo x).recov = c.recov := rfl
@[simp] theorem Chip.setFld_mtrEpoch (c : Chip) (p : Page) (o hi lo x : Nat) : (Chip.setFld c p o hi lo x).mtrEpoch = c.mtrEpoch := rfl
@[simp] theorem Chip.setFld_mtrMod (c : Chip) (p : Page) (o hi lo x : Nat) : (Chip.setFld c p o hi lo x).mtrMod = c.mtrMod := rfl
@[simp] theorem Chip.setFld_dirty (c : Chip) (p : Page) (o hi lo x : Nat) : (Chip.setFld c p o hi lo x).dirty = c.dirty := rfl
@[simp] theorem Chip.setFld_jrn (c : Chip) (p : Page) (o hi lo x : Nat) : (Chip.setFld c p o hi lo x).jrn = c.jrn := rfl
@[simp] theorem Chip.setFld_keys (c : Chip) (p : Page) (o hi lo x : Nat) : (Chip.setFld c p o hi lo x).keys = c.keys := rfl
@[simp] theorem Chip.setFld_keyLoad (c : Chip) (p : Page) (o hi lo x : Nat) : (Chip.setFld c p o hi lo x).keyLoad = c.keyLoad := rfl
@[simp] theorem Chip.setFld_funcOn (c : Chip) (p : Page) (o hi lo x : Nat) : (Chip.setFld c p o hi lo x).funcOn = c.funcOn := rfl
@[simp] theorem Chip.setFld_funcStop (c : Chip) (p : Page) (o hi lo x : Nat) : (Chip.setFld c p o hi lo x).funcStop = c.funcStop := rfl
@[simp] theorem Chip.setFld_rings (c : Chip) (p : Page) (o hi lo x : Nat) : (Chip.setFld c p o hi lo x).rings = c.rings := rfl
@[simp] theorem Chip.setFld_push (c : Chip) (p : Page) (o hi lo x : Nat) : (Chip.setFld c p o hi lo x).push = c.push := rfl
@[simp] theorem Chip.setFld_hostQ (c : Chip) (p : Page) (o hi lo x : Nat) : (Chip.setFld c p o hi lo x).hostQ = c.hostQ := rfl
@[simp] theorem Chip.setFld_coreQ (c : Chip) (p : Page) (o hi lo x : Nat) : (Chip.setFld c p o hi lo x).coreQ = c.coreQ := rfl
@[simp] theorem Chip.setFld_hlt (c : Chip) (p : Page) (o hi lo x : Nat) : (Chip.setFld c p o hi lo x).hlt = c.hlt := rfl
@[simp] theorem Chip.setFld_nextOrder (c : Chip) (p : Page) (o hi lo x : Nat) : (Chip.setFld c p o hi lo x).nextOrder = c.nextOrder := rfl
@[simp] theorem Chip.setFld_swaps (c : Chip) (p : Page) (o hi lo x : Nat) : (Chip.setFld c p o hi lo x).swaps = c.swaps := rfl
@[simp] theorem Chip.setFld_slowCnt (c : Chip) (p : Page) (o hi lo x : Nat) : (Chip.setFld c p o hi lo x).slowCnt = c.slowCnt := rfl
@[simp] theorem Chip.setFld_recCnt (c : Chip) (p : Page) (o hi lo x : Nat) : (Chip.setFld c p o hi lo x).recCnt = c.recCnt := rfl
@[simp] theorem Chip.setFld_disp (c : Chip) (p : Page) (o hi lo x : Nat) : (Chip.setFld c p o hi lo x).disp = c.disp := rfl
@[simp] theorem Chip.setFld_relSlot (c : Chip) (p : Page) (o hi lo x : Nat) : (Chip.setFld c p o hi lo x).relSlot = c.relSlot := rfl
@[simp] theorem Chip.setFld_bus (c : Chip) (p : Page) (o hi lo x : Nat) : (Chip.setFld c p o hi lo x).bus = c.bus := rfl
@[simp] theorem Chip.setFld_latent (c : Chip) (p : Page) (o hi lo x : Nat) : (Chip.setFld c p o hi lo x).latent = c.latent := rfl
@[simp] theorem Chip.setFld_acks (c : Chip) (p : Page) (o hi lo x : Nat) : (Chip.setFld c p o hi lo x).acks = c.acks := rfl
@[simp] theorem Chip.setFld_fetchAt (c : Chip) (p : Page) (o hi lo x : Nat) : (Chip.setFld c p o hi lo x).fetchAt = c.fetchAt := rfl
@[simp] theorem Chip.setFld_passed (c : Chip) (p : Page) (o hi lo x : Nat) : (Chip.setFld c p o hi lo x).passed = c.passed := rfl
@[simp] theorem Chip.setFld_laneCnt (c : Chip) (p : Page) (o hi lo x : Nat) : (Chip.setFld c p o hi lo x).laneCnt = c.laneCnt := rfl
@[simp] theorem Chip.setFld_maxPay (c : Chip) (p : Page) (o hi lo x : Nat) : (Chip.setFld c p o hi lo x).maxPay = c.maxPay := rfl
@[simp] theorem Chip.setFld_maxRead (c : Chip) (p : Page) (o hi lo x : Nat) : (Chip.setFld c p o hi lo x).maxRead = c.maxRead := rfl
@[simp] theorem Chip.setFld_ranks (c : Chip) (p : Page) (o hi lo x : Nat) : (Chip.setFld c p o hi lo x).ranks = c.ranks := rfl
@[simp] theorem Chip.setFld_ports (c : Chip) (p : Page) (o hi lo x : Nat) : (Chip.setFld c p o hi lo x).ports = c.ports := rfl
@[simp] theorem Chip.setFld_notices (c : Chip) (p : Page) (o hi lo x : Nat) : (Chip.setFld c p o hi lo x).notices = c.notices := rfl
@[simp] theorem Chip.setFld_sched (c : Chip) (p : Page) (o hi lo x : Nat) : (Chip.setFld c p o hi lo x).sched = c.sched := rfl
@[simp] theorem Chip.setFld_drops (c : Chip) (p : Page) (o hi lo x : Nat) : (Chip.setFld c p o hi lo x).drops = c.drops := rfl
@[simp] theorem Chip.setFld_doors (c : Chip) (p : Page) (o hi lo x : Nat) : (Chip.setFld c p o hi lo x).doors = c.doors := rfl
@[simp] theorem Chip.setFld_owed (c : Chip) (p : Page) (o hi lo x : Nat) : (Chip.setFld c p o hi lo x).owed = c.owed := rfl
@[simp] theorem Chip.setFld_tel (c : Chip) (p : Page) (o hi lo x : Nat) : (Chip.setFld c p o hi lo x).tel = c.tel := rfl
@[simp] theorem Chip.setFld_icu (c : Chip) (p : Page) (o hi lo x : Nat) : (Chip.setFld c p o hi lo x).icu = c.icu := rfl
@[simp] theorem Chip.setFld_standby (c : Chip) (p : Page) (o hi lo x : Nat) : (Chip.setFld c p o hi lo x).standby = c.standby := rfl
@[simp] theorem Chip.setFld_chk (c : Chip) (p : Page) (o hi lo x : Nat) : (Chip.setFld c p o hi lo x).chk = c.chk := rfl
@[simp] theorem Chip.setFld_pair (c : Chip) (p : Page) (o hi lo x : Nat) : (Chip.setFld c p o hi lo x).pair = c.pair := rfl
@[simp] theorem Chip.setFld_therm (c : Chip) (p : Page) (o hi lo x : Nat) : (Chip.setFld c p o hi lo x).therm = c.therm := rfl
@[simp] theorem Chip.setFld_sweep (c : Chip) (p : Page) (o hi lo x : Nat) : (Chip.setFld c p o hi lo x).sweep = c.sweep := rfl
@[simp] theorem Chip.setFld_out (c : Chip) (p : Page) (o hi lo x : Nat) : (Chip.setFld c p o hi lo x).out = c.out := rfl

/-! Chip.bump changes `regs` alone. -/

@[simp] theorem Chip.bump_part (c : Chip) (p : Page) (o : Nat) : (Chip.bump c p o).part = c.part := rfl
@[simp] theorem Chip.bump_off (c : Chip) (p : Page) (o : Nat) : (Chip.bump c p o).off = c.off := rfl
@[simp] theorem Chip.bump_mem (c : Chip) (p : Page) (o : Nat) : (Chip.bump c p o).mem = c.mem := rfl
@[simp] theorem Chip.bump_twBuf (c : Chip) (p : Page) (o : Nat) : (Chip.bump c p o).twBuf = c.twBuf := rfl
@[simp] theorem Chip.bump_twRun (c : Chip) (p : Page) (o : Nat) : (Chip.bump c p o).twRun = c.twRun := rfl
@[simp] theorem Chip.bump_initBusy (c : Chip) (p : Page) (o : Nat) : (Chip.bump c p o).initBusy = c.initBusy := rfl
@[simp] theorem Chip.bump_commits (c : Chip) (p : Page) (o : Nat) : (Chip.bump c p o).commits = c.commits := rfl
@[simp] theorem Chip.bump_resetting (c : Chip) (p : Page) (o : Nat) : (Chip.bump c p o).resetting = c.resetting := rfl
@[simp] theorem Chip.bump_committed (c : Chip) (p : Page) (o : Nat) : (Chip.bump c p o).committed = c.committed := rfl
@[simp] theorem Chip.bump_readPcie (c : Chip) (p : Page) (o : Nat) : (Chip.bump c p o).readPcie = c.readPcie := rfl
@[simp] theorem Chip.bump_readMgmt (c : Chip) (p : Page) (o : Nat) : (Chip.bump c p o).readMgmt = c.readMgmt := rfl
@[simp] theorem Chip.bump_logs (c : Chip) (p : Page) (o : Nat) : (Chip.bump c p o).logs = c.logs := rfl
@[simp] theorem Chip.bump_time (c : Chip) (p : Page) (o : Nat) : (Chip.bump c p o).time = c.time := rfl
@[simp] theorem Chip.bump_frames (c : Chip) (p : Page) (o : Nat) : (Chip.bump c p o).frames = c.frames := rfl
@[simp] theorem Chip.bump_nextFrame (c : Chip) (p : Page) (o : Nat) : (Chip.bump c p o).nextFrame = c.nextFrame := rfl
@[simp] theorem Chip.bump_ses (c : Chip) (p : Page) (o : Nat) : (Chip.bump c p o).ses = c.ses := rfl
@[simp] theorem Chip.bump_recov (c : Chip) (p : Page) (o : Nat) : (Chip.bump c p o).recov = c.recov := rfl
@[simp] theorem Chip.bump_mtrEpoch (c : Chip) (p : Page) (o : Nat) : (Chip.bump c p o).mtrEpoch = c.mtrEpoch := rfl
@[simp] theorem Chip.bump_mtrMod (c : Chip) (p : Page) (o : Nat) : (Chip.bump c p o).mtrMod = c.mtrMod := rfl
@[simp] theorem Chip.bump_dirty (c : Chip) (p : Page) (o : Nat) : (Chip.bump c p o).dirty = c.dirty := rfl
@[simp] theorem Chip.bump_jrn (c : Chip) (p : Page) (o : Nat) : (Chip.bump c p o).jrn = c.jrn := rfl
@[simp] theorem Chip.bump_keys (c : Chip) (p : Page) (o : Nat) : (Chip.bump c p o).keys = c.keys := rfl
@[simp] theorem Chip.bump_keyLoad (c : Chip) (p : Page) (o : Nat) : (Chip.bump c p o).keyLoad = c.keyLoad := rfl
@[simp] theorem Chip.bump_funcOn (c : Chip) (p : Page) (o : Nat) : (Chip.bump c p o).funcOn = c.funcOn := rfl
@[simp] theorem Chip.bump_funcStop (c : Chip) (p : Page) (o : Nat) : (Chip.bump c p o).funcStop = c.funcStop := rfl
@[simp] theorem Chip.bump_rings (c : Chip) (p : Page) (o : Nat) : (Chip.bump c p o).rings = c.rings := rfl
@[simp] theorem Chip.bump_push (c : Chip) (p : Page) (o : Nat) : (Chip.bump c p o).push = c.push := rfl
@[simp] theorem Chip.bump_hostQ (c : Chip) (p : Page) (o : Nat) : (Chip.bump c p o).hostQ = c.hostQ := rfl
@[simp] theorem Chip.bump_coreQ (c : Chip) (p : Page) (o : Nat) : (Chip.bump c p o).coreQ = c.coreQ := rfl
@[simp] theorem Chip.bump_hlt (c : Chip) (p : Page) (o : Nat) : (Chip.bump c p o).hlt = c.hlt := rfl
@[simp] theorem Chip.bump_nextOrder (c : Chip) (p : Page) (o : Nat) : (Chip.bump c p o).nextOrder = c.nextOrder := rfl
@[simp] theorem Chip.bump_swaps (c : Chip) (p : Page) (o : Nat) : (Chip.bump c p o).swaps = c.swaps := rfl
@[simp] theorem Chip.bump_slowCnt (c : Chip) (p : Page) (o : Nat) : (Chip.bump c p o).slowCnt = c.slowCnt := rfl
@[simp] theorem Chip.bump_recCnt (c : Chip) (p : Page) (o : Nat) : (Chip.bump c p o).recCnt = c.recCnt := rfl
@[simp] theorem Chip.bump_disp (c : Chip) (p : Page) (o : Nat) : (Chip.bump c p o).disp = c.disp := rfl
@[simp] theorem Chip.bump_relSlot (c : Chip) (p : Page) (o : Nat) : (Chip.bump c p o).relSlot = c.relSlot := rfl
@[simp] theorem Chip.bump_bus (c : Chip) (p : Page) (o : Nat) : (Chip.bump c p o).bus = c.bus := rfl
@[simp] theorem Chip.bump_latent (c : Chip) (p : Page) (o : Nat) : (Chip.bump c p o).latent = c.latent := rfl
@[simp] theorem Chip.bump_acks (c : Chip) (p : Page) (o : Nat) : (Chip.bump c p o).acks = c.acks := rfl
@[simp] theorem Chip.bump_fetchAt (c : Chip) (p : Page) (o : Nat) : (Chip.bump c p o).fetchAt = c.fetchAt := rfl
@[simp] theorem Chip.bump_passed (c : Chip) (p : Page) (o : Nat) : (Chip.bump c p o).passed = c.passed := rfl
@[simp] theorem Chip.bump_laneCnt (c : Chip) (p : Page) (o : Nat) : (Chip.bump c p o).laneCnt = c.laneCnt := rfl
@[simp] theorem Chip.bump_maxPay (c : Chip) (p : Page) (o : Nat) : (Chip.bump c p o).maxPay = c.maxPay := rfl
@[simp] theorem Chip.bump_maxRead (c : Chip) (p : Page) (o : Nat) : (Chip.bump c p o).maxRead = c.maxRead := rfl
@[simp] theorem Chip.bump_ranks (c : Chip) (p : Page) (o : Nat) : (Chip.bump c p o).ranks = c.ranks := rfl
@[simp] theorem Chip.bump_ports (c : Chip) (p : Page) (o : Nat) : (Chip.bump c p o).ports = c.ports := rfl
@[simp] theorem Chip.bump_notices (c : Chip) (p : Page) (o : Nat) : (Chip.bump c p o).notices = c.notices := rfl
@[simp] theorem Chip.bump_sched (c : Chip) (p : Page) (o : Nat) : (Chip.bump c p o).sched = c.sched := rfl
@[simp] theorem Chip.bump_drops (c : Chip) (p : Page) (o : Nat) : (Chip.bump c p o).drops = c.drops := rfl
@[simp] theorem Chip.bump_doors (c : Chip) (p : Page) (o : Nat) : (Chip.bump c p o).doors = c.doors := rfl
@[simp] theorem Chip.bump_owed (c : Chip) (p : Page) (o : Nat) : (Chip.bump c p o).owed = c.owed := rfl
@[simp] theorem Chip.bump_tel (c : Chip) (p : Page) (o : Nat) : (Chip.bump c p o).tel = c.tel := rfl
@[simp] theorem Chip.bump_icu (c : Chip) (p : Page) (o : Nat) : (Chip.bump c p o).icu = c.icu := rfl
@[simp] theorem Chip.bump_standby (c : Chip) (p : Page) (o : Nat) : (Chip.bump c p o).standby = c.standby := rfl
@[simp] theorem Chip.bump_chk (c : Chip) (p : Page) (o : Nat) : (Chip.bump c p o).chk = c.chk := rfl
@[simp] theorem Chip.bump_pair (c : Chip) (p : Page) (o : Nat) : (Chip.bump c p o).pair = c.pair := rfl
@[simp] theorem Chip.bump_therm (c : Chip) (p : Page) (o : Nat) : (Chip.bump c p o).therm = c.therm := rfl
@[simp] theorem Chip.bump_sweep (c : Chip) (p : Page) (o : Nat) : (Chip.bump c p o).sweep = c.sweep := rfl
@[simp] theorem Chip.bump_out (c : Chip) (p : Page) (o : Nat) : (Chip.bump c p o).out = c.out := rfl

/-! Chip.cause changes `regs` alone. -/

@[simp] theorem Chip.cause_part (c : Chip) (p : Page) (b : Nat) : (Chip.cause c p b).part = c.part := rfl
@[simp] theorem Chip.cause_off (c : Chip) (p : Page) (b : Nat) : (Chip.cause c p b).off = c.off := rfl
@[simp] theorem Chip.cause_mem (c : Chip) (p : Page) (b : Nat) : (Chip.cause c p b).mem = c.mem := rfl
@[simp] theorem Chip.cause_twBuf (c : Chip) (p : Page) (b : Nat) : (Chip.cause c p b).twBuf = c.twBuf := rfl
@[simp] theorem Chip.cause_twRun (c : Chip) (p : Page) (b : Nat) : (Chip.cause c p b).twRun = c.twRun := rfl
@[simp] theorem Chip.cause_initBusy (c : Chip) (p : Page) (b : Nat) : (Chip.cause c p b).initBusy = c.initBusy := rfl
@[simp] theorem Chip.cause_commits (c : Chip) (p : Page) (b : Nat) : (Chip.cause c p b).commits = c.commits := rfl
@[simp] theorem Chip.cause_resetting (c : Chip) (p : Page) (b : Nat) : (Chip.cause c p b).resetting = c.resetting := rfl
@[simp] theorem Chip.cause_committed (c : Chip) (p : Page) (b : Nat) : (Chip.cause c p b).committed = c.committed := rfl
@[simp] theorem Chip.cause_readPcie (c : Chip) (p : Page) (b : Nat) : (Chip.cause c p b).readPcie = c.readPcie := rfl
@[simp] theorem Chip.cause_readMgmt (c : Chip) (p : Page) (b : Nat) : (Chip.cause c p b).readMgmt = c.readMgmt := rfl
@[simp] theorem Chip.cause_logs (c : Chip) (p : Page) (b : Nat) : (Chip.cause c p b).logs = c.logs := rfl
@[simp] theorem Chip.cause_time (c : Chip) (p : Page) (b : Nat) : (Chip.cause c p b).time = c.time := rfl
@[simp] theorem Chip.cause_frames (c : Chip) (p : Page) (b : Nat) : (Chip.cause c p b).frames = c.frames := rfl
@[simp] theorem Chip.cause_nextFrame (c : Chip) (p : Page) (b : Nat) : (Chip.cause c p b).nextFrame = c.nextFrame := rfl
@[simp] theorem Chip.cause_ses (c : Chip) (p : Page) (b : Nat) : (Chip.cause c p b).ses = c.ses := rfl
@[simp] theorem Chip.cause_recov (c : Chip) (p : Page) (b : Nat) : (Chip.cause c p b).recov = c.recov := rfl
@[simp] theorem Chip.cause_mtrEpoch (c : Chip) (p : Page) (b : Nat) : (Chip.cause c p b).mtrEpoch = c.mtrEpoch := rfl
@[simp] theorem Chip.cause_mtrMod (c : Chip) (p : Page) (b : Nat) : (Chip.cause c p b).mtrMod = c.mtrMod := rfl
@[simp] theorem Chip.cause_dirty (c : Chip) (p : Page) (b : Nat) : (Chip.cause c p b).dirty = c.dirty := rfl
@[simp] theorem Chip.cause_jrn (c : Chip) (p : Page) (b : Nat) : (Chip.cause c p b).jrn = c.jrn := rfl
@[simp] theorem Chip.cause_keys (c : Chip) (p : Page) (b : Nat) : (Chip.cause c p b).keys = c.keys := rfl
@[simp] theorem Chip.cause_keyLoad (c : Chip) (p : Page) (b : Nat) : (Chip.cause c p b).keyLoad = c.keyLoad := rfl
@[simp] theorem Chip.cause_funcOn (c : Chip) (p : Page) (b : Nat) : (Chip.cause c p b).funcOn = c.funcOn := rfl
@[simp] theorem Chip.cause_funcStop (c : Chip) (p : Page) (b : Nat) : (Chip.cause c p b).funcStop = c.funcStop := rfl
@[simp] theorem Chip.cause_rings (c : Chip) (p : Page) (b : Nat) : (Chip.cause c p b).rings = c.rings := rfl
@[simp] theorem Chip.cause_push (c : Chip) (p : Page) (b : Nat) : (Chip.cause c p b).push = c.push := rfl
@[simp] theorem Chip.cause_hostQ (c : Chip) (p : Page) (b : Nat) : (Chip.cause c p b).hostQ = c.hostQ := rfl
@[simp] theorem Chip.cause_coreQ (c : Chip) (p : Page) (b : Nat) : (Chip.cause c p b).coreQ = c.coreQ := rfl
@[simp] theorem Chip.cause_hlt (c : Chip) (p : Page) (b : Nat) : (Chip.cause c p b).hlt = c.hlt := rfl
@[simp] theorem Chip.cause_nextOrder (c : Chip) (p : Page) (b : Nat) : (Chip.cause c p b).nextOrder = c.nextOrder := rfl
@[simp] theorem Chip.cause_swaps (c : Chip) (p : Page) (b : Nat) : (Chip.cause c p b).swaps = c.swaps := rfl
@[simp] theorem Chip.cause_slowCnt (c : Chip) (p : Page) (b : Nat) : (Chip.cause c p b).slowCnt = c.slowCnt := rfl
@[simp] theorem Chip.cause_recCnt (c : Chip) (p : Page) (b : Nat) : (Chip.cause c p b).recCnt = c.recCnt := rfl
@[simp] theorem Chip.cause_disp (c : Chip) (p : Page) (b : Nat) : (Chip.cause c p b).disp = c.disp := rfl
@[simp] theorem Chip.cause_relSlot (c : Chip) (p : Page) (b : Nat) : (Chip.cause c p b).relSlot = c.relSlot := rfl
@[simp] theorem Chip.cause_bus (c : Chip) (p : Page) (b : Nat) : (Chip.cause c p b).bus = c.bus := rfl
@[simp] theorem Chip.cause_latent (c : Chip) (p : Page) (b : Nat) : (Chip.cause c p b).latent = c.latent := rfl
@[simp] theorem Chip.cause_acks (c : Chip) (p : Page) (b : Nat) : (Chip.cause c p b).acks = c.acks := rfl
@[simp] theorem Chip.cause_fetchAt (c : Chip) (p : Page) (b : Nat) : (Chip.cause c p b).fetchAt = c.fetchAt := rfl
@[simp] theorem Chip.cause_passed (c : Chip) (p : Page) (b : Nat) : (Chip.cause c p b).passed = c.passed := rfl
@[simp] theorem Chip.cause_laneCnt (c : Chip) (p : Page) (b : Nat) : (Chip.cause c p b).laneCnt = c.laneCnt := rfl
@[simp] theorem Chip.cause_maxPay (c : Chip) (p : Page) (b : Nat) : (Chip.cause c p b).maxPay = c.maxPay := rfl
@[simp] theorem Chip.cause_maxRead (c : Chip) (p : Page) (b : Nat) : (Chip.cause c p b).maxRead = c.maxRead := rfl
@[simp] theorem Chip.cause_ranks (c : Chip) (p : Page) (b : Nat) : (Chip.cause c p b).ranks = c.ranks := rfl
@[simp] theorem Chip.cause_ports (c : Chip) (p : Page) (b : Nat) : (Chip.cause c p b).ports = c.ports := rfl
@[simp] theorem Chip.cause_notices (c : Chip) (p : Page) (b : Nat) : (Chip.cause c p b).notices = c.notices := rfl
@[simp] theorem Chip.cause_sched (c : Chip) (p : Page) (b : Nat) : (Chip.cause c p b).sched = c.sched := rfl
@[simp] theorem Chip.cause_drops (c : Chip) (p : Page) (b : Nat) : (Chip.cause c p b).drops = c.drops := rfl
@[simp] theorem Chip.cause_doors (c : Chip) (p : Page) (b : Nat) : (Chip.cause c p b).doors = c.doors := rfl
@[simp] theorem Chip.cause_owed (c : Chip) (p : Page) (b : Nat) : (Chip.cause c p b).owed = c.owed := rfl
@[simp] theorem Chip.cause_tel (c : Chip) (p : Page) (b : Nat) : (Chip.cause c p b).tel = c.tel := rfl
@[simp] theorem Chip.cause_icu (c : Chip) (p : Page) (b : Nat) : (Chip.cause c p b).icu = c.icu := rfl
@[simp] theorem Chip.cause_standby (c : Chip) (p : Page) (b : Nat) : (Chip.cause c p b).standby = c.standby := rfl
@[simp] theorem Chip.cause_chk (c : Chip) (p : Page) (b : Nat) : (Chip.cause c p b).chk = c.chk := rfl
@[simp] theorem Chip.cause_pair (c : Chip) (p : Page) (b : Nat) : (Chip.cause c p b).pair = c.pair := rfl
@[simp] theorem Chip.cause_therm (c : Chip) (p : Page) (b : Nat) : (Chip.cause c p b).therm = c.therm := rfl
@[simp] theorem Chip.cause_sweep (c : Chip) (p : Page) (b : Nat) : (Chip.cause c p b).sweep = c.sweep := rfl
@[simp] theorem Chip.cause_out (c : Chip) (p : Page) (b : Nat) : (Chip.cause c p b).out = c.out := rfl

/-! Chip.setRow changes `mem` alone. -/

@[simp] theorem Chip.setRow_part (c : Chip) (p : Page) (t r o : Nat) (bs : List Byte) : (Chip.setRow c p t r o bs).part = c.part := rfl
@[simp] theorem Chip.setRow_off (c : Chip) (p : Page) (t r o : Nat) (bs : List Byte) : (Chip.setRow c p t r o bs).off = c.off := rfl
@[simp] theorem Chip.setRow_regs (c : Chip) (p : Page) (t r o : Nat) (bs : List Byte) : (Chip.setRow c p t r o bs).regs = c.regs := rfl
@[simp] theorem Chip.setRow_twBuf (c : Chip) (p : Page) (t r o : Nat) (bs : List Byte) : (Chip.setRow c p t r o bs).twBuf = c.twBuf := rfl
@[simp] theorem Chip.setRow_twRun (c : Chip) (p : Page) (t r o : Nat) (bs : List Byte) : (Chip.setRow c p t r o bs).twRun = c.twRun := rfl
@[simp] theorem Chip.setRow_initBusy (c : Chip) (p : Page) (t r o : Nat) (bs : List Byte) : (Chip.setRow c p t r o bs).initBusy = c.initBusy := rfl
@[simp] theorem Chip.setRow_commits (c : Chip) (p : Page) (t r o : Nat) (bs : List Byte) : (Chip.setRow c p t r o bs).commits = c.commits := rfl
@[simp] theorem Chip.setRow_resetting (c : Chip) (p : Page) (t r o : Nat) (bs : List Byte) : (Chip.setRow c p t r o bs).resetting = c.resetting := rfl
@[simp] theorem Chip.setRow_committed (c : Chip) (p : Page) (t r o : Nat) (bs : List Byte) : (Chip.setRow c p t r o bs).committed = c.committed := rfl
@[simp] theorem Chip.setRow_readPcie (c : Chip) (p : Page) (t r o : Nat) (bs : List Byte) : (Chip.setRow c p t r o bs).readPcie = c.readPcie := rfl
@[simp] theorem Chip.setRow_readMgmt (c : Chip) (p : Page) (t r o : Nat) (bs : List Byte) : (Chip.setRow c p t r o bs).readMgmt = c.readMgmt := rfl
@[simp] theorem Chip.setRow_logs (c : Chip) (p : Page) (t r o : Nat) (bs : List Byte) : (Chip.setRow c p t r o bs).logs = c.logs := rfl
@[simp] theorem Chip.setRow_time (c : Chip) (p : Page) (t r o : Nat) (bs : List Byte) : (Chip.setRow c p t r o bs).time = c.time := rfl
@[simp] theorem Chip.setRow_frames (c : Chip) (p : Page) (t r o : Nat) (bs : List Byte) : (Chip.setRow c p t r o bs).frames = c.frames := rfl
@[simp] theorem Chip.setRow_nextFrame (c : Chip) (p : Page) (t r o : Nat) (bs : List Byte) : (Chip.setRow c p t r o bs).nextFrame = c.nextFrame := rfl
@[simp] theorem Chip.setRow_ses (c : Chip) (p : Page) (t r o : Nat) (bs : List Byte) : (Chip.setRow c p t r o bs).ses = c.ses := rfl
@[simp] theorem Chip.setRow_recov (c : Chip) (p : Page) (t r o : Nat) (bs : List Byte) : (Chip.setRow c p t r o bs).recov = c.recov := rfl
@[simp] theorem Chip.setRow_mtrEpoch (c : Chip) (p : Page) (t r o : Nat) (bs : List Byte) : (Chip.setRow c p t r o bs).mtrEpoch = c.mtrEpoch := rfl
@[simp] theorem Chip.setRow_mtrMod (c : Chip) (p : Page) (t r o : Nat) (bs : List Byte) : (Chip.setRow c p t r o bs).mtrMod = c.mtrMod := rfl
@[simp] theorem Chip.setRow_dirty (c : Chip) (p : Page) (t r o : Nat) (bs : List Byte) : (Chip.setRow c p t r o bs).dirty = c.dirty := rfl
@[simp] theorem Chip.setRow_jrn (c : Chip) (p : Page) (t r o : Nat) (bs : List Byte) : (Chip.setRow c p t r o bs).jrn = c.jrn := rfl
@[simp] theorem Chip.setRow_keys (c : Chip) (p : Page) (t r o : Nat) (bs : List Byte) : (Chip.setRow c p t r o bs).keys = c.keys := rfl
@[simp] theorem Chip.setRow_keyLoad (c : Chip) (p : Page) (t r o : Nat) (bs : List Byte) : (Chip.setRow c p t r o bs).keyLoad = c.keyLoad := rfl
@[simp] theorem Chip.setRow_funcOn (c : Chip) (p : Page) (t r o : Nat) (bs : List Byte) : (Chip.setRow c p t r o bs).funcOn = c.funcOn := rfl
@[simp] theorem Chip.setRow_funcStop (c : Chip) (p : Page) (t r o : Nat) (bs : List Byte) : (Chip.setRow c p t r o bs).funcStop = c.funcStop := rfl
@[simp] theorem Chip.setRow_rings (c : Chip) (p : Page) (t r o : Nat) (bs : List Byte) : (Chip.setRow c p t r o bs).rings = c.rings := rfl
@[simp] theorem Chip.setRow_push (c : Chip) (p : Page) (t r o : Nat) (bs : List Byte) : (Chip.setRow c p t r o bs).push = c.push := rfl
@[simp] theorem Chip.setRow_hostQ (c : Chip) (p : Page) (t r o : Nat) (bs : List Byte) : (Chip.setRow c p t r o bs).hostQ = c.hostQ := rfl
@[simp] theorem Chip.setRow_coreQ (c : Chip) (p : Page) (t r o : Nat) (bs : List Byte) : (Chip.setRow c p t r o bs).coreQ = c.coreQ := rfl
@[simp] theorem Chip.setRow_hlt (c : Chip) (p : Page) (t r o : Nat) (bs : List Byte) : (Chip.setRow c p t r o bs).hlt = c.hlt := rfl
@[simp] theorem Chip.setRow_nextOrder (c : Chip) (p : Page) (t r o : Nat) (bs : List Byte) : (Chip.setRow c p t r o bs).nextOrder = c.nextOrder := rfl
@[simp] theorem Chip.setRow_swaps (c : Chip) (p : Page) (t r o : Nat) (bs : List Byte) : (Chip.setRow c p t r o bs).swaps = c.swaps := rfl
@[simp] theorem Chip.setRow_slowCnt (c : Chip) (p : Page) (t r o : Nat) (bs : List Byte) : (Chip.setRow c p t r o bs).slowCnt = c.slowCnt := rfl
@[simp] theorem Chip.setRow_recCnt (c : Chip) (p : Page) (t r o : Nat) (bs : List Byte) : (Chip.setRow c p t r o bs).recCnt = c.recCnt := rfl
@[simp] theorem Chip.setRow_disp (c : Chip) (p : Page) (t r o : Nat) (bs : List Byte) : (Chip.setRow c p t r o bs).disp = c.disp := rfl
@[simp] theorem Chip.setRow_relSlot (c : Chip) (p : Page) (t r o : Nat) (bs : List Byte) : (Chip.setRow c p t r o bs).relSlot = c.relSlot := rfl
@[simp] theorem Chip.setRow_bus (c : Chip) (p : Page) (t r o : Nat) (bs : List Byte) : (Chip.setRow c p t r o bs).bus = c.bus := rfl
@[simp] theorem Chip.setRow_latent (c : Chip) (p : Page) (t r o : Nat) (bs : List Byte) : (Chip.setRow c p t r o bs).latent = c.latent := rfl
@[simp] theorem Chip.setRow_acks (c : Chip) (p : Page) (t r o : Nat) (bs : List Byte) : (Chip.setRow c p t r o bs).acks = c.acks := rfl
@[simp] theorem Chip.setRow_fetchAt (c : Chip) (p : Page) (t r o : Nat) (bs : List Byte) : (Chip.setRow c p t r o bs).fetchAt = c.fetchAt := rfl
@[simp] theorem Chip.setRow_passed (c : Chip) (p : Page) (t r o : Nat) (bs : List Byte) : (Chip.setRow c p t r o bs).passed = c.passed := rfl
@[simp] theorem Chip.setRow_laneCnt (c : Chip) (p : Page) (t r o : Nat) (bs : List Byte) : (Chip.setRow c p t r o bs).laneCnt = c.laneCnt := rfl
@[simp] theorem Chip.setRow_maxPay (c : Chip) (p : Page) (t r o : Nat) (bs : List Byte) : (Chip.setRow c p t r o bs).maxPay = c.maxPay := rfl
@[simp] theorem Chip.setRow_maxRead (c : Chip) (p : Page) (t r o : Nat) (bs : List Byte) : (Chip.setRow c p t r o bs).maxRead = c.maxRead := rfl
@[simp] theorem Chip.setRow_ranks (c : Chip) (p : Page) (t r o : Nat) (bs : List Byte) : (Chip.setRow c p t r o bs).ranks = c.ranks := rfl
@[simp] theorem Chip.setRow_ports (c : Chip) (p : Page) (t r o : Nat) (bs : List Byte) : (Chip.setRow c p t r o bs).ports = c.ports := rfl
@[simp] theorem Chip.setRow_notices (c : Chip) (p : Page) (t r o : Nat) (bs : List Byte) : (Chip.setRow c p t r o bs).notices = c.notices := rfl
@[simp] theorem Chip.setRow_sched (c : Chip) (p : Page) (t r o : Nat) (bs : List Byte) : (Chip.setRow c p t r o bs).sched = c.sched := rfl
@[simp] theorem Chip.setRow_drops (c : Chip) (p : Page) (t r o : Nat) (bs : List Byte) : (Chip.setRow c p t r o bs).drops = c.drops := rfl
@[simp] theorem Chip.setRow_doors (c : Chip) (p : Page) (t r o : Nat) (bs : List Byte) : (Chip.setRow c p t r o bs).doors = c.doors := rfl
@[simp] theorem Chip.setRow_owed (c : Chip) (p : Page) (t r o : Nat) (bs : List Byte) : (Chip.setRow c p t r o bs).owed = c.owed := rfl
@[simp] theorem Chip.setRow_tel (c : Chip) (p : Page) (t r o : Nat) (bs : List Byte) : (Chip.setRow c p t r o bs).tel = c.tel := rfl
@[simp] theorem Chip.setRow_icu (c : Chip) (p : Page) (t r o : Nat) (bs : List Byte) : (Chip.setRow c p t r o bs).icu = c.icu := rfl
@[simp] theorem Chip.setRow_standby (c : Chip) (p : Page) (t r o : Nat) (bs : List Byte) : (Chip.setRow c p t r o bs).standby = c.standby := rfl
@[simp] theorem Chip.setRow_chk (c : Chip) (p : Page) (t r o : Nat) (bs : List Byte) : (Chip.setRow c p t r o bs).chk = c.chk := rfl
@[simp] theorem Chip.setRow_pair (c : Chip) (p : Page) (t r o : Nat) (bs : List Byte) : (Chip.setRow c p t r o bs).pair = c.pair := rfl
@[simp] theorem Chip.setRow_therm (c : Chip) (p : Page) (t r o : Nat) (bs : List Byte) : (Chip.setRow c p t r o bs).therm = c.therm := rfl
@[simp] theorem Chip.setRow_sweep (c : Chip) (p : Page) (t r o : Nat) (bs : List Byte) : (Chip.setRow c p t r o bs).sweep = c.sweep := rfl
@[simp] theorem Chip.setRow_out (c : Chip) (p : Page) (t r o : Nat) (bs : List Byte) : (Chip.setRow c p t r o bs).out = c.out := rfl

/-! Chip.emit changes `out` alone. -/

@[simp] theorem Chip.emit_part (c : Chip) (x : Output) : (Chip.emit c x).part = c.part := rfl
@[simp] theorem Chip.emit_off (c : Chip) (x : Output) : (Chip.emit c x).off = c.off := rfl
@[simp] theorem Chip.emit_regs (c : Chip) (x : Output) : (Chip.emit c x).regs = c.regs := rfl
@[simp] theorem Chip.emit_mem (c : Chip) (x : Output) : (Chip.emit c x).mem = c.mem := rfl
@[simp] theorem Chip.emit_twBuf (c : Chip) (x : Output) : (Chip.emit c x).twBuf = c.twBuf := rfl
@[simp] theorem Chip.emit_twRun (c : Chip) (x : Output) : (Chip.emit c x).twRun = c.twRun := rfl
@[simp] theorem Chip.emit_initBusy (c : Chip) (x : Output) : (Chip.emit c x).initBusy = c.initBusy := rfl
@[simp] theorem Chip.emit_commits (c : Chip) (x : Output) : (Chip.emit c x).commits = c.commits := rfl
@[simp] theorem Chip.emit_resetting (c : Chip) (x : Output) : (Chip.emit c x).resetting = c.resetting := rfl
@[simp] theorem Chip.emit_committed (c : Chip) (x : Output) : (Chip.emit c x).committed = c.committed := rfl
@[simp] theorem Chip.emit_readPcie (c : Chip) (x : Output) : (Chip.emit c x).readPcie = c.readPcie := rfl
@[simp] theorem Chip.emit_readMgmt (c : Chip) (x : Output) : (Chip.emit c x).readMgmt = c.readMgmt := rfl
@[simp] theorem Chip.emit_logs (c : Chip) (x : Output) : (Chip.emit c x).logs = c.logs := rfl
@[simp] theorem Chip.emit_time (c : Chip) (x : Output) : (Chip.emit c x).time = c.time := rfl
@[simp] theorem Chip.emit_frames (c : Chip) (x : Output) : (Chip.emit c x).frames = c.frames := rfl
@[simp] theorem Chip.emit_nextFrame (c : Chip) (x : Output) : (Chip.emit c x).nextFrame = c.nextFrame := rfl
@[simp] theorem Chip.emit_ses (c : Chip) (x : Output) : (Chip.emit c x).ses = c.ses := rfl
@[simp] theorem Chip.emit_recov (c : Chip) (x : Output) : (Chip.emit c x).recov = c.recov := rfl
@[simp] theorem Chip.emit_mtrEpoch (c : Chip) (x : Output) : (Chip.emit c x).mtrEpoch = c.mtrEpoch := rfl
@[simp] theorem Chip.emit_mtrMod (c : Chip) (x : Output) : (Chip.emit c x).mtrMod = c.mtrMod := rfl
@[simp] theorem Chip.emit_dirty (c : Chip) (x : Output) : (Chip.emit c x).dirty = c.dirty := rfl
@[simp] theorem Chip.emit_jrn (c : Chip) (x : Output) : (Chip.emit c x).jrn = c.jrn := rfl
@[simp] theorem Chip.emit_keys (c : Chip) (x : Output) : (Chip.emit c x).keys = c.keys := rfl
@[simp] theorem Chip.emit_keyLoad (c : Chip) (x : Output) : (Chip.emit c x).keyLoad = c.keyLoad := rfl
@[simp] theorem Chip.emit_funcOn (c : Chip) (x : Output) : (Chip.emit c x).funcOn = c.funcOn := rfl
@[simp] theorem Chip.emit_funcStop (c : Chip) (x : Output) : (Chip.emit c x).funcStop = c.funcStop := rfl
@[simp] theorem Chip.emit_rings (c : Chip) (x : Output) : (Chip.emit c x).rings = c.rings := rfl
@[simp] theorem Chip.emit_push (c : Chip) (x : Output) : (Chip.emit c x).push = c.push := rfl
@[simp] theorem Chip.emit_hostQ (c : Chip) (x : Output) : (Chip.emit c x).hostQ = c.hostQ := rfl
@[simp] theorem Chip.emit_coreQ (c : Chip) (x : Output) : (Chip.emit c x).coreQ = c.coreQ := rfl
@[simp] theorem Chip.emit_hlt (c : Chip) (x : Output) : (Chip.emit c x).hlt = c.hlt := rfl
@[simp] theorem Chip.emit_nextOrder (c : Chip) (x : Output) : (Chip.emit c x).nextOrder = c.nextOrder := rfl
@[simp] theorem Chip.emit_swaps (c : Chip) (x : Output) : (Chip.emit c x).swaps = c.swaps := rfl
@[simp] theorem Chip.emit_slowCnt (c : Chip) (x : Output) : (Chip.emit c x).slowCnt = c.slowCnt := rfl
@[simp] theorem Chip.emit_recCnt (c : Chip) (x : Output) : (Chip.emit c x).recCnt = c.recCnt := rfl
@[simp] theorem Chip.emit_disp (c : Chip) (x : Output) : (Chip.emit c x).disp = c.disp := rfl
@[simp] theorem Chip.emit_relSlot (c : Chip) (x : Output) : (Chip.emit c x).relSlot = c.relSlot := rfl
@[simp] theorem Chip.emit_bus (c : Chip) (x : Output) : (Chip.emit c x).bus = c.bus := rfl
@[simp] theorem Chip.emit_latent (c : Chip) (x : Output) : (Chip.emit c x).latent = c.latent := rfl
@[simp] theorem Chip.emit_acks (c : Chip) (x : Output) : (Chip.emit c x).acks = c.acks := rfl
@[simp] theorem Chip.emit_fetchAt (c : Chip) (x : Output) : (Chip.emit c x).fetchAt = c.fetchAt := rfl
@[simp] theorem Chip.emit_passed (c : Chip) (x : Output) : (Chip.emit c x).passed = c.passed := rfl
@[simp] theorem Chip.emit_laneCnt (c : Chip) (x : Output) : (Chip.emit c x).laneCnt = c.laneCnt := rfl
@[simp] theorem Chip.emit_maxPay (c : Chip) (x : Output) : (Chip.emit c x).maxPay = c.maxPay := rfl
@[simp] theorem Chip.emit_maxRead (c : Chip) (x : Output) : (Chip.emit c x).maxRead = c.maxRead := rfl
@[simp] theorem Chip.emit_ranks (c : Chip) (x : Output) : (Chip.emit c x).ranks = c.ranks := rfl
@[simp] theorem Chip.emit_ports (c : Chip) (x : Output) : (Chip.emit c x).ports = c.ports := rfl
@[simp] theorem Chip.emit_notices (c : Chip) (x : Output) : (Chip.emit c x).notices = c.notices := rfl
@[simp] theorem Chip.emit_sched (c : Chip) (x : Output) : (Chip.emit c x).sched = c.sched := rfl
@[simp] theorem Chip.emit_drops (c : Chip) (x : Output) : (Chip.emit c x).drops = c.drops := rfl
@[simp] theorem Chip.emit_doors (c : Chip) (x : Output) : (Chip.emit c x).doors = c.doors := rfl
@[simp] theorem Chip.emit_owed (c : Chip) (x : Output) : (Chip.emit c x).owed = c.owed := rfl
@[simp] theorem Chip.emit_tel (c : Chip) (x : Output) : (Chip.emit c x).tel = c.tel := rfl
@[simp] theorem Chip.emit_icu (c : Chip) (x : Output) : (Chip.emit c x).icu = c.icu := rfl
@[simp] theorem Chip.emit_standby (c : Chip) (x : Output) : (Chip.emit c x).standby = c.standby := rfl
@[simp] theorem Chip.emit_chk (c : Chip) (x : Output) : (Chip.emit c x).chk = c.chk := rfl
@[simp] theorem Chip.emit_pair (c : Chip) (x : Output) : (Chip.emit c x).pair = c.pair := rfl
@[simp] theorem Chip.emit_therm (c : Chip) (x : Output) : (Chip.emit c x).therm = c.therm := rfl
@[simp] theorem Chip.emit_sweep (c : Chip) (x : Output) : (Chip.emit c x).sweep = c.sweep := rfl

/-! `Chip.clear` changes `out` alone. -/

@[simp] theorem Chip.clear_part (c : Chip) : c.clear.part = c.part := rfl
@[simp] theorem Chip.clear_off (c : Chip) : c.clear.off = c.off := rfl
@[simp] theorem Chip.clear_mem (c : Chip) : c.clear.mem = c.mem := rfl
@[simp] theorem Chip.clear_twBuf (c : Chip) : c.clear.twBuf = c.twBuf := rfl
@[simp] theorem Chip.clear_twRun (c : Chip) : c.clear.twRun = c.twRun := rfl
@[simp] theorem Chip.clear_initBusy (c : Chip) : c.clear.initBusy = c.initBusy := rfl
@[simp] theorem Chip.clear_commits (c : Chip) : c.clear.commits = c.commits := rfl
@[simp] theorem Chip.clear_resetting (c : Chip) : c.clear.resetting = c.resetting := rfl
@[simp] theorem Chip.clear_committed (c : Chip) : c.clear.committed = c.committed := rfl
@[simp] theorem Chip.clear_readPcie (c : Chip) : c.clear.readPcie = c.readPcie := rfl
@[simp] theorem Chip.clear_readMgmt (c : Chip) : c.clear.readMgmt = c.readMgmt := rfl
@[simp] theorem Chip.clear_logs (c : Chip) : c.clear.logs = c.logs := rfl
@[simp] theorem Chip.clear_time (c : Chip) : c.clear.time = c.time := rfl
@[simp] theorem Chip.clear_frames (c : Chip) : c.clear.frames = c.frames := rfl
@[simp] theorem Chip.clear_nextFrame (c : Chip) : c.clear.nextFrame = c.nextFrame := rfl
@[simp] theorem Chip.clear_ses (c : Chip) : c.clear.ses = c.ses := rfl
@[simp] theorem Chip.clear_recov (c : Chip) : c.clear.recov = c.recov := rfl
@[simp] theorem Chip.clear_mtrEpoch (c : Chip) : c.clear.mtrEpoch = c.mtrEpoch := rfl
@[simp] theorem Chip.clear_mtrMod (c : Chip) : c.clear.mtrMod = c.mtrMod := rfl
@[simp] theorem Chip.clear_dirty (c : Chip) : c.clear.dirty = c.dirty := rfl
@[simp] theorem Chip.clear_jrn (c : Chip) : c.clear.jrn = c.jrn := rfl
@[simp] theorem Chip.clear_keys (c : Chip) : c.clear.keys = c.keys := rfl
@[simp] theorem Chip.clear_keyLoad (c : Chip) : c.clear.keyLoad = c.keyLoad := rfl
@[simp] theorem Chip.clear_funcOn (c : Chip) : c.clear.funcOn = c.funcOn := rfl
@[simp] theorem Chip.clear_funcStop (c : Chip) : c.clear.funcStop = c.funcStop := rfl
@[simp] theorem Chip.clear_rings (c : Chip) : c.clear.rings = c.rings := rfl
@[simp] theorem Chip.clear_push (c : Chip) : c.clear.push = c.push := rfl
@[simp] theorem Chip.clear_hostQ (c : Chip) : c.clear.hostQ = c.hostQ := rfl
@[simp] theorem Chip.clear_coreQ (c : Chip) : c.clear.coreQ = c.coreQ := rfl
@[simp] theorem Chip.clear_hlt (c : Chip) : c.clear.hlt = c.hlt := rfl
@[simp] theorem Chip.clear_nextOrder (c : Chip) : c.clear.nextOrder = c.nextOrder := rfl
@[simp] theorem Chip.clear_swaps (c : Chip) : c.clear.swaps = c.swaps := rfl
@[simp] theorem Chip.clear_slowCnt (c : Chip) : c.clear.slowCnt = c.slowCnt := rfl
@[simp] theorem Chip.clear_recCnt (c : Chip) : c.clear.recCnt = c.recCnt := rfl
@[simp] theorem Chip.clear_disp (c : Chip) : c.clear.disp = c.disp := rfl
@[simp] theorem Chip.clear_relSlot (c : Chip) : c.clear.relSlot = c.relSlot := rfl
@[simp] theorem Chip.clear_bus (c : Chip) : c.clear.bus = c.bus := rfl
@[simp] theorem Chip.clear_latent (c : Chip) : c.clear.latent = c.latent := rfl
@[simp] theorem Chip.clear_acks (c : Chip) : c.clear.acks = c.acks := rfl
@[simp] theorem Chip.clear_fetchAt (c : Chip) : c.clear.fetchAt = c.fetchAt := rfl
@[simp] theorem Chip.clear_passed (c : Chip) : c.clear.passed = c.passed := rfl
@[simp] theorem Chip.clear_laneCnt (c : Chip) : c.clear.laneCnt = c.laneCnt := rfl
@[simp] theorem Chip.clear_maxPay (c : Chip) : c.clear.maxPay = c.maxPay := rfl
@[simp] theorem Chip.clear_maxRead (c : Chip) : c.clear.maxRead = c.maxRead := rfl
@[simp] theorem Chip.clear_ranks (c : Chip) : c.clear.ranks = c.ranks := rfl
@[simp] theorem Chip.clear_ports (c : Chip) : c.clear.ports = c.ports := rfl
@[simp] theorem Chip.clear_notices (c : Chip) : c.clear.notices = c.notices := rfl
@[simp] theorem Chip.clear_sched (c : Chip) : c.clear.sched = c.sched := rfl
@[simp] theorem Chip.clear_drops (c : Chip) : c.clear.drops = c.drops := rfl
@[simp] theorem Chip.clear_doors (c : Chip) : c.clear.doors = c.doors := rfl
@[simp] theorem Chip.clear_owed (c : Chip) : c.clear.owed = c.owed := rfl
@[simp] theorem Chip.clear_tel (c : Chip) : c.clear.tel = c.tel := rfl
@[simp] theorem Chip.clear_icu (c : Chip) : c.clear.icu = c.icu := rfl
@[simp] theorem Chip.clear_standby (c : Chip) : c.clear.standby = c.standby := rfl
@[simp] theorem Chip.clear_chk (c : Chip) : c.clear.chk = c.chk := rfl
@[simp] theorem Chip.clear_pair (c : Chip) : c.clear.pair = c.pair := rfl
@[simp] theorem Chip.clear_therm (c : Chip) : c.clear.therm = c.therm := rfl
@[simp] theorem Chip.clear_sweep (c : Chip) : c.clear.sweep = c.sweep := rfl
@[simp] theorem Chip.clear_regs (c : Chip) : c.clear.regs = c.regs := rfl
@[simp] theorem Chip.clear_out (c : Chip) : c.clear.out = [] := rfl

/-! The state's three parts. -/

@[simp] theorem State.chip_setChip (s : State) (c : Chip) : ({ s with chip := c } : State).chip = c := rfl
@[simp] theorem State.clk_setChip (s : State) (c : Chip) : ({ s with chip := c } : State).clk = s.clk := rfl
@[simp] theorem State.pending_setChip (s : State) (c : Chip) : ({ s with chip := c } : State).pending = s.pending := rfl
@[simp] theorem State.chip_setPending (s : State) (q : List Instr) : ({ s with pending := q } : State).chip = s.chip := rfl
@[simp] theorem State.clk_setPending (s : State) (q : List Instr) : ({ s with pending := q } : State).clk = s.clk := rfl
@[simp] theorem State.pending_setPending (s : State) (q : List Instr) : ({ s with pending := q } : State).pending = q := rfl

end Sys2Proof.Machine
end

