-- ==== Sys2Proof/Laws/Ops.lean ====
section
/-!
SUPPORT. What the shared operations over registers, tables and outcomes can do.
-/
namespace Sys2Proof.Machine

/-! Outcomes: a command goes on, and leaves the queue. -/

theorem State.act_eq (s : State) (f : Clk → Chip → Chip) (h : s.chip.off = false) :
    s.act f = .next { s with chip := f s.clk s.chip.clear } := by simp [State.act, h]

theorem State.act_off (s : State) (f : Clk → Chip → Chip) (h : s.chip.off = true) :
    s.act f = .next { s with chip := s.chip.clear } := by simp [State.act, h]

theorem State.act_goes (s : State) (f : Clk → Chip → Chip) :
    ∃ c, s.act f = .next { s with chip := c } := ⟨_, rfl⟩

theorem State.act_clk {s t : State} {f : Clk → Chip → Chip} (h : s.act f = .next t) : t.clk = s.clk ∧ t.pending = s.pending := by
  simp only [State.act, Host.Outcome.next.injEq] at h
  subst h
  exact ⟨rfl, rfl⟩

theorem State.actClk_eq (s : State) (f : Clk → Chip → Clk × Chip) (h : s.chip.off = false) :
    s.actClk f = .next { s with clk := (f s.clk s.chip.clear).1, chip := (f s.clk s.chip.clear).2 } := by
  simp [State.actClk, h]

theorem State.actClk_goes (s : State) (f : Clk → Chip → Clk × Chip) :
    ∃ t, s.actClk f = .next t ∧ t.pending = s.pending := by
  unfold State.actClk
  split
  · exact ⟨_, rfl, rfl⟩
  · exact ⟨_, rfl, rfl⟩

theorem State.onCx_eq {s : State} {x : Cx} (f : Clk → Chip → Chip) (h : s.ready x) :
    s.onCx x f = .next { s with chip := f s.clk s.chip.clear } := by
  have h2 : awake s.chip.clear x = true := h.2
  simp [State.onCx, State.act, h.1, h2]

theorem State.onRx_eq {s : State} {n : Fin 512} (f : Clk → Chip → Chip) (h : s.ready (cxOf n)) :
    s.onRx n f = .next { s with chip := f s.clk s.chip.clear } := by
  have h2 : awake s.chip.clear (cxOf n) = true := h.2
  simp [State.onRx, State.act, h.1, h2]

theorem State.onPage_eq {s : State} {p : Page} (f : Clk → Chip → Chip) (h : s.chip.off = false)
    (hp : pageAwake s.chip p = true) : s.onPage p f = .next { s with chip := f s.clk s.chip.clear } := by
  have h2 : pageAwake s.chip.clear p = true := hp
  simp [State.onPage, State.act, h, h2]

theorem State.onPair_eq {s : State} (f : Clk → Chip → Chip) (h : s.chip.off = false) (hp : hasSaggar s.chip.part = true) :
    s.onPair f = .next { s with chip := f s.clk s.chip.clear } := by
  simp [State.onPair, State.act, h, hp]

/-! Registers: a register written reads back, and another does not change. -/

theorem Chip.get_eq (c : Chip) (p : Page) (o : Nat) : Chip.get c p o = (kvFind c.regs (regKey p o)).getD (Page.resetAt p o) := by
  simp [Chip.get, regKey, kvGet_eq_kvFind]

theorem Chip.getLive_eq (c : Chip) (p : Page) (o : Nat) :
    Chip.getLive c p o = (kvFind c.regs (liveKey p o)).getD (Page.resetAt p o) := by
  simp [Chip.getLive, liveKey, kvGet_eq_kvFind]

@[simp] theorem Chip.get_put_self (c : Chip) (p : Page) (o : Nat) (v : Word) : Chip.get (Chip.put c p o v) p o = v := by
  simp [Chip.get, Chip.put]

theorem Chip.get_put_ne (c : Chip) (p q : Page) (o u : Nat) (v : Word) (h : regKey q u ≠ regKey p o) :
    Chip.get (Chip.put c p o v) q u = Chip.get c q u := by
  simp only [Chip.get, Chip.put]
  exact kvGet_kvPut_ne _ _ _ h

theorem Chip.get_put_off (c : Chip) (p : Page) (o u : Nat) (v : Word) (h : u ≠ o) :
    Chip.get (Chip.put c p o v) p u = Chip.get c p u :=
  Chip.get_put_ne c p p o u v (by simp only [regKey]; omega)

@[simp] theorem Chip.getLive_putLive_self (c : Chip) (p : Page) (o : Nat) (v : Word) :
    Chip.getLive (Chip.putLive c p o v) p o = v := by simp [Chip.getLive, Chip.putLive]

theorem Chip.getLive_put (c : Chip) (p q : Page) (o u : Nat) (v : Word) (h : liveKey q u ≠ regKey p o) :
    Chip.getLive (Chip.put c p o v) q u = Chip.getLive c q u := by
  simp only [Chip.getLive, Chip.put]
  exact kvGet_kvPut_ne _ _ _ h

/-- A read of a register depends on the stored registers alone. -/
theorem Chip.get_congr {c d : Chip} (h : c.regs = d.regs) (p : Page) (o : Nat) : Chip.get c p o = Chip.get d p o := by
  simp [Chip.get, h]

theorem Chip.getLive_congr {c d : Chip} (h : c.regs = d.regs) (p : Page) (o : Nat) :
    Chip.getLive c p o = Chip.getLive d p o := by simp [Chip.getLive, h]

theorem SameRegs.get {c d : Chip} {ks : List Nat} (h : SameRegs c d ks) {p : Page} {o : Nat} (hk : regKey p o ∉ ks) :
    Chip.get d p o = Chip.get c p o := by simp [Chip.get_eq, h _ hk]

theorem SameRegs.getLive {c d : Chip} {ks : List Nat} (h : SameRegs c d ks) {p : Page} {o : Nat} (hk : liveKey p o ∉ ks) :
    Chip.getLive d p o = Chip.getLive c p o := by simp [Chip.getLive_eq, h _ hk]

/-! What changes registers alone. -/

theorem OnlyRegs.refl (c : Chip) (ks : List Nat) : OnlyRegs c c ks := ⟨rfl, fun _ _ => rfl⟩

theorem OnlyRegs.out {c d : Chip} {ks : List Nat} (h : OnlyRegs c d ks) (l : List Output) : OnlyRegs c { d with out := l } ks :=
  ⟨h.1, h.2⟩

theorem OnlyRegs.clear (c : Chip) (ks : List Nat) : OnlyRegs c c.clear ks := ⟨rfl, fun _ _ => rfl⟩

theorem OnlyRegs.put {c d : Chip} {ks : List Nat} (h : OnlyRegs c d ks) {p : Page} {o : Nat} (v : Word)
    (hk : regKey p o ∈ ks) : OnlyRegs c (Chip.put d p o v) ks := by
  refine ⟨h.1, fun a ha => ?_⟩
  have hne : a ≠ regKey p o := fun e => ha (e ▸ hk)
  have := h.2 a ha
  exact (kvFind_kvPut_ne _ _ hne).trans this

theorem OnlyRegs.putLive {c d : Chip} {ks : List Nat} (h : OnlyRegs c d ks) {p : Page} {o : Nat} (v : Word)
    (hk : liveKey p o ∈ ks) : OnlyRegs c (Chip.putLive d p o v) ks := by
  refine ⟨h.1, fun a ha => ?_⟩
  have hne : a ≠ liveKey p o := fun e => ha (e ▸ hk)
  have := h.2 a ha
  exact (kvFind_kvPut_ne _ _ hne).trans this

theorem OnlyRegs.setFld {c d : Chip} {ks : List Nat} (h : OnlyRegs c d ks) {p : Page} {o : Nat} (hi lo x : Nat)
    (hk : regKey p o ∈ ks) : OnlyRegs c (Chip.setFld d p o hi lo x) ks := h.put _ hk

theorem OnlyRegs.bump {c d : Chip} {ks : List Nat} (h : OnlyRegs c d ks) {p : Page} {o : Nat}
    (hk : regKey p o ∈ ks) : OnlyRegs c (Chip.bump d p o) ks := h.put _ hk

theorem OnlyRegs.cause {c d : Chip} {ks : List Nat} (h : OnlyRegs c d ks) {p : Page} (b : Nat)
    (hk : regKey p 0x010 ∈ ks) : OnlyRegs c (Chip.cause d p b) ks := h.put _ hk

theorem OnlyRegs.emit {c d : Chip} {ks : List Nat} (h : OnlyRegs c d ks) (o : Output) : OnlyRegs c (Chip.emit d o) ks :=
  h.out _

theorem OnlyRegs.onlyIf {c d : Chip} {ks : List Nat} (h : OnlyRegs c d ks) (b : Bool) {f : Chip → Chip}
    (hf : b = true → OnlyRegs c (f d) ks) : OnlyRegs c (Chip.onlyIf d b f) ks := by
  unfold Chip.onlyIf
  cases b
  · exact h
  · exact hf rfl

theorem OnlyRegs.mono {c d : Chip} {ks js : List Nat} (h : OnlyRegs c d ks) (hs : ∀ a ∈ ks, a ∈ js) : OnlyRegs c d js :=
  ⟨h.1, fun a ha => h.2 a (fun hk => ha (hs a hk))⟩

/-- An error captured changes the page's error registers and its causes alone (R65, R75). -/
theorem OnlyRegs.capture {c d : Chip} {ks : List Nat} (h : OnlyRegs c d ks) {p : Page} (a b e f : Nat)
    (h1 : regKey p 0x020 ∈ ks) (h2 : regKey p 0x024 ∈ ks) (h3 : regKey p 0x010 ∈ ks) :
    OnlyRegs c (Chip.capture d p a b e f) ks := by
  unfold Chip.capture
  split
  · exact h.setFld _ _ _ h1
  · exact ((h.put _ h1).put _ h2).cause _ h3

/-- LATE set changes HDR_STAT and the page's causes alone (R69). -/
theorem OnlyRegs.setLate {c d : Chip} {ks : List Nat} (h : OnlyRegs c d ks) {p : Page}
    (h1 : regKey p 0x00C ∈ ks) (h3 : regKey p 0x010 ∈ ks) : OnlyRegs c (Chip.setLate d p) ks := by
  unfold Chip.setLate
  split
  · exact h
  · exact (h.setFld _ _ _ h1).cause _ h3

/-! Fields. -/

theorem bits_of_lt (v hi lo : Nat) : bits v hi lo < 2 ^ (hi + 1 - lo) := Nat.mod_lt _ (Nat.two_pow_pos _)

theorem bit_eq_testBit (v i : Nat) : bit v i = v.testBit i := rfl

theorem testBit_bits (v hi lo j : Nat) : (bits v hi lo).testBit j = (decide (j < hi + 1 - lo) && v.testBit (lo + j)) := by
  simp [bits, Nat.testBit_mod_two_pow, Nat.testBit_div_two_pow, Nat.add_comm]

theorem testBit_maskW (hi lo i : Nat) (h : hi < 64) :
    (maskW hi lo).toNat.testBit i = (decide (lo ≤ i) && decide (i ≤ hi)) := by
  have e : (2 ^ (hi + 1 - lo) - 1) * 2 ^ lo = (2 ^ (hi + 1 - lo) - 1) <<< lo := by rw [Nat.shiftLeft_eq]
  simp only [maskW, BitVec.toNat_ofNat, e, Nat.testBit_mod_two_pow, Nat.testBit_shiftLeft, Nat.testBit_two_pow_sub_one]
  by_cases h1 : lo ≤ i <;> by_cases h2 : i ≤ hi <;> (simp [h1, h2]; try omega)

theorem testBit_merge (m a b : Word) (i : Nat) :
    (merge m a b).toNat.testBit i = ((a.toNat.testBit i && !m.toNat.testBit i) || (b.toNat.testBit i && m.toNat.testBit i)) := by
  simp only [merge, BitVec.testBit_toNat, BitVec.getLsbD_or, BitVec.getLsbD_and, BitVec.getLsbD_not]
  by_cases hi : i < 64
  · simp [hi]
  · have ha : a.getLsbD i = false := BitVec.getLsbD_of_ge a i (by omega)
    simp [ha, hi]

/-- The bits of a register after a field of it is set. -/
theorem Chip.testBit_setFld (c : Chip) (p : Page) (o hi lo x i : Nat) (h : hi < 64) :
    (Chip.get (Chip.setFld c p o hi lo x) p o).toNat.testBit i =
      if lo ≤ i ∧ i ≤ hi then x.testBit (i - lo) else (Chip.get c p o).toNat.testBit i := by
  have hx : (BitVec.ofNat 64 (x * 2 ^ lo)).toNat.testBit i = (decide (i < 64) && (decide (lo ≤ i) && x.testBit (i - lo))) := by
    rw [BitVec.toNat_ofNat, Nat.testBit_mod_two_pow, ← Nat.shiftLeft_eq, Nat.testBit_shiftLeft]
  rw [Chip.setFld, Chip.get_put_self, testBit_merge, testBit_maskW hi lo i h, hx]
  by_cases h1 : lo ≤ i <;> by_cases h2 : i ≤ hi <;> (simp [h1, h2]; try omega)

/-- A field set reads as the low bits of what it was set to. -/
theorem Chip.fld_setFld_self (c : Chip) (p : Page) (o hi lo x : Nat) (h : hi < 64) :
    Chip.fld (Chip.setFld c p o hi lo x) p o hi lo = x % 2 ^ (hi + 1 - lo) := by
  apply Nat.eq_of_testBit_eq
  intro j
  rw [Chip.fld, testBit_bits, Chip.testBit_setFld c p o hi lo x _ h, Nat.testBit_mod_two_pow]
  by_cases h1 : j < hi + 1 - lo
  · have h2 : lo ≤ lo + j ∧ lo + j ≤ hi := by omega
    simp [h1, h2]
  · simp [h1]

/-- A field set leaves the fields of the register that do not overlap it. -/
theorem Chip.fld_setFld_ne (c : Chip) (p : Page) (o hi lo x a b : Nat) (h : hi < 64) (hd : a < lo ∨ hi < b) :
    Chip.fld (Chip.setFld c p o hi lo x) p o a b = Chip.fld c p o a b := by
  apply Nat.eq_of_testBit_eq
  intro j
  rw [Chip.fld, Chip.fld, testBit_bits, testBit_bits, Chip.testBit_setFld c p o hi lo x _ h]
  by_cases h1 : j < a + 1 - b
  · have h2 : ¬ (lo ≤ b + j ∧ b + j ≤ hi) := by omega
    simp [h1, h2]
  · simp [h1]

/-- A bit of a register after a field of it is set. -/
theorem Chip.flag_setFld (c : Chip) (p : Page) (o hi lo x i : Nat) (h : hi < 64) :
    Chip.flag (Chip.setFld c p o hi lo x) p o i = if lo ≤ i ∧ i ≤ hi then x.testBit (i - lo) else Chip.flag c p o i :=
  Chip.testBit_setFld c p o hi lo x i h

theorem Chip.fld_congr {c d : Chip} {p : Page} {o : Nat} (h : Chip.get c p o = Chip.get d p o) (hi lo : Nat) :
    Chip.fld c p o hi lo = Chip.fld d p o hi lo := by simp [Chip.fld, h]

theorem Chip.flag_congr {c d : Chip} {p : Page} {o : Nat} (h : Chip.get c p o = Chip.get d p o) (i : Nat) :
    Chip.flag c p o i = Chip.flag d p o i := by simp [Chip.flag, h]

/-- A cause is set, and the others stand. -/
theorem Chip.flag_cause (c : Chip) (p : Page) (b i : Nat) (h : b < 64) :
    Chip.flag (Chip.cause c p b) p 0x010 i = (decide (i = b) || Chip.flag c p 0x010 i) := by
  rw [Chip.cause, Chip.flag_setFld c p 0x010 b b 1 i h]
  by_cases h1 : i = b
  · subst h1; simp
  · have h2 : ¬ (b ≤ i ∧ i ≤ b) := by omega
    simp [h1, h2]

/-- A counter advanced by one. -/
theorem Chip.get_bump_self (c : Chip) (p : Page) (o : Nat) : Chip.get (Chip.bump c p o) p o = Chip.get c p o + 1 := by
  simp [Chip.bump, Chip.bumpBy]

theorem Chip.get_setFld_off (c : Chip) (p : Page) (o hi lo x u : Nat) (h : u ≠ o) :
    Chip.get (Chip.setFld c p o hi lo x) p u = Chip.get c p u := Chip.get_put_off c p o u _ h

theorem Chip.get_cause_off (c : Chip) (p : Page) (b u : Nat) (h : u ≠ 0x010) :
    Chip.get (Chip.cause c p b) p u = Chip.get c p u := Chip.get_put_off c p 0x010 u _ h

theorem Chip.get_bump_off (c : Chip) (p : Page) (o u : Nat) (h : u ≠ o) :
    Chip.get (Chip.bump c p o) p u = Chip.get c p u := Chip.get_put_off c p o u _ h

/-! The outputs of the command before are gone; every register and state reads as it did. -/

@[simp] theorem Chip.get_clear (c : Chip) (p : Page) (o : Nat) : Chip.get c.clear p o = Chip.get c p o := rfl
@[simp] theorem Chip.getLive_clear (c : Chip) (p : Page) (o : Nat) : Chip.getLive c.clear p o = Chip.getLive c p o := rfl
@[simp] theorem Chip.fld_clear (c : Chip) (p : Page) (o hi lo : Nat) : Chip.fld c.clear p o hi lo = Chip.fld c p o hi lo := rfl
@[simp] theorem Chip.live_clear (c : Chip) (p : Page) (o hi lo : Nat) : Chip.live c.clear p o hi lo = Chip.live c p o hi lo := rfl
@[simp] theorem Chip.flag_clear (c : Chip) (p : Page) (o i : Nat) : Chip.flag c.clear p o i = Chip.flag c p o i := rfl
@[simp] theorem Chip.liveFlag_clear (c : Chip) (p : Page) (o i : Nat) : Chip.liveFlag c.clear p o i = Chip.liveFlag c p o i := rfl
@[simp] theorem Chip.enabled_clear (c : Chip) (p : Page) : Chip.enabled c.clear p = Chip.enabled c p := rfl
@[simp] theorem Chip.locked_clear (c : Chip) (p : Page) : Chip.locked c.clear p = Chip.locked c p := rfl
@[simp] theorem Chip.busy_clear (c : Chip) (k : Clk) (p : Page) : Chip.busy c.clear k p = Chip.busy c k p := rfl
@[simp] theorem awake_clear (c : Chip) (x : Cx) : awake c.clear x = awake c x := rfl
@[simp] theorem pageAwake_clear (c : Chip) (p : Page) : pageAwake c.clear p = pageAwake c p := rfl
@[simp] theorem writesRefused_clear (k : Clk) (c : Chip) (p : Page) : writesRefused k c.clear p = writesRefused k c p := rfl

end Sys2Proof.Machine
end

