-- ==== Sys2Proof/Laws/Port.lean ====
section
/-!
SUPPORT. The register access port: where an offset of a page lands, and what a named register write does.
-/
namespace Sys2Proof.Machine

/-! Places (R60 to R64). -/

/-- The ranges of two page types do not overlap. -/
theorem types_apart : ∀ t ∈ allTypes, ∀ u ∈ allTypes, t ≠ u →
    typeOffset t + typeCount t * 0x1000 ≤ typeOffset u ∨ typeOffset u + typeCount u * 0x1000 ≤ typeOffset t := by decide

theorem mem_allTypes (t : CxType) : t ∈ allTypes := by cases t <;> decide

/-- Every page type lies within the complex's range. -/
theorem type_below (t : CxType) : typeOffset t + typeCount t * 0x1000 ≤ 0x1000000 ∧ typeOffset t % 0x1000 = 0 ∧
    typeCount t ≤ 256 := by cases t <;> decide

theorem find?_unique {α : Type} {l : List α} {f : α → Bool} {a : α} (ha : a ∈ l) (hf : f a = true)
    (hu : ∀ b ∈ l, f b = true → b = a) : l.find? f = some a := by
  cases h : l.find? f with
  | none => exact absurd hf (by simpa using List.find?_eq_none.mp h a ha)
  | some b => rw [hu b (List.mem_of_find?_eq_some h) (List.find?_some h)]

/-- An offset of an instance of a page type is found in the complex's range. -/
theorem typeOf_at (t : CxType) (i o : Nat) (hi : i < typeCount t) (ho : o < 0x1000) :
    typeOf (typeOffset t + i * 0x1000 + o) = some (t, i) := by
  have hd : (typeOffset t + i * 0x1000 + o - typeOffset t) / 0x1000 = i := by omega
  have hfind : allTypes.find? (fun u => decide (typeOffset u ≤ typeOffset t + i * 0x1000 + o) &&
      decide ((typeOffset t + i * 0x1000 + o - typeOffset u) / 0x1000 < typeCount u)) = some t := by
    apply find?_unique (mem_allTypes t)
    · simp only [Bool.and_eq_true, decide_eq_true_eq]
      omega
    · intro u hu hb
      simp only [Bool.and_eq_true, decide_eq_true_eq] at hb
      by_contra hne
      have ha := types_apart t (mem_allTypes t) u hu (Ne.symm hne)
      have hc : typeOffset t + i * 0x1000 + o - typeOffset u < typeCount u * 0x1000 := by
        have := Nat.div_lt_iff_lt_mul (x := typeOffset t + i * 0x1000 + o - typeOffset u) (y := typeCount u) (k := 0x1000) (by omega)
        exact this.mp hb.2
      omega
  rw [typeOf, hfind, Option.map_some, hd]

/-- A page of a complex is found at its own place. -/
theorem pageAt_page {part : Part} {p : Page} {o : Nat} (h : Page.present part p = true) (ho : o < 0x1000) :
    pageAt part (Page.base p + o) = some p := by
  cases p with
  | cx x t i =>
    have hx : hasCx part x = true ∧ i.val < typeCount t := by
      simp only [Page.present, Bool.and_eq_true, decide_eq_true_eq] at h
      exact ⟨h.1.1, h.1.2⟩
    have hb := type_below t
    have hi : i.val * 0x1000 + 0x1000 ≤ typeCount t * 0x1000 := by omega
    have h1 : ¬ Page.base (.cx x t i) + o < 0x1000000 := by simp only [Page.base, cxBase]; omega
    have hxv := x.isLt
    have h2 : Page.base (.cx x t i) + o < 0x3000000 := by simp only [Page.base, cxBase]; omega
    have h3 : (Page.base (.cx x t i) + o) % 0x1000000 = typeOffset t + i.val * 0x1000 + o := by
      simp only [Page.base, cxBase]; omega
    have h4 : (if Page.base (.cx x t i) + o < 0x2000000 then (0 : Cx) else 1) = x := by
      rcases Nat.lt_or_ge x.val 1 with hv | hv
      · have h0 : x = 0 := Fin.ext (Nat.lt_one_iff.mp hv)
        have hlt : Page.base (.cx x t i) + o < 0x2000000 := by simp only [Page.base, cxBase]; omega
        rw [if_pos hlt, h0]
      · have h0 : x = 1 := Fin.ext (show x.val = 1 by omega)
        have hge : ¬ Page.base (.cx x t i) + o < 0x2000000 := by simp only [Page.base, cxBase]; omega
        rw [if_neg hge, h0]
    simp only [pageAt, h1, h2, if_false, if_true, h3, typeOf_at t i.val o hx.2 ho, Option.map_some, Option.bind_some, h4]
    have h5 : Fin.ofNat 256 i.val = i := by simp
    rw [h5, if_pos h]
  | _ =>
    simp only [Page.base]
    unfold pageAt
    have : ∀ b, b + o < 0x1000000 → b % 0x1000 = 0 → (b + o) / 0x1000 = b / 0x1000 := by intro b _ hb; omega
    rw [if_pos (by omega), this _ (by omega) (by omega)]
    simp [h]

theorem base_aligned (p : Page) : Page.base p % 0x1000 = 0 := by
  cases p with
  | cx x t i => have := (type_below t).2.1; simp only [Page.base, cxBase]; omega
  | _ => rfl

theorem base_below {part : Part} {p : Page} (h : Page.present part p = true) : Page.base p + 0x1000 ≤ 0x3000000 := by
  cases p with
  | cx x t i =>
    have hx : i.val < typeCount t := by
      simp only [Page.present, Bool.and_eq_true, decide_eq_true_eq] at h
      exact h.1.2
    have := type_below t
    have := x.isLt
    simp only [Page.base, cxBase]; omega
  | _ => simp [Page.base]

/-- A register offset of a page the part has lands on that page. -/
theorem placeOf_page {part : Part} {p : Page} {o : Nat} (h : Page.present part p = true) (ho : o < 0x800) :
    placeOf part (Page.base p + o) = .reg p o := by
  have ha := base_aligned p
  have hb := base_below h
  have h1 : ¬ (0x3000000 ≤ Page.base p + o ∧ Page.base p + o < 0x4000000) := by omega
  have h2 : (Page.base p + o) % 0x1000 = o := by omega
  simp only [placeOf, h1, if_false, pageAt_page h (by omega : o < 0x1000), h2, ho, if_true]

theorem portPlace_page {c : Chip} {p : Page} {o : Nat} (h : pageAwake c p = true) (ho : o < 0x800) :
    portPlace c (Page.base p + o) = .reg p o := by
  simp only [pageAwake, Bool.and_eq_true] at h
  rw [portPlace, placeOf_page h.1 ho]
  cases p with
  | cx x t i =>
    have hx : ¬ x ∈ c.standby := by
      have := h.2
      simp only [awake, Bool.and_eq_true, Bool.not_eq_true', decide_eq_false_iff_not] at this
      exact this.2
    simp [hx]
  | _ => rfl

/-! Named writes. -/

theorem violates_unlocked {c : Chip} {p : Page} (h : Chip.locked c p = false) (r : Reg) (s v : Nat) :
    violates c p r s v = false := by simp [violates, h]

/-- A named 4-byte write of a register that the page takes. -/
theorem writeReg_eq (k : Clk) (p : Page) (o v : Nat) (c : Chip) (r : Reg) (ha : pageAwake c p = true)
    (hb : writesRefused k c p = false) (hl : Chip.locked c p = false) (hr : Page.regAt p o = some r) (h4 : r.bytes = 4)
    (ho : o < 0x800) (h0 : o % 4 = 0) :
    writeReg k p o v c = masterWrote .pcie (regWrite k p r o (v % 2 ^ 32) c) := by
  have hal := base_aligned p
  have hs : sizeOk { master := .pcie, addr := Page.base p + o, size := 4, op := .write (BitVec.ofNat 64 v) } = true := by
    simp [sizeOk]; omega
  have hv : v % 2 ^ 64 % 2 ^ 32 = v % 2 ^ 32 := by omega
  have hc : covered p o 4 (v % 2 ^ 64) = some [(r, o, v % 2 ^ 32)] := by
    simp only [covered, hr, h4]
    simp
  simp only [writeReg, access, portWrite, portPlace_page ha ho, hs, if_true, BitVec.toNat_ofNat, pageWrite, hc, hb,
    List.any_cons, List.any_nil, violates_unlocked hl, Bool.or_false, if_false, List.foldl_cons, List.foldl_nil, Bool.false_eq_true]

/-- A named 8-byte write of a 64-bit register that the page takes. -/
theorem writeReg8_eq (k : Clk) (p : Page) (o v : Nat) (c : Chip) (r : Reg) (ha : pageAwake c p = true)
    (hb : writesRefused k c p = false) (hl : Chip.locked c p = false) (hr : Page.regAt p o = some r) (h8 : r.bytes = 8)
    (ho : o < 0x800) (h0 : o % 8 = 0) :
    writeReg8 k p o v c = masterWrote .pcie (regWrite k p r o (v % 2 ^ 64) c) := by
  have hal := base_aligned p
  have hs : sizeOk { master := .pcie, addr := Page.base p + o, size := 8, op := .write (BitVec.ofNat 64 v) } = true := by
    simp [sizeOk]; omega
  have hc : covered p o 8 (v % 2 ^ 64) = some [(r, o, v % 2 ^ 64)] := by
    simp only [covered, hr, h8, if_true]
  simp only [writeReg8, access, portWrite, portPlace_page ha ho, hs, if_true, BitVec.toNat_ofNat, pageWrite, hc, hb,
    List.any_cons, List.any_nil, violates_unlocked hl, Bool.or_false, if_false, List.foldl_cons, List.foldl_nil, Bool.false_eq_true]

/-- The parts of the register that a part lacks: none but on a journal page, and among the profiles of a session page. -/
theorem partMask_full (part : Part) (p : Page) (o : Nat) (h : ∀ x i, p ≠ .cx x .jrn i)
    (h2 : o < 0x22C ∨ ∀ x i, p ≠ .cx x .ses i) : partMask part p o = 2 ^ 64 - 1 := by
  cases p with
  | cx x t i =>
    cases t <;> first
      | rfl
      | exact absurd rfl (h x i)
      | (rcases h2 with h2 | h2
         · have : ¬ 556 ≤ o := by omega
           simp [partMask, this]
         · exact absurd rfl (h2 x i))
  | _ => rfl

theorem and_full {m : Nat} (v : Nat) (hm : m = 2 ^ 64 - 1) (h : v < 2 ^ 64) : v &&& m = v := by
  rw [hm, Nat.and_two_pow_sub_one_eq_mod, Nat.mod_eq_of_lt h]

/-! The header's registers are on every page, and every part has them whole. -/

theorem regAt_ctl (p : Page) :
    Page.regAt p 0x008 = some (r32 "HDR_CTL" 0x008 [fW1s 3 3, fWos 2 2, fRw 1 1 0, fRws 0 0 0]) := by
  cases p with
  | cx x t i => cases t <;> rfl
  | _ => rfl

theorem regAt_irqStat (p : Page) :
    Page.regAt p 0x010 = some (r32 "HDR_IRQ_STAT" 0x010 [fW1c 31 8, fW1c 3 3, fW1c 2 2, fW1c 1 1, fW1c 0 0]) := by
  cases p with
  | cx x t i => cases t <;> rfl
  | _ => rfl

theorem regAt_irqForce (p : Page) : Page.regAt p 0x018 = some (r32 "HDR_IRQ_FORCE" 0x018 [fW1s 31 0]) := by
  cases p with
  | cx x t i => cases t <;> rfl
  | _ => rfl

theorem regAt_gen (p : Page) : Page.regAt p 0x01C = some (r32 "HDR_GEN" 0x01C [fRw 31 16 0, fRo 15 0 0]) := by
  cases p with
  | cx x t i => cases t <;> rfl
  | _ => rfl

theorem regAt_errInfo (p : Page) : Page.regAt p 0x020 =
    some (r32 "HDR_ERR_INFO" 0x020 [fW1c 31 31, fW1c 30 30, fRo 23 20 0, fRo 19 16 0, fRo 15 0 0]) := by
  cases p with
  | cx x t i => cases t <;> rfl
  | _ => rfl

theorem regAt_scratch (p : Page) : Page.regAt p 0x028 = some (r32 "HDR_SCRATCH" 0x028 [fRw 31 0 0]) := by
  cases p with
  | cx x t i => cases t <;> rfl
  | _ => rfl

theorem partMask_hdr (part : Part) (p : Page) (o : Nat) (h : o < 0x40) : partMask part p o = 2 ^ 64 - 1 := by
  have h1 : ¬ o = 0x40 := by omega
  have h2 : ¬ (o = 0x050 ∨ o = 0x058 ∨ o = 0x078) := by omega
  have h3 : ¬ (0x060 ≤ o ∧ o ≤ 0x070) := by omega
  have h4 : ¬ 556 ≤ o := by omega
  cases p with
  | cx x t i => cases t <;> first | rfl | (simp only [partMask, if_neg h1, if_neg h2, if_neg h3, ite_self]; done) | (simp [partMask, h4])
  | _ => rfl

/-- A named 4-byte write of a register of a page that takes it. -/
theorem State.writable_write {s : State} {p : Page} (h : s.writable p) (o v : Nat) (r : Reg) (hr : Page.regAt p o = some r)
    (h4 : r.bytes = 4) (ho : o < 0x800) (h0 : o % 4 = 0) :
    writeReg s.clk p o v s.chip.clear = masterWrote .pcie (regWrite s.clk p r o (v % 2 ^ 32) s.chip.clear) :=
  writeReg_eq s.clk p o v s.chip.clear r h.2.1 h.2.2.1 h.2.2.2 hr h4 ho h0

/-- A named 8-byte write of a register of a page that takes it. -/
theorem State.writable_write8 {s : State} {p : Page} (h : s.writable p) (o v : Nat) (r : Reg) (hr : Page.regAt p o = some r)
    (h8 : r.bytes = 8) (ho : o < 0x800) (h0 : o % 8 = 0) :
    writeReg8 s.clk p o v s.chip.clear = masterWrote .pcie (regWrite s.clk p r o (v % 2 ^ 64) s.chip.clear) :=
  writeReg8_eq s.clk p o v s.chip.clear r h.2.1 h.2.2.1 h.2.2.2 hr h8 ho h0

/-- A named write of a header register of a page that takes it. -/
theorem State.writable_hdr {s : State} {p : Page} (h : s.writable p) (o v : Nat) (r : Reg) (hr : Page.regAt p o = some r)
    (h4 : r.bytes = 4) (ho : o < 0x40) (h0 : o % 4 = 0) :
    writeReg s.clk p o v s.chip.clear = masterWrote .pcie (hdrWrite s.clk p r o (v % 2 ^ 32) s.chip.clear) := by
  rw [State.writable_write h o v r hr h4 (by omega) h0]
  have hm := and_full (v % 2 ^ 32) (partMask_hdr s.chip.clear.part p o ho) (by omega)
  rw [regWrite, if_pos ho, hm]

/-- A unit's register, on a page that every part has whole. -/
theorem regWrite_unit (k : Clk) (p : Page) (r : Reg) (o v : Nat) (c : Chip) (hp : ∀ x i, p ≠ .cx x .jrn i) (ho : 0x40 ≤ o)
    (hv : v < 2 ^ 64) (hs : o < 0x22C ∨ ∀ x i, p ≠ .cx x .ses i) : regWrite k p r o v c = unitWrite k p r o v c := by
  rw [regWrite, if_neg (by omega), and_full v (partMask_full c.part p o hp hs) hv]

end Sys2Proof.Machine
end

