-- ==== Sys2Proof/Laws/Safety.lean ====
section
/-!
SUPPORT. Chip time in range, as its four bounds.
-/
namespace Sys2Proof.Machine

theorem Clk.ok_iff (k : Clk) :
    Clk.Ok k ↔ k.clock < 1600 ∧ k.sec < 2 ^ 48 ∧ k.ns < 1000000000 ∧ k.frac < 2 ^ 48 :=
  ⟨fun h => ⟨h.clock, h.sec, h.ns, h.frac⟩, fun h => ⟨h.1, h.2.1, h.2.2.1, h.2.2.2⟩⟩

end Sys2Proof.Machine
end

