-- ==== Sys2Proof/Machine/Pins.lean ====
section
/-!
DEFINITION. The output pins that follow the state of the chip: TOD_OUT, SYNCE_CLK_OUT0 and 1, FAULT_N, THERM_N (R54 to R57,
R138, R143, R145). PPS_OUT and TIME_OK stand in Time, WAKE_N in Icu, the PAIR pins in PairSt.
-/
namespace Sys2Proof.Machine

/-- A run of characters on a TOD line: a start bit, eight data bits, least significant first, a stop bit (R137). -/
def todBits (bs : List Byte) : List Bool :=
  bs.flatMap (fun b => false :: ((List.range 8).map (fun i => b.getLsbD i) ++ [true]))

/-- The TOD_OUT pin at 1 Mbaud, 1,562.5 clocks a bit: idle high, none while released (R54, R137, R138, R154). -/
def Chip.todOutPin (k : Clk) (c : Chip) : Option Bool :=
  if !c.off && Chip.enabled c .tim && Chip.liveFlag c .tim 0x040 6 then
    some (match c.time.todTx with
      | some (at_, bs) => (todBits bs).getD ((Clk.abs k - at_) * 2 / 3125) true
      | none => true)
  else none

/-- A clock on an export: the recovered clock of a lane at a line rate, in 10 kHz, divided (R145). -/
structure SynceClock where
  lane : Nat
  rate : Nat
  div  : Nat
deriving DecidableEq, Repr

/-- What SYNCE_CLK_OUT `i` carries: nothing while it is squelched or released (R54, R56, R145, R146, R154). -/
def Chip.syncePin (c : Chip) (i : Nat) : Option SynceClock :=
  let o := 0x0F8 + 4 * i
  let lane : Fin 512 := Fin.ofNat 512 (Chip.live c .tim o 24 16)
  if !c.off && Chip.enabled c .tim && Chip.liveFlag c .tim o 31 && !Chip.flag c .tim o 30 then
    (laneOwner c lane).map (fun n => ⟨lane.val, modeLine (Chip.modeAt c n), Chip.live c .tim o 15 0⟩)
  else none

/-- FAULT_N is low while ICU_LEVEL shows the level of one of sources 1 to 15 high (R55, R143). -/
def Chip.faultLow (c : Chip) : Bool := !c.off && (List.range 15).any (fun i => icuLevel c (i + 1))

/-- THERM_N is low while a complex is at its thermal throttle limit (R55, R441); a soft reset of the complex does not
release it (R54). Assumption 144 (DESIGN CHOICE, unsafe). -/
def Chip.thermLow (c : Chip) : Bool :=
  !c.off && (complexes c.part).any (fun x => awake c x && (throttled c x || (Chip.thermOf c x).pin))

end Sys2Proof.Machine
end

