-- ==== Sys2Proof/WellFormed.lean ====
section
/-!
DEFINITION. Which commands are well formed: the operands are ones that the port, the lane or the memory behind the command
can present. Every command has its meaning whether or not it is well formed; these checks say what the spec's hardware can
send.
-/
namespace Sys2Proof

/-- What can be wrong with a command. -/
inductive Malformed where
  /-- The access starts past the 64 MiB window (R60). -/
  | address
  /-- The access has no byte. -/
  | size
  /-- A 4-byte write of a value of more than 32 bits (R51). -/
  | value
  /-- A lane-in-port outside 0 to 7 (R7). -/
  | lane
  /-- A start in a block before the first control block of its 257-bit group (R157). -/
  | position
  /-- A unit-interval offset wider than 6 bits (R36). -/
  | interval
  /-- An OP value that the unit has a meaning for, or one of another command (R79, R239). -/
  | op
  /-- A syndrome that is zero or wider than 16 bits (R402, R403). -/
  | syndrome
  /-- A table word outside the 32 words of a row (R401). -/
  | word
  /-- The data bytes of a table word are not 16 (R401). -/
  | rawWord
  /-- A ring entry whose length is not 32 bytes, or more than 16 entries in one fetch. -/
  | entry
  /-- A segment or a metadata word of a dequeue response that is too long (R45). -/
  | segment
deriving DecidableEq, Repr

/-- The name of a check, where the check fails. -/
def Malformed.unless (m : Malformed) (ok : Bool) : List Malformed := if ok then [] else [m]

/-- What is wrong with an access. -/
def Access.malformed (a : Access) : List Malformed :=
  Malformed.address.unless (decide (a.addr < 0x4000000)) ++
  Malformed.size.unless (decide (0 < a.size)) ++
  (match a.op with
   | .read => []
   | .write v => Malformed.value.unless (decide (a.size ≠ 4) || decide (v.toNat < 2 ^ 32)))

/-- What is wrong with a captured start. -/
def RxCapture.malformed (r : RxCapture) : List Malformed :=
  Malformed.lane.unless (decide (r.lane < 8)) ++
  Malformed.position.unless (match r.start with | .fec _ _ block first => decide (first ≤ block) | .block _ => true) ++
  Malformed.interval.unless (decide (r.off < 64))

/-- What is wrong with an ECC error. -/
def EccErr.malformed (e : EccErr) : List Malformed :=
  Malformed.word.unless (decide (e.word < 32)) ++
  Malformed.syndrome.unless (decide (0 < e.synd) && decide (e.synd < 2 ^ 16)) ++
  Malformed.rawWord.unless (decide (e.raw.length = 16))

/-- What is wrong with the errors of the rows of a list. -/
def rowErrsMalformed (es : List (Nat × EccErr)) : List Malformed := es.flatMap (fun e => EccErr.malformed e.2)

/-- What is wrong with the errors that lookups meet. -/
def lookupsMalformed (es : List LookupErr) : List Malformed := es.flatMap (fun e => EccErr.malformed e.err)

/-- What is wrong with an optional error. -/
def eccMalformed (e : Option EccErr) : List Malformed := (e.map EccErr.malformed).getD []

/-- What is wrong with the entries of a fetch. -/
def entriesMalformed (es : List (List Byte)) : List Malformed :=
  Malformed.entry.unless (decide (es.length ≤ 16) && es.all (fun e => decide (e.length = 32)))

/-- What is wrong with a command. -/
def Instr.malformed : Instr → List Malformed
  | .registerWrite a => Access.malformed a.access ++ ((a.same.map Access.malformed).getD [])
  | .twBadOp _ _ op => Malformed.op.unless (decide (op.val = 0) || decide (4 ≤ op.val))
  | .twCmdComplete _ _ e => eccMalformed e
  | .alignLock _ skews => Malformed.interval.unless (skews.all (fun s => decide (s.2 < 64)))
  | .rxFrameStart _ r _ => RxCapture.malformed r
  | .dispatch h => lookupsMalformed h.errs
  | .parseBytesArrive _ r => lookupsMalformed r.errs
  | .sessionLookup _ _ errs => lookupsMalformed errs
  | .kopBadOp _ op => Malformed.op.unless (decide (op.val = 0) || decide (5 ≤ op.val))
  | .dequeueResponse _ _ (.first w bs) =>
    Malformed.segment.unless (decide (bs.length ≤ 128) && decide (w < 2 ^ 256))
  | .entryFetch _ es => entriesMalformed es
  | .hostReadError (.entry _ n) _ => Malformed.entry.unless (decide (n ≤ 16))
  | .cmdRead _ errs => rowErrsMalformed errs
  | .scanEnd _ _ _ errs => rowErrsMalformed errs
  | .heartbeatRx r _ => RxCapture.malformed r
  | .scrubRead _ _ _ _ e _ _ => eccMalformed e
  | .sweepChunk _ errs => rowErrsMalformed errs
  | _ => []

/-- The command is well formed. -/
def Instr.wf (i : Instr) : Bool := i.malformed.isEmpty

end Sys2Proof
end

