-- ==== Sys2Proof/Tests/Slice0.lean ====
section
/-!
SUPPORT. Tests: small states; the worked examples of the spec; an ill-formed command for each check; and, for every obligation
that has hypotheses, a theorem that a state and operands meet them, clause by clause.
-/
namespace Sys2Proof.Tests
open Sys2Proof Sys2Proof.Machine

/- One theorem after another: the kernel evaluations below side by side take too many threads. -/
set_option Elab.async false

/-! States. -/

/-- A chip after its initialisation, with its calibration done. -/
def chip0 : Chip := Chip.setFld { Chip.resetOf .t1024 with initBusy := [] } .tim 0x044 6 6 1
/-- A state in the given turn and clock, its chip changed by `f`. -/
def st (turn clock : Nat) (f : Chip → Chip) : State :=
  { State.reset with clk := { Clk.reset with turn := turn, clock := clock }, chip := f chip0 }
/-- Bits of a live field, and of a staged one, set. -/
def lv (p : Page) (o hi lo x : Nat) (c : Chip) : Chip :=
  Chip.putLive c p o (merge (maskW hi lo) (Chip.getLive c p o) (BitVec.ofNat 64 (x * 2 ^ lo)))
def fd (p : Page) (o hi lo x : Nat) (c : Chip) : Chip := Chip.setFld c p o hi lo x
def sBase : State := st 64 64 id
def sEdge : State := st 64 1598 id
def sWait : State := { sBase with pending := [.snap] }
def sOff : State := st 64 64 (fun c => { c with off := true })
def sFresh : State := { State.reset with clk := { Clk.reset with turn := 16 } }
/-- A calibration store of one record. -/
def calBytes : List Byte := leBytes 4 0xCA1B ++ leBytes 2 1 ++ [0, 0] ++ leBytes 2 1 ++ List.replicate 22 0
def sStored (bs : List Byte) : State := { sFresh with
  chip := Chip.setRowNat (Chip.setRow (Chip.setRow sFresh.chip .tim 0 0 0 (bs.take 16)) .tim 0 1 0 (bs.drop 16))
    .tim 0 2 0 4 (crc32c bs) }
def sCal : State := sStored calBytes
/-- A store whose record loads TIM_CTL. -/
def sCalTim : State := sStored (calBytes.take 16 ++ leBytes 4 (Page.base .tim + 0x040) ++ leBytes 4 4 ++ leBytes 8 0x25)
def sBusy : State := st 64 64 (fun c => { c with resetting := [(prsPage 0, 68)], frames := [(5, {
  id := 5, port := 8, pg := 1, sequ := 0, rank := 0, since := 0, bytes := List.replicate 64 1, cut := false, stamp := 0
  cfg := [], loc := .parsing })] })
def sReset : State := st 64 64 (fun c => { c with resetting := [(prsPage 3, 68), (.sag, 66)] })
def sStandby : State := st 64 64 (fun c => { c with standby := [1] })
def sLocked : State := st 64 64 (fd .sel 0x008 3 3 1)
def genReq : CommitReq := { page := prsPage 3, turn := 63 }
def sDue (clock : Nat) : State :=
  st 64 clock (fun c => fd (prsPage 3) 0x01C 31 16 7 { c with commits := [genReq] })
def sQuiet : State := st 64 64 (fd (prsPage 3) 0x008 1 1 1)
/-- A window that names a row of a rule table, or one that is not there. -/
def sWin (row : Nat) : State := st 64 64 (fun c =>
  twPut 1 63 4 (2 ^ 31 + row) (twPut 1 63 0 (typeCode .bsq * 2 ^ 24 + 5) c))
def winRun (op stat : Nat) : TwRun :=
  { op := op, owner := some (.cx 1 .bsq 5), table := 0, row := 2047, stat := stat, data := [1, 2], again := false }
def sWinRun (op stat : Nat) : State := { sWin 2047 with
  chip := { (sWin 2047).chip with twRun := [(twKey 1 63, winRun op stat)] } }
/-- Port 8 of mode 1, or of another mode, in a state of its link. -/
def port (mode state : Nat) (c : Chip) : Chip :=
  fd (prtPage 8) 0x04C 3 0 state (lv (prtPage 8) 0x008 0 0 1 (lv (pgrPage 1) 0x040 3 0 mode c))
def sPort (mode state : Nat) : State := st 64 64 (port mode state)
def sPortWith (mode state : Nat) (p : PortSt) : State := st 64 64 (fun c => setPort 8 p (port mode state c))
def sSleep : State := st 64 64 (fun c => fd (prtPage 8) 0x048 0 0 1 (port 1 6 c))
def cap0 : RxCapture := ⟨0, .block 10, false, 0⟩
/-- A frame of 64 bytes of a length/type and its next two bytes, with its FCS. -/
def frame64 (typ op : Nat) : List Byte :=
  withFcs (List.replicate 12 2 ++ beBytes 2 typ ++ beBytes 2 op ++ List.replicate 48 0) false
def rx0 (kind : RxKind) (bs : List Byte) : RxProg := { kind := kind, bytes := bs, cfg := [] }
/-- Port 8 runs the pair link. -/
def pairOn (c : Chip) : Chip := lv .sag 0x040 8 0 8 (lv .sag 0x008 0 0 1 (port 0xE 4 c))
def sPairPort : State := st 64 64 pairOn
def sPortQ : State := st 64 64 (fun c => fd (prtPage 8) 0x008 1 1 1 (port 1 4 c))
def sPortSf : State := st 64 64 (fun c => lv (prtPage 8) 0x100 0 0 1 (port 1 4 c))
def sPortCt : State := st 64 64 (fun c => lv (prtPage 8) 0x100 0 0 0 (port 1 4 c))
def sXoff (p : PortSt) : State := st 64 64 (fun c => fd (prtPage 8) 0x128 7 0 0xFF (setPort 8 p (port 1 4 c)))
def txf : TxFrame :=
  { kind := .queue 5, tag := 3, cls := 0, len := 64, reqAt := 0, cur := 8, edited := true, launch := 0
    bytes := List.replicate 60 7 }
def sTx : State := sPortWith 1 4 { tx := [txf] }
def sTim (f : TimeSt → TimeSt) : State := st 64 0 (fun c => { c with time := f c.time })
def sIncr (v : Nat) : State := st 64 64 (fun c => Chip.put c .tim 0x058 (BitVec.ofNat 64 v))
def adj0 : Adjust := ⟨64, none, some (-5), none⟩
def sPps (c : Chip) : Chip := lv .tim 0x040 5 5 1 (lv .tim 0x008 0 0 1 c)
def sPulse (high : Bool) : State :=
  { st 64 64 (fun c => { sPps c with time := { c.time with ppsHigh := high, ppsFall := 16 * (64 * 1600 + 64) } }) with
    clk := { Clk.reset with turn := 64, clock := 64, secPass := true, halfPass := true } }
def sTod : State := { sPulse true with chip := lv .tim 0x040 7 6 3 (sPulse true).chip }
def todMsg : List Byte :=
  let b : List Byte := [0xA5, 0x5A, 1, 16] ++ List.replicate 16 9
  b ++ leBytes 2 (crc16 (slice b 2 18))
def sSrc2 (state : Nat) : State := st 100000 64 (fun c => lv .tim 0x0C0 31 0 0x01005003 (lv .tim 0x040 2 0 2 (fd .tim 0x044 1 0 state c)))
def sRef : State := st (2 ^ 20) 0 (fun c => lv .tim 0x0E8 1 0 1 c)
/-- Export 1 of lane 8, whose port is UP. -/
def sSync : State := st 64 0 (fun c => lv .tim 0x0FC 31 0 (2 ^ 31 + 8 * 2 ^ 16 + 1000) (fd (lnePage 8) 0x044 2 1 3 (port 1 4 c)))
def sUnlock : State := sTim (fun t => { t with unlock1 := some (64 * 1600 - 1600), unlocked := some (64 * 1600 - 1600) })
def sWorn : State := sTim (fun t => { t with calProg := 1000, unlocked := some (64 * 1600) })
def sCalOp (op : Nat) : State := sTim (fun t => { t with calOp := some (op, 70) })
def sAdj : State := sTim (fun t => { t with adj := some adj0 })
def sPps1 : State := sTim (fun t => { t with ppsLast := some 63, missDue := 64 })
def sLate (n : Nat) : State := st (10 ^ 12) 0 (fd .tim 0x044 1 0 n)
def sGen (draining standby : Nat) : State :=
  st 64 64 (fun c => fd (slcPage 7) 0x050 31 31 draining (fd (slcPage 7) 0x040 31 16 standby c))
def frm (l : Loc) : Frame :=
  { id := 5, port := 8, pg := 1, sequ := 0, rank := 0, since := 0, bytes := List.replicate 64 1, cut := false, stamp := 0
    cfg := [], loc := l }
def frmHead : Frame := { frm .queued with waited := false }
def sFrm (f : Frame) : State := st 64 64 (fun c => { c with frames := [(5, f)] })
/-- No engine of slice 0 is in service. -/
def sNoEng : State := st 64 64 (fun c => lv (prsPage 0) 0x044 15 0 0 { c with frames := [(5, frm .queued)] })
/-- The frame is being received, presented, with its first 64 bytes. -/
def sGot (l : Loc) : State := st 64 64 (fun c => { setPort 8 { rx := some (rx0 (.presented (some 5)) (List.replicate 64 1)) }
  (port 1 4 c) with frames := [(5, frm l)] })
/-- Eight heads wait before one that would re-enter. -/
def sCrowd : State := st 64 64 (fun c => { c with
  frames := (5, frm .recirc) :: (List.range 8).map (fun i => (i + 6, { frm .queued with id := i + 6 })) })
def sSes (f : Chip → Chip) : State := st 64 64 (fun c => lv (sesPage 1) 0x008 0 0 1 (f c))
def sesKey0 : List Byte := List.replicate 40 0
/-- The session table of complex 1 holds the key of all zeros under profile 0. -/
def sesFull (c : Chip) : Chip := Chip.setRowNat c (sesPage 1) 0 ((candidates sesKey0 0).headD 0) 104 8 1
/-- Every place of that key holds a pinned entry of another. -/
def sesPinned (c : Chip) : Chip := (candidates sesKey0 0).foldl (fun c r =>
  Chip.setRowNat (Chip.setRowNat c (sesPage 1) 0 r 0 1 1) (sesPage 1) 0 r 104 8 (2 ^ 10 + 1)) c
def sKop (run : KopRun) : State := sSes (fun c => { c with ses := [(1, { kop := some run })] })
def sLearn (full : Bool) : State :=
  sSes (fun c => { (if full then sesFull c else c) with ses := [(1, { learn := [(sesKey0, 0)] })] })
def sBatch : State := sSes (fun c => fd (sesPage 1) 0x048 3 3 1 c)
def sStream : State := { st 64 64 (fun c => Chip.setRowNat (Chip.setRowNat c .cap 0 16383 16 8 7) .cap 0 16383 12 2 1) with
  clk := { Clk.reset with turn := 64, sec := 1 } }
def frm8 : Frame := frm .stage8
def frmSes : Frame := { frm .stage8 with sesProf := some 0, cfg := [(liveKey (sesPage 0) 0x008, 1)] }
/-- The same, of a slice whose session unit is not enabled. -/
def frmOff : Frame := { frm .stage8 with sesProf := some 0, cfg := [] }
def sMtr (valid : Nat) : State := st 64 64 (fun c => Chip.setRowNat c (mtrPage 1) 0 0 40 8 valid)
def sMod : State := st 64 64 (fun c => { c with mtrMod := [(1, ⟨15, false⟩)] })
/-- Queue 5 of complex 0 serves class 0 of port 8, which is UP, its scheduler enabled. -/
def schOn (c : Chip) : Chip :=
  Chip.setRowNat (lv (schPage 8) 0x008 0 0 1 (lv (whlPage 0) 0x008 0 0 1 (port 1 4 c))) (whlPage 0) 0 5 16 8 129
def sSch (f : Chip → Chip) : State := st 64 64 (fun c => f (schOn c))
/-- A copy of 300 bytes waits; the queue marks yellow copies from a depth of 256 bytes, red ones from 512. -/
def copy0 : Notice := ⟨300, 0, false⟩
def sQue : State := sSch (fun c => Chip.setRowNat (Chip.setRowNat { c with notices := [(5, [copy0])] } (whlPage 0) 0 5 24 2 1)
  (whlPage 0) 0 5 26 2 2)
def sQue2 : Chip := (portPick sQue.clk (Chip.clear sQue.chip) 8).elim chip0 (·.2)
def reqF : TxFrame := { txf with edited := false, cfg := some [], reqAt := 64 * 1600 + 16, bytes := [] }
def sReq : State := sPortWith 1 4 { tx := [reqF] }
def txe : TxFrame := { reqF with arrived := some (64 * 1600 + 20), bytes := List.replicate 60 7 }
def sEdit : State := sPortWith 1 4 { tx := [txe] }
def editIn : EditInput := { bytes := List.replicate 64 7, whole := true }
/-- Its head is marked; a host frame waits at the port. -/
def sMark : State := sSch (fun c => { c with notices := [(5, [{ copy0 with marked := true }])] })
def hst : HostFrame := ⟨3, 0, 63, 2, none, List.replicate 60 9⟩
def sHostQ : State := sSch (fun c => { c with hostQ := [(8, [hst])] })
/-- A host frame of 30 bytes reaches stage 3 without padding. -/
def txh : TxFrame := { txe with cfg := some [(liveKey (prtPage 8) 0x100, 0)], kind := .host { hst with bytes := List.replicate 30 9 } }
def sEditH : State := sPortWith 1 4 { tx := [txh] }
/-- A frame too long, not yet whole. -/
def txLong : TxFrame := { txe with len := 16384 }
def sLong : State := sPortWith 1 4 { tx := [txLong] }
def editPart : EditInput := { bytes := List.replicate 64 7, whole := false }
def sWheel (slot : Nat) : State := st 64 64 (fun c => { c with sched := [(0, { fine := [(slot, 5)] })] })
def sCoarse (clock : Nat) : State := st 64 clock (fun c => { c with sched := [(0, { coarse := [(1, 5)] })] })
def sTel (clock : Nat) : State := st 64 clock (fun c => lv (telPage 1) 0x040 0 0 1 (lv (telPage 1) 0x008 0 0 1 { c with notices := [(65536 + 7, [copy0])] }))
/-- Group 512, of complex 1, in a state, its NEXT valid or not; nanoseconds of the time to arm. -/
def sGrp (state flags ns : Nat) : State := st 64 64 (fun c =>
  fd (dorPage 1) 0x050 47 0 3 (fd (dorPage 1) 0x058 47 0 (ns * 65536) (setGrp 512 45 1 flags (setGrp 512 44 1 state c))))
/-- Queue 5 is a member of group 7, whose release is due. -/
def inGroup (copies : List (Nat × List Notice)) (c : Chip) : Chip :=
  Chip.setRowNat { c with notices := copies } (whlPage 0) 0 5 16 8 (129 + 2 ^ 15 + 7 * 2 ^ 32)
def sMember (ns : Nat) (copies : List (Nat × List Notice)) : State := st 64 65 (fun c =>
  setGrp 7 44 1 1 (setGrp 7 0 12 (stamp96 (ns * 65536)) (inGroup copies (schOn c))))
def sOver (next : Nat) (d : DoorSt) : State := sSch (fun c =>
  setGrp 7 45 1 next (setGrp 7 28 4 1 (setGrp 7 44 1 2 (inGroup [] { c with doors := [(7, d)] }))))
def sJrn (next : Nat) (j : JrnSt) : State := st 64 64 (fun c => Chip.put { c with jrn := [(1, j)] } (jrnPage 1) 0x048 (BitVec.ofNat 64 next))
/-- A record of the given sequence and kind. -/
def rec0 (kind : Nat) : List Byte := recordBytes 5 (kindWord 0 0 0 kind 0 0) [] []
def range0 : JRange := { first := 5, slot := 2, recs := [rec0 1] }
def closed0 (keyed : Bool) : JClosed := ⟨false, 5, 3, 2, keyed, [rec0 1], 99⟩
def jClosed (keyed : Bool) : JrnSt := { closed := [closed0 keyed] }
def lost0 : JLost := ⟨3, 4, 2, 10, 20⟩
def key0 : List Byte := (List.range 32).map (fun i => BitVec.ofNat 8 i)
def sKeyed : State :=
  { sJrn 9 (jClosed true) with chip := lv .sel 0x008 0 0 1 { (sJrn 9 (jClosed true)).chip with keys := [(2, key0)] } }
/-- Ring `r` of a kind in a state, its page enabled. -/
def rng (r state : Nat) (g : Ring) (c : Chip) : Chip :=
  setRingState r state (lv (dmaPage r) 0x008 0 0 1 { c with rings := [(r, g)] })
def ring0 : Ring := { kind := 3, size := 6, owner := 63, base := 2 ^ 20, wb := 0 }
/-- A posted buffer of 96 bytes. -/
def buf0 : List Byte := leBytes 8 0x4000 ++ leBytes 2 96 ++ List.replicate 22 0
def gFill : Ring := { ring0 with ents := [some buf0], jobs := [⟨0, 0, 1, 0, none, false⟩], jobNo := 1 }
def gOpen : Ring := { ring0 with ents := [some buf0] }
def sWr (g : Ring) (j : JrnSt) : State := st 64 64 (fun c => rng 2050 1 g (lv (jrnPage 1) 0x040 10 0 2 { c with jrn := [(1, j)] }))
/-- Key slot 2 is named by an enabled journal with SEAL_EN. -/
def sInUse : State := st 64 64 (fun c => lv (jrnPage 1) 0x008 0 0 1 (lv (jrnPage 1) 0x040 23 20 9 c))
def sLoading : State := st 64 64 (fun c => { c with keyLoad := some (2, key0, false) })
def sOneRec : State := sWr gOpen { buf := [rec0 1] }
def sGap : State := sWr gFill { buf := [rec0 3] }
def sFull : State := sWr { gFill with fill := 1, fillT := 63 } { buf := [rec0 1], out := [some 2050] }
def sFunc (f : Chip → Chip) : State := st 64 64 (fun c => f (lv .func 0x008 0 0 1 c))
/-- Ring 2050, of kind `kind` and size 6, in a state. -/
def gOf (kind : Nat) : Ring := { ring0 with kind := kind }
def sRing (state : Nat) (g : Ring) : State := st 64 64 (rng 2050 state g)
def sOwned : State := sFunc (fun c => rng 2050 1 (gOf 1) { c with funcOn := [63] })
def sAlone : State := sFunc (fun c => { c with funcOn := [63] })
def sEnding : State := st 64 64 (fun c => fd .func (0x100 + 4 * 63) 31 31 1 { c with funcStop := [63] })
def rxi : RxItem := ⟨0, 8, 1, 0, 0, 60, List.replicate 64 7⟩
def gRx : Ring := { gOf 1 with ents := [some buf0], rxq := [rxi] }
def sReset1 : State := st 64 64 (fun c => lv (dmaPage 2050) (ringOff 2050 + 0x10) 31 31 1 (rng 2050 2 { gOf 1 with why := some .reset, ents := [none, some buf0] } c))
def sAge : State := st 64 64 (fun c => lv (dmaPage 2050) (ringOff 2050 + 0x18) 15 0 4 (rng 2050 1 (gOf 1) { c with acks := [(2050, ⟨60, false⟩)] }))
/-- An event ring with five entries not yet consumed. -/
def sEvt : State := st 64 64 (fun c => setP 2050 5 (rng 2050 1 (gOf 5) c))
def sDone : State := st 64 64 (fun c => setC 2050 5 (setP 2050 5 (rng 2050 1 (gOf 1) c)))
/-- A TX entry of 60 bytes for a destination, FIRST and LAST. -/
def txEnt (dest : Nat) : List Byte :=
  List.replicate 8 0 ++ leBytes 2 60 ++ [0, 0] ++ leBytes 2 dest ++ List.replicate 14 0 ++ leBytes 4 (3 * 2 ^ 29)
def gTx : Ring := { gOf 0 with ents := [some (txEnt 8)] }
def sTxJob (link : Nat) : State := st 64 64 (fun c => rng 3 1 gTx (port 1 link c))
/-- The same for PG 31 of the core. -/
def gInj : Ring := { gOf 0 with ents := [some (txEnt (2 ^ 15 + 31))] }
def sTxCore : State := st 64 64 (rng 3 1 gInj)
def sCore (places : Nat) : State := st 64 64 (fun c => lv (prsPage 7) 0x008 0 0 1 { c with
  coreQ := [(63, [hst])], frames := (List.range places).map (fun i => (i, { frm .ready with id := i, pg := 63 })) })
/-- A CMD entry: operation, length, page type, instance, row, COUNT, control bits 30:29. -/
def cmdEnt (op len ptype inst row count ctl : Nat) : List Byte :=
  leBytes 8 0x8000 ++ leBytes 4 len ++ leBytes 1 ptype ++ leBytes 1 0 ++ leBytes 2 inst ++ leBytes 4 row ++ leBytes 2 count ++
  leBytes 1 op ++ leBytes 1 0 ++ leBytes 4 0xABCD ++ leBytes 4 (ctl * 2 ^ 29)
def cmdJob (n : Nat) : RJob := ⟨7, 0, n, 0, none, false⟩
/-- The CMD ring 2050 has an open job of two entries, of which `e` is the first. -/
def gCmd (e : List Byte) : Ring := { gOf 4 with ents := [some e, some e], jobs := [cmdJob 2], jobNo := 8 }
def gCmd1 (e : List Byte) : Ring := { gOf 4 with ents := [some e], jobs := [cmdJob 1], jobNo := 8 }
def telEnt (op len : Nat) : List Byte := cmdEnt op len 0x1A 0 65535 1 2
def sesEnt (op ctl : Nat) : List Byte := cmdEnt op 64 0x0B 0 0 1 ctl
def swapEnt : List Byte := cmdEnt 8 0 0x02 1 (5 * 65536) 0 2
/-- A job that inserts and deletes one key. -/
def gClash : Ring := { gOf 4 with ents := [some (sesEnt 4 2), some (sesEnt 5 2), some (sesEnt 6 2)], jobs := [cmdJob 3], jobNo := 8 }
/-- The session data block of the key of all zeros. -/
def sesBlock : List Byte := List.replicate 64 0
def sCmd (f : Chip → Chip) (g : Ring) : State := sSes (fun c => rng 2050 1 g (f c))
/-- The chip with the batch of the job of ring 2050 that entry `e` belongs to; and that ring. -/
def taken (s : State) (g : Ring) (e : List Byte) : Chip :=
  (sesBatch 2050 g (hostRead g.owner (memNat e 0 8) 64 (Chip.clear s.chip))).getD chip0
def ringIn (c : Chip) : Ring := (Chip.ring c 2050).getD ring0
/-- The interrupt controller is enabled; sources 1023 and 16 are high, and target 7 may take them. -/
def icuOn (i : IcuSt) (c : Chip) : Chip :=
  fd .icu (0x400 + 0x80 * 7 + 4 * 31) 31 31 1 (lv .icu 0x008 0 0 1 { c with icu := i })
def sIcu (i : IcuSt) : State := st 64 64 (icuOn i)
def claim0 : Claim := { source := 1023, low := true }
def sHold : State := st 64 64 (fun c => fd .icu (0x140 + 4 * 31) 31 16 3 (icuOn { level := [1023], claims := [(7, claim0)] } c))
def dueIcu : IcuSt := { dip := [(7, 64 * 1600 + 64)], holdoff := [(63, 64 * 1600 + 64)] }
def sGate : State := st 64 64 (fun c => port 1 4 { c with frames := [(5, frm .queued)] })
/-- Watch slot 31 of the Pilot watches source 16, whose level is high. -/
def sPilot (armed : Nat) : State := st 64 64 (fun c => fd .pil 0x040 0 0 armed (lv .pil (0x080 + 4 * 31) 31 0 (2 ^ 31 + 16)
  (lv .pil 0x008 0 0 1 { c with icu := { level := [16] }, standby := [1] })))
def sAwake : State := st 64 64 (fd .pil 0x044 1 0 2)
/-- A check unit's CHK_CTL. -/
def sChk (ctl : Nat) (s : ChkSt) (f : Chip → Chip) : State :=
  st 64 64 (fun c => f (Chip.put { c with chk := [(7, s)], funcOn := [63] } (chkPage 1 3) 0x040 (BitVec.ofNat 64 ctl)))
def scanReg (len func : Nat) (c : Chip) : Chip := fd (chkPage 1 3) 0x068 31 0 len (fd (chkPage 1 3) 0x06C 5 0 func c)
def busyReg (c : Chip) : Chip := fd (chkPage 1 3) 0x074 0 0 1 c
def scan0 : ChkSt := { scan := some ⟨none, 0x1000, 5, 63, false, false, 0, 0⟩ }
/-- The pair link of port 8 is UP; the chip has a role and a pair unit's state; key slot 0 holds the witness key. -/
def pairChip (role : Nat) (p : PairSt) (c : Chip) : Chip := fd .sag 0x068 2 0 role (pairOn { c with pair := p, keys := [(0, key0)] })
def sPair (role : Nat) (p : PairSt) : State := st 64 64 (pairChip role p)
def reqA (msg : Nat) : WitReq := ⟨msg, 9, 60, false⟩
def pAsk (msg : Nat) : PairSt := { reqs := [reqA msg], claim := some (9, 60) }
/-- A message of the witness to port 8. -/
def witFrame (msg epoch sender seq : Nat) (body : List Byte) : List Byte :=
  let pre := pairHeader msg body.length epoch sender 0 seq 0 ++ body
  List.replicate 6 0 ++ List.replicate 6 5 ++ beBytes 2 0x88B6 ++ pre ++ (cmac key0 pre).take 8 ++ List.replicate 4 0
def ansBody (vacant : Nat) : List Byte := leBytes 4 7 ++ leBytes 2 0 ++ leBytes 2 3 ++ leBytes 1 vacant ++ List.replicate 7 0
def answer (msg : Nat) : List Byte := witFrame msg 0 0x8000 9 (ansBody 0)
def msgOf (bs : List Byte) : PairMsg := parsePair bs 14 8
/-- A pair link frame. -/
def linkFrame (msg flags no : Nat) (body : List Byte) : List Byte :=
  List.replicate 12 0 ++ beBytes 2 0x88B5 ++ pairHeader msg body.length 0 0 flags 3 no ++ body ++ List.replicate 4 0
def hbBody : List Byte := List.replicate 40 0 ++ leBytes 8 11
def hbFrame : List Byte := linkFrame 1 1 0 hbBody
def linkMsg (bs : List Byte) : PairMsg := parsePair bs 14 0
def pinNow : PairSt := { pinAt := some (64 * 1600) }
/-- Complex state as an epoch of slip is sent. -/
def dirty0 : Dirty := ⟨3, 0, 5⟩
def slip0 : Slip := { no := 3 }
def sSend : State := st 64 64 (fun c => pairChip 3 { opened := some slip0 } { c with dirty := [dirty0] })
def sClose : State := sPair 3 { closing := some slip0 }
def sClosed (p : PairSt) : State := sPair 1 p
def streamBlock : List Byte := recHead 3 1 0 ++ leBytes 4 5 ++ leBytes 8 77 ++ List.replicate 48 0
def dataFrame : List Byte := linkFrame 2 0 3 (leBytes 8 0 ++ streamBlock)
def closeFrame (check : Nat) : List Byte := linkFrame 3 1 3 (leBytes 4 1 ++ leBytes 4 0 ++ leBytes 8 check)
def pGot : PairSt := { rxBuf := [(3, [(0, streamBlock)])] }
def pReady : PairSt := { ready := [⟨3, [streamBlock], true⟩] }
/-- The chip serves as witness of a pair of chips 1 and 2, in row 15, with a holder. -/
def witServe (holder pend : Nat) (p : PairSt) (c : Chip) : Chip :=
  let row (o n v : Nat) (c : Chip) : Chip := Chip.setRowNat c .sag 2 15 o n v
  lv .sag 0x040 24 24 1 (row 28 1 1 (row 12 8 50 (row 10 2 pend (row 8 2 holder (row 2 2 2 (row 0 2 1 (port 1 4 { c with pair := p, keys := [(0, key0)] })))))))
def sServe (turn holder pend : Nat) (p : PairSt) : State := st turn 64 (witServe holder pend p)
def request (msg : Nat) : List Byte := witFrame msg 0 1 9 (List.replicate 16 0)
def from0 : WitFrom := ⟨8, List.replicate 6 5, [], 9, 0⟩
/-- The health unit of complex 1 is enabled, HLT_CTL (low half) as given. -/
def sHlt (turn clock ctl : Nat) (h : HltSt) : State :=
  st turn clock (fun c => lv (hltPage 0) 0x040 0 0 0 (lv (hltPage 1) 0x040 31 0 ctl (lv (hltPage 1) 0x008 0 0 1 { c with hlt := [(1, h)] })))
def errC : EccErr := ⟨0, 5, List.replicate 16 0⟩
/-- Row 65535 of a telemetry table, as a table and as a candidate of repair. -/
def tel0 : TableInfo := ⟨65536, 32, .plain⟩
def atWord (n : Nat) : List (Nat × Nat) := [(tabKey (telPage 1) 0, n)]
def bad0 (used : Nat) : HltSt :=
  { suspect := [wordKey (telPage 1) 0 65535 0], scrubAt := atWord 131070, spares := [(repairUnit (telPage 1) 0 65535, used)] }
/-- The scrubber stands at the last word but one of that table, or at its last word; a word was found correctable before. -/
def scr0 : HltSt := { scrubAt := atWord 131070 }
def scrEnd : HltSt := { scrubAt := atWord 131071, seen := [(tabKey (telPage 1) 0, 5), (7, 1)], seenPrev := [(tabKey (telPage 1) 0, 6)] }
def scrHard : HltSt := { scr0 with seenPrev := atWord 131070, spares := [(repairUnit (telPage 1) 0 65535, 3)] }
def scrSes : HltSt := { scrubAt := [(tabKey (sesPage 1) 0, 1048575)] }
def sScr (h : HltSt) : State := sHlt 64 64 0 h
/-- The scrubber of a table has gone on. -/
def scrNext (h : HltSt) (key n : Nat) : HltSt := { h with scrubAt := kvPut h.scrubAt key n }
def remap0 : HltSt := { remaps := [(telPage 1, 0, 65535, 3, true)] }
def testing0 : HltSt := { testing := [(7, 5)] }
def sDraining : State := { sHlt 64 512 2 testing0 with
  chip := { (sHlt 64 512 2 testing0).chip with frames := [(5, { frm .parsing with engine := 5, pg := 63 })] } }
/-- A report of a lane with its equaliser. -/
def rep0 : LaneReport := ⟨8, some [1, 2, 3, 4, 5, 200]⟩
def sLane : State := st 64 64 (fun c => fd (lnePage 504) 0x044 0 0 1 ( lv (hltPage 1) 0x008 0 0 1 (lv (pgrPage 63) 0x040 3 0 1
  (fd (lnePage 504) 0x04C 31 16 9 (fd (lnePage 504) 0x04C 15 0 9 { c with hlt := [(1, { fomLow := [(248, 15)] })] })))))
def sWindowed (turn clock : Nat) (h : HltSt) : State :=
  st turn clock (fun c => lv (hltPage 0) 0x040 0 0 1 (lv (hltPage 1) 0x044 31 0 (4 * 2 ^ 16 + 1) (lv (hltPage 1) 0x008 0 0 1 { c with hlt := [(1, h)] })))
/-- Complex 1 as its junction sensor is read, THR 60 and HYST 4 degrees. -/
def sTherm (t : ThermSt) (throttle : Nat) : State := st 64 64 (fun c =>
  fd (cpxPage 1) 0x18C 0 0 throttle (lv (cpxPage 1) 0x184 7 0 60 (lv (cpxPage 1) 0x184 11 8 4 { c with therm := [(1, t)] })))
def logPg : Page := onePage 1 .log
def sLog (freeze : Nat) (l : LogSt) : State := st 64 64 (fun c => fd logPg 0x048 31 0 77 (fd logPg 0x040 0 0 freeze { c with logs := [(1, l)] }))
def markKey : Nat × Nat × Nat × Nat × Nat := (64, 0xF0, Page.code logPg, Page.instNum logPg, 77)
/-- The Sweep of complex 1 in a state, its list one descriptor of telemetry rows, its half of `half` pages of 4 KiB. -/
def desc0 : SweepDesc := ⟨0x1A, 0, 0, false, false, 65534, 2, 8, 16⟩
def descBytes (last : Nat) : List Byte :=
  leBytes 1 0x1A ++ leBytes 1 0 ++ leBytes 2 0 ++ leBytes 4 (65534 + 2 ^ 31) ++ leBytes 4 last ++ leBytes 2 8 ++ leBytes 2 16
def sSwp (clock state half n : Nat) (g : SweepSt) : State := st 64 clock (fun c =>
  fd (swpPage 1) 0x054 1 0 state (lv (swpPage 1) 0x050 19 0 half (lv (swpPage 1) 0x040 13 8 63 (lv (swpPage 1) 0x008 0 0 1
    (Chip.setRow { c with sweep := [(1, g)], funcOn := [63] } (swpPage 1) 0 0 0 (descBytes n))))))
def gAsk : SweepSt := { asked := some 63 }
def gRun (ended : Bool) : SweepSt :=
  { running := true, list := [desc0], func := 63, base := 2 ^ 30, start := 63, due := 64, ended := ended }

/-- Commits that are due: of the breakout of a PG, of a ring, of a journal. -/
def reqOf (p : Page) : CommitReq := { page := p, turn := 63 }
def sDueOf (p : Page) (f : Chip → Chip) : State :=
  st 64 63 (fun c => fd p 0x01C 31 16 7 { (f c) with commits := [reqOf p] })
def sDuePgr : State := sDueOf (pgrPage 1) (fun c => fd (pgrPage 1) 0x040 31 0 0x10 (lv (prtPage 9) 0x008 0 0 1 (port 1 4 c)))
def sDueRing (enable : Nat) : State := sDueOf (dmaPage 2050) (fun c =>
  fd (dmaPage 2050) (ringOff 2050 + 0x10) 31 16 (enable * 2 ^ 15 + 0x163F) { (if enable = 1 then c else rng 2050 1 (gOf 1) c) with funcOn := [63] })
def sDueJrn : State := sDueOf (jrnPage 1) (fd (jrnPage 1) 0x008 0 0 1)
/-- The journal of complex 1 runs; it also owes a GAP and two seals; it quiesces. -/
def jRun : JrnSt := { running := true, main := some range0 }
def jLost : JrnSt := { jRun with lost := some lost0, closed := [closed0 true] }
def sJrnRun (j : JrnSt) : State := st 64 64 (fun c => lv (jrnPage 1) 0x008 0 0 1 { c with jrn := [(1, j)] })
def sJrnQuiet : State := { sJrnRun {} with chip := fd (jrnPage 1) 0x008 1 1 1 (sJrnRun {}).chip }
/-- Two lanes of the pair port are up, another in a state of its own. -/
def sLanes (t : Nat) : State := st 64 64 (fun c => setPort 8 { Chip.port (pairOn c) 8 with
  tries := [⟨4, 0, 0⟩, ⟨t, 0, 64⟩, ⟨5, 4, 1000⟩, ⟨1, 0, 1000⟩] } (pairOn c))
/-- Line traffic fills the receive bus of PG 1. -/
def sBusFull : State := st 64 64 (fun c => { c with frames := [(5, frm .recirc)], bus := [(1, { line := 4 })] })
/-- A PTP event message of a queue: its header not yet whole past stage 3; and at stage 3. -/
def ptpB : List Byte := List.replicate 12 2 ++ beBytes 2 0x88F7 ++ [0, 2] ++ List.replicate 44 0
def ptpCfg : List (Nat × Word) := [(liveKey (stpPage 8) 0x040, 0x47)]
def txp : TxFrame := { txf with arrived := some (64 * 1600), ptp := true, cfg := some ptpCfg, stamp := 2 ^ 30, word := 256, bytes := ptpB.take 50 }
def txq : TxFrame := { txe with cfg := some ptpCfg, word := 256, bytes := ptpB }
def sMorePtp : State := sPortWith 1 4 { tx := [txp] }
def txm : TxFrame := { txf with arrived := some (64 * 1600), cfg := some [] }
def sMore : State := sPortWith 1 4 { tx := [txm] }
def sEditPtp : State := sPortWith 1 4 { tx := [txq] }
def ptpIn : EditInput := { bytes := ptpB, whole := true }
/-- At stage 9, not discarded and discarded. -/
def frm9 (drop : Bool) : Frame := { frm (.stage9 drop) with meter := some 7 }
/-- The release's instant moved as the member is decided, and when its copy would have left the wire. -/
def mMoved (s : State) : Chip := shiftInstant s.clk 7 (Chip.clear s.chip)
def mFin (s : State) : Nat := (wireSlot s.clk (mMoved s) (qPort (mMoved s) 5) ((noticesOf (mMoved s) 5).headD ⟨0, 0, false⟩).len).2
/-- A data record of the running clock, in a journal that has room, and in one that has none to spare. -/
def jPend0 (v : Option RecRef) : JPend :=
  { ord := 8, kw := kindWord 0 0 0 1 0 8, cnt := 0x100, stamp := 5, a := List.replicate 12 1, b := List.replicate 20 2, voids := v }
def jData (v : Option RecRef) : JrnSt := { running := true, pend := [jPend0 v] }
def jCrammed : JrnSt := { jData none with buf := List.replicate 65472 [] }
/-- A frame and a copy to be journalled. -/
def frmJrn : Frame := { frm .gone with
  ended := true, sesValid := true, jrn := true, fate := some 0, cfg := [(liveKey (jrnPage 0) 0x040, 0x30000)] }
def txJrn : TxFrame := { txf with word := 5, cfg := some frmJrn.cfg }
def gMore : Ring := { gFill with fill := 1, ents := [some (leBytes 8 0x4000 ++ leBytes 2 144)] }
def jMore : JrnSt := { buf := [rec0 1, rec0 3], out := [some 2050] }
/-- Two rings of the complex have entries to fetch; the rotation stands at the second. -/
def sRotated : State := st 64 64 (fun c => rng 2050 1 { gOf 1 with ents := [none, none] } (rng 2049 1 { gOf 1 with ents := [none] } c) |>
  fun d => { d with rings := [(2049, { gOf 1 with ents := [none] }), (2050, { gOf 1 with ents := [none, none] })], fetchAt := [(1, 2050)] })
/-- A job that inserts and deletes one key after it writes a row. -/
def gClashW : Ring := { gOf 4 with ents := [some (telEnt 1 32), some (sesEnt 4 2), some (sesEnt 5 2)], jobs := [cmdJob 3], jobNo := 8 }
/-- A complex gated with a job in hand, a frame in its pipeline and one in its host frame queue. -/
def sGateJob : State := { sGate with chip := rng 3 1 { gTx with jobs := [⟨7, 0, 1, 60, none, false⟩] } { sGate.chip with hostQ := [(8, [hst])] } }
/-! Worked examples of the spec. -/

/-- Port 300 is a port of PG 37, at position 44 of complex 1 (the worked example of locating a page), port 128 that of R159's,
ring 40 that of R320's, check unit 2 that of R369's. -/
theorem test_page_addresses :
    Page.base (prtPage 300) = 0x232C000 ∧ Page.base (bsqPage 37) = 0x20A5000 ∧ Page.base (stpPage 128) = 0x1480000 ∧
    Page.base (dmaPage 40) + ringOff 40 + 0x20 = 0x1605120 ∧ Page.base (chkPage 0 2) = 0x1042000 := by decide +kernel

/-- HDR_ID of port 300 (the same example). -/
theorem test_hdr_id :
    (match exec (.registerWrite ⟨{ master := .pcie, addr := 0x232C000, size := 4, op := .read }, none⟩) sBase with
     | .next t => decide (t.chip.out = [.readData 0x0401402C])
     | _ => false) = true := by decide +kernel

/-- The order-entry frame of the metadata word's example (R39 to R42). -/
def orderFrame : Frame :=
  { frm .queued with
    port := 72, cut := true, stamp := (0x12344A21 * 1000000000 + 412003517) * 65536 + 0x3C00, gen := 0x41, two := true
    cls := 6, queue := 4097, sesValid := true, jrn := true, session := 0x1C3A, appSeq := 90211
    w := { (frm .queued).w with l4off := 38 } }

theorem test_metadata_word :
    metadataWord orderFrame =
      0x4A21188EACBD3C00 * 2 ^ 192 + 0x16063 * 2 ^ 128 + 0x0041070E82002000 * 2 ^ 64 + 0x00009026600000C5 := by
  decide +kernel

/-- Port 128 of the ingress stamp's example (R159): lane 133 lags lane 130, the earliest, by 1062 UI and 16/64. -/
def stampChip : Chip :=
  lv (stpPage 128) 0x13C 31 0 0x0006E000 (lv (stpPage 128) 0x188 31 0 0x100 (fd (stpPage 128) 0x044 7 5 2
    (fd (lnePage 133) 0x068 31 0 0x80010990 (lv (pgrPage 16) 0x040 3 0 0xF chip0))))

theorem test_ingress_stamp :
    rxStamp { Clk.reset with sec := 1000418, ns := 250000121, frac := 0x4000 * 2 ^ 32 } stampChip 128 5 94 22 =
      (1000418 * 1000000000 + 250000104) * 65536 + 53676 := by decide +kernel

/-- Frames 3 and 8 of the meter's example (R245): the buckets of frame 2 and of frame 7, 51,200 clocks later. -/
def meterAt (tc tp last : Nat) : Meter :=
  { cir := 0x20000, pir := 0x40000, cbs := 3000, pbs := 6000, tc := tc * 2 ^ 24, tp := tp * 2 ^ 24, last := last, ctl := 1 }

theorem test_meter_burst :
    let m := Meter.refill (meterAt 400 3800 51200) 102400
    let n := Meter.refill (meterAt 900 300 307200) 358400
    m = meterAt 800 4600 102400 ∧ Meter.mark m 1500 0 = (1, false, true) ∧
    n = meterAt 1300 1100 358400 ∧ Meter.mark n 1500 0 = (2, false, false) := by decide +kernel

/-- The peak shaper's example (R261). -/
theorem test_shaper_eligible :
    let g : NodeCfg := { cir := 0, pir := 0x60000000, cbs := 0, pbs := 4096, avb := false }
    let n (tp : Int) : Node :=
      { tc := 0, tp := tp * 2 ^ 24, last := 0, e := 0, deficit := 0, onWheel := false, clamped := false }
    eligibleAt g (n (-1520)) 7340041 = 7340057 ∧ eligibleAt g (n (-832)) 7340064 = 7340073 ∧
    eligibleAt g (n (-816)) 7340080 = 7340089 := by decide +kernel

/-- Transmit leads of ports 80 (R115's example, at thresholds 0 and 3) and 128, and its pause of 256 quanta (the example of a PAUSE). -/
theorem test_leads_and_quanta :
    txLead 9 false 0 = 96 ∧ txLead 9 false 3 = 192 ∧ txLead 15 false 0 = 94 ∧ quantaClocks 15 256 = 128 := by decide

/-- The four frames of R227's example that change the entry or its counters. -/
theorem test_session_sequence :
    judgeSeq true 90212 90212 64 16 = .inOrder ∧ judgeSeq true 90213 90215 64 16 = .gap 2 ∧
    judgeSeq true 90216 90214 64 16 = .dup ∧ judgeSeq true 90218 1 64 16 = .resync ∧ nextExp .resync 90218 1 64 = 2 ∧
    nextExp .dup 90216 90214 64 = 90216 := by decide +kernel

/-- Chip 0x2C1 journals with complex 0 under slot 1 (the example of a seal chain). -/
theorem test_id_word : idWord (lv .tim 0x04C 11 0 0x2C1 chip0) 0 1 false = 0x22C1 := by decide +kernel

/-- Blocks 0 and 7 of the check unit's example (R363). -/
theorem test_check_seeds :
    chkFoldIn 0x00300055 0xFFFFFFFF 0x4E2400 = 0xFFB1DBFF ∧ chkFoldIn 0x00300055 0xFFFFFFFF 0x4E2407 = 0xFFB1DBF8 := by
  decide +kernel

/-- The list of the Sweep's example (R427): 1697 chunks. -/
theorem test_sweep_chunks :
    sweepChunks [⟨0x0C, 1, 0, false, false, 0, 65536, 0, 48⟩, ⟨0x0B, 0, 0, false, false, 0, 131072, 72, 24⟩,
      ⟨0x1A, 1, 0, false, false, 0, 2048, 0, 256⟩] = 1697 := by decide +kernel

/-- A double-bit error in nibble 17, and with bit 0 of nibble 2 as well (R403's example). -/
theorem test_ecc_nibble :
    eccSyndrome (2 ^ 69 + 2 ^ 70) = 0xA160 ∧ eccDecode 0xA160 = .correct 17 6 ∧
    eccDecode (eccSyndrome (2 ^ 69 + 2 ^ 70 + 2 ^ 8)) = .uncorrectable := by decide +kernel

/-- Ring 40 of R320's example, full after step 4: SIZE 8, P 0xFC, C 0xFFFFFFFC. -/
def sFullRing : State := st 64 64 (fun c =>
  setC 40 0xFFFFFFFC (setP 40 0xFC (rng 40 1 { ring0 with kind := 0, size := 8 } c)))

/-- Step 5 of that example: a doorbell of 0x100 is rejected, and P stands. -/
theorem test_doorbell_lap :
    (match exec (.doorbell 40 0x100) sFullRing with
     | .next t => decide (ringP t.chip 40 = 0xFC) && decide (ringC t.chip 40 = 0xFFFFFFFC) &&
         decide ((Chip.get t.chip (dmaPage 40) (ringOff 40 + 0x58)).toNat = 1)
     | _ => false) = true := by decide +kernel

/-- Step 8, after the four completions of step 6: occupancy 256 is accepted. -/
theorem test_doorbell_full :
    (match exec (.doorbell 40 0x100) { sFullRing with chip := setC 40 0 sFullRing.chip } with
     | .next t => decide (ringP t.chip 40 = 0x100)
     | _ => false) = true := by decide +kernel

/-- The maintenance window of the page addresses' example: a selection of 0x09010005 names the BSQ page of PG 37. -/
theorem test_window_owner :
    twOwner (twPut 1 5 0 0x09010005 chip0) 1 5 = some (bsqPage 37) := by decide +kernel

/-- AES-256-CMAC of 40 bytes: an example of NIST SP 800-38B, the algorithm that R301 names. -/
theorem test_cmac :
    cmac (beBytes 32 0x603DEB1015CA71BE2B73AEF0857D77811F352C073B6108D72D9810A30914DFF4)
      (beBytes 40 0x6BC1BEE22E409F96E93D7E117393172AAE2D8A571E03AC9C9EB76FAC45AF8E5130C81C46A35CE411) =
      beBytes 16 0xAAF3D8F1DE5640C232F5B169B9C911E6 := by decide +kernel

/-! One command each. -/

/-- The queue is first in, first out, and an empty one passes a clock. -/
theorem test_queue_order :
    (match step { sBase with pending := [.snap, .loadIncr] } with
     | .next t => decide (t.pending = [Instr.loadIncr])
     | _ => false) = true ∧
    (match step sBase with
     | .next t => decide (t.clk.clock = 65)
     | _ => false) = true := by decide +kernel

/-- No row of the table gives bits. -/
theorem test_no_words : decodeTableWord 32 0x13 = none := by decide

/-! Well-formedness: an ill-formed term for each check, and what the check refuses it for. -/

theorem test_wf_address :
    Instr.malformed (.registerWrite ⟨{ master := .pcie, addr := 0x4000000, size := 4, op := .read }, none⟩) = [.address] := by decide
theorem test_wf_size :
    Instr.malformed (.registerWrite ⟨{ master := .pcie, addr := 0, size := 0, op := .read }, none⟩) = [.size] := by decide
theorem test_wf_value :
    Instr.malformed (.registerWrite ⟨{ master := .pcie, addr := 0, size := 4, op := .write 0x100000000 }, none⟩) = [.value] := by decide
theorem test_wf_lane : Instr.malformed (.rxFrameStart 0 ⟨8, .block 0, false, 0⟩ ⟨[], 0, none⟩) = [.lane] := by decide
theorem test_wf_position : Instr.malformed (.rxFrameStart 0 ⟨0, .fec 0 0 1 2, false, 0⟩ ⟨[], 0, none⟩) = [.position] := by decide
theorem test_wf_interval :
    Instr.malformed (.heartbeatRx ⟨0, .block 0, false, 64⟩ []) = [.interval] ∧ Instr.malformed (.alignLock 0 [(0, 64)]) = [.interval] := by
  decide
theorem test_wf_op : Instr.malformed (.twBadOp 0 0 3) = [.op] ∧ Instr.malformed (.kopBadOp 0 4) = [.op] := by decide
theorem test_wf_syndrome : Instr.malformed (.twCmdComplete 0 0 (some ⟨0, 0, List.replicate 16 0⟩)) = [.syndrome] := by decide
theorem test_wf_word : Instr.malformed (.cmdRead ⟨0, []⟩ [(0, ⟨32, 1, List.replicate 16 0⟩)]) = [.word] := by decide
theorem test_wf_rawWord : Instr.malformed (.sweepChunk 0 [(0, ⟨0, 1, [0]⟩)]) = [.rawWord] := by decide
theorem test_wf_entry : Instr.malformed (.entryFetch 0 [[0]]) = [.entry] := by decide
theorem test_wf_segment : Instr.malformed (.dequeueResponse 0 0 (.first (2 ^ 256) [])) = [.segment] := by decide +kernel
theorem test_wf_ok : Instr.wf (.rxFrameStart 511 ⟨7, .fec 0 0 3 3, true, 63⟩ ⟨[], 0, none⟩) = true := by decide

/-! The hypotheses of each obligation are met: one conjunct per clause, in the clauses' order. A hypothesis that only names a
value is left out. -/

theorem witness_StepRunsFrontCommand : sWait.pending = .snap :: [] := rfl

theorem witness_OnlyTimeCommandsMoveTime :
    (∃ t, exec (.quiesceDone .cap) sBase = .next t) ∧ Instr.quiesceDone .cap ≠ .chipReset ∧
      Instr.quiesceDone .cap ≠ .chipPowerDown ∧ Instr.quiesceDone .cap ≠ .timeAdjustApply ∧
      ∀ b, Instr.quiesceDone .cap ≠ .turnBoundary b := by
  refine ⟨⟨_, rfl⟩, ?_, ?_, ?_, ?_⟩ <;> simp

theorem witness_EveryStepKeepsTimeInRange : Clk.Ok sEdge.clk ∧ ∃ t, step sEdge = .next t := by
  refine ⟨?_, _, rfl⟩
  simp only [Clk.ok_iff]
  decide +kernel

/-- The heads of a slice in the order of a scan that starts at PG `n` of it: `dispatchOrder` starts it at an open phase. -/
def orderFrom (c : Chip) (sl : Fin 8) (n : Nat) : List Frame :=
  let pgs := (List.range 8).map (fun i => 8 * sl.val + (n + i) % 8)
  (List.range 3).flatMap (fun kd =>
    let qs := pgs.map (fun pg => (heads c pg kd).filter (headSent c))
    rounds ((qs.map (·.length)).foldl max 0) qs)

theorem orderFrom_mod (c : Chip) (sl : Fin 8) (n : Nat) : orderFrom c sl n = orderFrom c sl (n % 8) := by
  simp [orderFrom]

/-- What holds of a scan from each PG holds of the clock's order, whatever the phase. -/
theorem dispatchOrder_of_starts (k : Clk) (c : Chip) (sl : Fin 8) (fs : List Frame)
    (h : ∀ r : Fin 8, orderFrom c sl r.val = fs) : dispatchOrder k c sl = fs :=
  (orderFrom_mod c sl _).trans (h ⟨_, Nat.mod_lt _ (by decide)⟩)

theorem witness_HeadsAreDispatched :
      (((sFrm frmHead).ready (cxOfSlice 0)) ∧
        (dispatchOrder (sFrm frmHead).clk
          (List.foldl (fun c i => passHeads (sFrm frmHead).clk (8 * ↑(0 : Fin 8) + i) c) (sFrm frmHead).chip (List.range 8))
          0 = [frmHead]) ∧
        ((kvGet (0, 0, 15) (sFrm frmHead).chip.disp 0).fst ≠ (sFrm frmHead).clk.abs) ∧
        (engineOrder (enginesIn (sFrm frmHead).chip 0) (kvGet (0, 0, 15) (sFrm frmHead).chip.disp 0).snd.snd =
          [0, 1, 2, 3, 4, 5, 6, 7, 8, 9, 10, 11, 12, 13, 14, 15])) ∧
      ((sNoEng.ready (cxOfSlice 0)) ∧
        (dispatchOrder sNoEng.clk
          (List.foldl (fun c i => passHeads sNoEng.clk (8 * ↑(0 : Fin 8) + i) c) sNoEng.chip (List.range 8)) 0 =
          [frm Loc.queued]) ∧
        ((frm Loc.queued).waited = false) ∧
        (enginesIn sNoEng.chip 0 = [])) ∧
      (((sPortWith 1 4 { rx := some (rx0 .held [1]) }).ready (cxOf 8)) ∧
        (rxOpen (sPortWith 1 4 { rx := some (rx0 .held [1]) }).chip 8 = true) ∧
        (((sPortWith 1 4 { rx := some (rx0 .held [1]) }).chip.port 8).rx = some (rx0 .held [1])) ∧
        (∀ id : Option Nat, (rx0 .held [1]).kind ≠ .presented id)) := by
  simp only [State.ready]
  refine ⟨⟨?_, dispatchOrder_of_starts _ _ _ _ ?_, ?_⟩, ⟨?_, dispatchOrder_of_starts _ _ _ _ ?_, ?_⟩, ?_, ?_, ?_, ?_⟩
  all_goals first
    | decide +kernel
    | simp [rx0]

theorem witness_FiringCheckTests :
      (((sHlt 64 64 2 testing0).ready 1) ∧
           (testing0 = (sHlt 64 64 2 testing0).chip.hltOf 1) ∧
           (1 = cxOfSlice 7) ∧
           (underTest (sHlt 64 64 2 testing0).chip 7 = some 5) ∧
           (engineDrained (sHlt 64 64 2 testing0).chip 7 5 = true) ∧
           (Config.engineSig + 1 ≠ Config.engineSig)) := by
  have h : ∀ v : BitVec 32, v + 1 ≠ v := by intro v; bv_omega
  simp only [State.ready]
  refine ⟨?_, ?_, ?_, ?_, ?_, h _⟩ <;> decide +kernel

/-- A journal whose buffer has its last 64 places left loses a data record (R298, R299). -/
theorem witness_DataRecordLost :
    (sJrn 9 jCrammed).ready 1 ∧ jCrammed = (sJrn 9 jCrammed).chip.jrnOf 1 ∧ false = (sJrn 9 jCrammed).chip.inShadow 1 ∧
      (sJrn 9 jCrammed).pending = [] ∧ (sJrn 9 jCrammed).clk.clock < 1599 ∧
      (∀ y : Cx, atStage9 (sJrn 9 jCrammed).chip y = [] ∧ (y ≠ 1 → ((sJrn 9 jCrammed).chip.jrnOf y).pend = [])) ∧
      jCrammed.running = true ∧ jCrammed.pend = [jPend0 none] ∧ jCrammed.events = [] ∧ jCrammed.lost = none ∧
      9 = jrnNext (sJrn 9 jCrammed).chip 1 false ∧ jrnFull jCrammed = false ∧ 65472 ≤ jCrammed.buf.length := by
  refine ⟨?_, rfl, ?_, rfl, ?_, ?_, rfl, rfl, rfl, rfl, ?_, ?_, ?_⟩
  · simp only [State.ready]; decide +kernel
  · decide +kernel
  · decide +kernel
  · decide +kernel
  · decide +kernel
  · have h : jCrammed.buf.length = 65472 := List.length_replicate
    simp only [jrnFull, h]; decide
  · exact Nat.le_of_eq (List.length_replicate).symm

/-- The record of that store names TIM_CTL (R151). -/
theorem test_cal_target :
    (calTarget sCalTim.chip (calRec sCalTim.chip 1)).map (fun e => (e.1, e.2.2)) = some (.tim, 0x040) := by decide +kernel

theorem witness_ClocksAndTurnsPass :
      ((sEdge.pending = []) ∧
        (sEdge.powered) ∧
        (sEdge.clk.Ok) ∧
        (sEdge.clk.clock < 1599)) ∧
      ((sBase.powered) ∧
        (sBase.clk.Ok)) := by
  refine ⟨?_, ?_⟩
  all_goals
    try simp only [State.powered, Clk.ok_iff]
    decide +kernel

theorem witness_PowerAndChipReset :
      ((sOff.chip.off = true) ∧
        (Instr.snap ≠ Instr.chipReset) ∧
        (Instr.snap ≠ Instr.chipPowerDown)) := by
  decide +kernel

theorem witness_PowerUpWorkEnds :
      ((sFresh.powered)) ∧
      ((sFresh.powered) ∧
        (sFresh.chip.latent = []) ∧
        (sFresh.chip.flag Page.tim 68 6 = false) ∧
        (sFresh.chip.flag Page.tim 68 7 = false) ∧
        (calValid sFresh.chip 0 = false)) ∧
      ((sCal.powered) ∧
        (sCal.chip.latent = []) ∧
        (sCal.chip.flag Page.tim 68 6 = false) ∧
        (sCal.chip.flag Page.tim 68 7 = false) ∧
        (calValid sCal.chip 0 = true)) ∧
      ((sCalTim.powered) ∧
        (sCalTim.chip.latent = []) ∧
        (sCalTim.chip.flag Page.tim 68 6 = false) ∧
        (sCalTim.chip.flag Page.tim 68 7 = false) ∧
        (calValid sCalTim.chip 0 = true)) ∧
      ((sBase.powered) ∧
        (sBase.chip.latent = []) ∧
        (sBase.chip.flag Page.tim 68 6 = true ∨ sBase.chip.flag Page.tim 68 7 = true)) := by
  refine ⟨?_, ?_, ?_, ?_, ?_⟩
  all_goals
    try simp only [State.powered]
    decide +kernel

theorem witness_SoftResetSetsAndEndsBusy :
      ((sBase.writable (prtPage 511))) ∧
      ((sBase.writable (cpxPage 1))) ∧
      ((sReset.chip.off = false) ∧
        (pageAwake sReset.chip Page.sag = true) ∧
        (resetReady sReset.clk sReset.chip Page.sag = true)) ∧
      ((sBusy.chip.off = false) ∧
        (pageAwake sBusy.chip (prsPage 0) = true) ∧
        (resetReady sBusy.clk sBusy.chip (prsPage 0) = false)) ∧
      ((sReset.chip.off = false) ∧
        (pageAwake sReset.chip (Page.cx 0 CxType.prs 3) = true) ∧
        (CxType.prs ∈
          [CxType.slc, CxType.prs, CxType.bsq, CxType.glz, CxType.mtr, CxType.dor, CxType.hlt, CxType.tel,
            CxType.log]) ∧
        (resetReady sReset.clk sReset.chip (Page.cx 0 CxType.prs 3) = true) ∧
        (sReset.chip.time.calVals = [])) := by
  refine ⟨?_, ?_, ?_, ?_, ?_⟩
  all_goals
    try simp only [State.writable]
    decide +kernel

theorem witness_RegisterWriteStoresAndReadReturns :
      ((sBase.writable Page.sel)) ∧
      ((sBase.chip.off = false) ∧
        (pageAwake sBase.chip Page.cap = true)) ∧
      ((sBase.writable Page.sel)) := by
  refine ⟨?_, ?_, ?_⟩
  all_goals
    try simp only [State.writable]
    decide +kernel

theorem witness_BadAccessesAreCaptured :
      ((sBase.powered) ∧
        (placeOf sBase.chip.part 67108860 = Place.none)) ∧
      ((sBase.powered) ∧
        (placeOf sBase.chip.part 67108860 = Place.none)) ∧
      ((sStandby.powered) ∧
        (1 ∈ sStandby.chip.standby) ∧
        (Page.present sStandby.chip.part (Page.cx 1 CxType.jrn 0) = true) ∧
        (2044 < 2048)) ∧
      ((sBase.chip.off = false) ∧
        (pageAwake sBase.chip Page.icu = true) ∧
        (2047 < 2048) ∧
        (2047 % 4 ≠ 0)) := by
  refine ⟨?_, ?_, ?_, ?_⟩
  all_goals
    try simp only [State.powered]
    decide +kernel

theorem witness_LockedPagesAndHeaderControls :
      ((sLocked.chip.off = false) ∧
        (pageAwake sLocked.chip Page.sel = true) ∧
        (writesRefused sLocked.clk sLocked.chip Page.sel = false) ∧
        (sLocked.chip.locked Page.sel = true) ∧
        (bits (65536) 31 16 ≠ sLocked.chip.fld Page.sel 28 31 16)) ∧
      ((sBase.writable Page.pil)) ∧
      ((sBase.writable Page.pil)) ∧
      ((sBase.writable Page.pil)) := by
  refine ⟨?_, ?_, ?_, ?_⟩
  all_goals
    try simp only [State.writable]
    decide +kernel

theorem witness_CommitsAreRequestedMadeAndMissed :
      ((sBase.writable Page.func)) ∧
      ((sBase.writable Page.func)) ∧
      (((sDue 63).chip.off = false) ∧
        (pageAwake (sDue 63).chip (prsPage 3) = true) ∧
        (dueCommit (sDue 63).clk (sDue 63).chip (prsPage 3) = some genReq) ∧
        ((sDue 63).clk.clock < 64) ∧
        (inBudget (sDue 63).clk (sDue 63).chip (prsPage 3) = true) ∧
        (¬prsPage 3 ∈ (sDue 63).chip.committed)) ∧
      ((sDuePgr.chip.off = false) ∧
        (pageAwake sDuePgr.chip (pgrPage 1) = true) ∧
        (dueCommit sDuePgr.clk sDuePgr.chip (pgrPage 1) = some (reqOf (pgrPage 1))) ∧
        (sDuePgr.clk.clock < 64) ∧
        (inBudget sDuePgr.clk sDuePgr.chip (pgrPage 1) = true) ∧
        (¬pgrPage 1 ∈ sDuePgr.chip.committed) ∧
        (1 = BitVec.toNat (sDuePgr.chip.getLive (pgrPage 1) 64)) ∧
        (16 = BitVec.toNat (stagedIn sDuePgr.chip (reqOf (pgrPage 1)) 64))) ∧
      (((sDueRing 1).chip.off = false) ∧
        (pageAwake (sDueRing 1).chip (dmaPage ↑2050) = true) ∧
        (dueCommit (sDueRing 1).clk (sDueRing 1).chip (dmaPage ↑2050) = some (reqOf (dmaPage 2050))) ∧
        ((sDueRing 1).clk.clock < 64) ∧
        (inBudget (sDueRing 1).clk (sDueRing 1).chip (dmaPage ↑2050) = true) ∧
        (¬dmaPage ↑2050 ∈ (sDueRing 1).chip.committed)) ∧
      (((sDueRing 0).chip.off = false) ∧
        (pageAwake (sDueRing 0).chip (dmaPage ↑2050) = true) ∧
        (dueCommit (sDueRing 0).clk (sDueRing 0).chip (dmaPage ↑2050) = some (reqOf (dmaPage 2050))) ∧
        ((sDueRing 0).clk.clock < 64) ∧
        (inBudget (sDueRing 0).clk (sDueRing 0).chip (dmaPage ↑2050) = true) ∧
        (¬dmaPage ↑2050 ∈ (sDueRing 0).chip.committed)) ∧
      ((sDueJrn.chip.off = false) ∧
        (pageAwake sDueJrn.chip (jrnPage 1) = true) ∧
        (dueCommit sDueJrn.clk sDueJrn.chip (jrnPage 1) = some (reqOf (jrnPage 1))) ∧
        (sDueJrn.clk.clock < 64) ∧
        (inBudget sDueJrn.clk sDueJrn.chip (jrnPage 1) = true) ∧
        (¬jrnPage 1 ∈ sDueJrn.chip.committed) ∧
        (sDueJrn.chip.enabled (jrnPage 1) = false) ∧
        (bit (BitVec.toNat (stagedIn sDueJrn.chip (reqOf (jrnPage 1)) 8)) 0 = true) ∧
        (sDueJrn.chip.flag (jrnPage 1) 8 1 = false) ∧
        ((sDueJrn.chip.jrnOf 1).running = false) ∧
        ((sDueJrn.chip.jrnOf 1).events = []) ∧
        (jrnFull (sDueJrn.chip.jrnOf 1) = false)) ∧
      (((sDue 64).chip.off = false) ∧
        (pageAwake (sDue 64).chip (prsPage 3) = true) ∧
        (dueCommit (sDue 64).clk (sDue 64).chip (prsPage 3) = some genReq) ∧
        (64 ≤ (sDue 64).clk.clock) ∧
        (genReq.waited ≠ (sDue 64).clk.turn)) ∧
      (((sCoarse 1536).ready 0) ∧
        (wheelLate (sCoarse 1536).clk 0 (sCoarse 1536).chip = true)) ∧
      (((sTel 1599).ready 1) ∧
        (1536 ≤ (sTel 1599).clk.clock) ∧
        (sampleOwed (sTel 1599).clk (sTel 1599).chip 1 = true)) ∧
      (((sSwp 1599 1 2 2 (gRun true)).ready 1) ∧
        ((sSwp 1599 1 2 2 (gRun true)).clk.clock = 1599) ∧
        (((sSwp 1599 1 2 2 (gRun true)).chip.swpOf 1).running = true) ∧
        (((sSwp 1599 1 2 2 (gRun true)).chip.swpOf 1).due = (sSwp 1599 1 2 2 (gRun true)).clk.turn) ∧
        (((sSwp 1599 1 2 2 (gRun true)).chip.swpOf 1).ended = true)) ∧
      (((sSwp 1599 1 2 2 (gRun false)).ready 1) ∧
        ((sSwp 1599 1 2 2 (gRun false)).clk.clock = 1599) ∧
        (((sSwp 1599 1 2 2 (gRun false)).chip.swpOf 1).running = true) ∧
        (((sSwp 1599 1 2 2 (gRun false)).chip.swpOf 1).due = (sSwp 1599 1 2 2 (gRun false)).clk.turn) ∧
        (((sSwp 1599 1 2 2 (gRun false)).chip.swpOf 1).ended = false) ∧
        ((sSwp 1599 1 2 2 (gRun false)).chip.latent = []) ∧
        (readSlices sBase.clk 1 (gRun false).list [] (List.take 1 (dueSlices (gRun false))).zipIdx
            (sSwp 1599 1 2 2 (gRun false)).chip.clear =
          readSlices (sSwp 1599 1 2 2 (gRun false)).clk 1 ((sSwp 1599 1 2 2 (gRun false)).chip.swpOf 1).list []
            (List.take 1 (dueSlices ((sSwp 1599 1 2 2 (gRun false)).chip.swpOf 1))).zipIdx
            (sSwp 1599 1 2 2 (gRun false)).chip.clear)) ∧
      (((sSwp 1599 1 2 2 (gRun false)).ready 1) ∧
        ((sSwp 1599 1 2 2 (gRun false)).clk.clock = 1599) ∧
        (((sSwp 1599 1 2 2 (gRun false)).chip.swpOf 1).running = true) ∧
        (((sSwp 1599 1 2 2 (gRun false)).chip.swpOf 1).due = (sSwp 1599 1 2 2 (gRun false)).clk.turn) ∧
        (((sSwp 1599 1 2 2 (gRun false)).chip.swpOf 1).ended = false) ∧
        ((sSwp 1599 1 2 2 (gRun false)).chip.latent = []) ∧
        (readSlices sBase.clk 1 (gRun false).list [] (List.take 0 (dueSlices (gRun false))).zipIdx
            (sSwp 1599 1 2 2 (gRun false)).chip.clear =
          readSlices (sSwp 1599 1 2 2 (gRun false)).clk 1 ((sSwp 1599 1 2 2 (gRun false)).chip.swpOf 1).list []
            (List.take 0 (dueSlices ((sSwp 1599 1 2 2 (gRun false)).chip.swpOf 1))).zipIdx
            (sSwp 1599 1 2 2 (gRun false)).chip.clear)) ∧
      (((sHlt 64 1599 0 { : HltSt }).ready 1) ∧
        ((sHlt 64 1599 0 { : HltSt }).clk.clock = 1599) ∧
        ((sHlt 64 1599 0 { : HltSt }).chip.enabled (hltPage 1) = true) ∧
        ((sHlt 64 1599 0 { : HltSt }).clk.turn % 16 = 0) ∧
        (((sHlt 64 1599 0 { : HltSt }).chip.hltOf 1).built ≠ some ((sHlt 64 1599 0 { : HltSt }).clk.turn / 16))) ∧
      (((st 64 1599 (pairChip 3 { closing := some slip0 : PairSt })).paired) ∧
        ((st 64 1599 (pairChip 3 { closing := some slip0 : PairSt })).clk.clock = 1599) ∧
        ((st 64 1599 (pairChip 3 { closing := some slip0 : PairSt })).chip.pair.closing.isSome = true)) := by
  refine ⟨?_, ?_, ?_, ?_, ?_, ?_, ?_, ?_, ?_, ?_, ?_, ?_, ?_, ?_, ?_⟩
  all_goals
    try simp only [State.writable, State.ready, State.paired]
    decide +kernel

theorem witness_QuiesceRequestDoneAndRelease :
      ((sBase.writable (prsPage 3)) ∧
        (sBase.chip.flag (prsPage 3) 8 1 = false) ∧
        (∀ (x : Cx) (i : Fin 256), prsPage 3 ≠ Page.cx x CxType.jrn i)) ∧
      ((sQuiet.chip.off = false) ∧
        (pageAwake sQuiet.chip (prsPage 3) = true) ∧
        (sQuiet.chip.flag (prsPage 3) 8 1 = true) ∧
        (unitIdle sQuiet.chip (prsPage 3) = true)) ∧
      ((sQuiet.writable (prsPage 3)) ∧
        (sQuiet.chip.flag (prsPage 3) 8 1 = true) ∧
        (∀ (x : Cx) (i : Fin 256), prsPage 3 ≠ Page.cx x CxType.jrn i)) ∧
      (((sJrnRun jRun).writable (jrnPage 1)) ∧
        (((sJrnRun jRun).chip.jrnOf 1).events = []) ∧
        (((sJrnRun jRun).chip.jrnOf 1).buf.length + ((sJrnRun jRun).chip.jrnOf 1).closed.length + 8 ≤ 65536) ∧
        ((sJrnRun jRun).chip.flag (jrnPage 1) 8 1 = false) ∧
        (((sJrnRun jRun).chip.jrnOf 1).running = true)) ∧
      (((sJrnRun jLost).writable (jrnPage 1)) ∧
        (((sJrnRun jLost).chip.jrnOf 1).events = []) ∧
        (((sJrnRun jLost).chip.jrnOf 1).buf.length + ((sJrnRun jLost).chip.jrnOf 1).closed.length + 8 ≤ 65536) ∧
        ((sJrnRun jLost).chip.flag (jrnPage 1) 8 1 = false) ∧
        (((sJrnRun jLost).chip.jrnOf 1).running = true)) ∧
      ((sJrnQuiet.writable (jrnPage 1)) ∧
        ((sJrnQuiet.chip.jrnOf 1).events = []) ∧
        ((sJrnQuiet.chip.jrnOf 1).buf.length + (sJrnQuiet.chip.jrnOf 1).closed.length + 8 ≤ 65536) ∧
        (sJrnQuiet.chip.flag (jrnPage 1) 8 1 = true) ∧
        ((sJrnQuiet.chip.jrnOf 1).running = false) ∧
        (sJrnQuiet.chip.enabled (jrnPage 1) = true)) := by
  refine ⟨?_, ?_, ?_, ?_, ?_, ?_⟩
  all_goals
    try simp only [State.writable]
    decide +kernel

theorem witness_WindowCommandsActAndComplete :
      (((sWin 2047).windowFree 1 63)) ∧
      (((sWin 2047).windowFree 1 63)) ∧
      (((sWin 2048).windowFree 1 63)) ∧
      (((sWin 2047).windowFree 1 63)) ∧
      (((sWin 2047).windowFree 1 63) ∧
        (¬↑4 ∈ [1, 2, 3])) ∧
      (((sWin 2047).windowFree 1 63) ∧
        (¬↑0 ∈ [1, 2, 3])) ∧
      (((sWinRun 1 0).ready 1) ∧
        (kvFind (sWinRun 1 0).chip.twRun (twKey 1 63) = some (winRun 1 0)) ∧
        ((winRun 1 0).again = false) ∧
        ((winRun 1 0).stat < 16) ∧
        ((sWinRun 1 0).chip.latent = []) ∧
        ((winRun 1 0).op = 2 →
          (winRun 1 0).stat = 0 →
            Option.any
                (fun p =>
                  plainTable p (winRun 1 0).table && (tableOf (sWinRun 1 0).chip.part p (winRun 1 0).table).isSome)
                (winRun 1 0).owner =
              true)) ∧
      (((sWinRun 2 15).ready 1) ∧
        (kvFind (sWinRun 2 15).chip.twRun (twKey 1 63) = some (winRun 2 15)) ∧
        ((winRun 2 15).again = false) ∧
        ((winRun 2 15).stat < 16) ∧
        ((sWinRun 2 15).chip.latent = []) ∧
        ((winRun 2 15).op = 2 →
          (winRun 2 15).stat = 0 →
            Option.any
                (fun p =>
                  plainTable p (winRun 2 15).table &&
                    (tableOf (sWinRun 2 15).chip.part p (winRun 2 15).table).isSome)
                (winRun 2 15).owner =
              true)) ∧
      (((sWinRun 2 0).ready 1) ∧
        (kvFind (sWinRun 2 0).chip.twRun (twKey 1 63) = some (winRun 2 0)) ∧
        ((winRun 2 0).again = false) ∧
        ((winRun 2 0).stat < 16) ∧
        ((sWinRun 2 0).chip.latent = []) ∧
        ((winRun 2 0).op = 2 →
          (winRun 2 0).stat = 0 →
            Option.any
                (fun p =>
                  plainTable p (winRun 2 0).table && (tableOf (sWinRun 2 0).chip.part p (winRun 2 0).table).isSome)
                (winRun 2 0).owner =
              true)) := by
  refine ⟨?_, ?_, ?_, ?_, ?_, ?_, ?_, ?_, ?_⟩
  all_goals
    try simp only [State.windowFree, State.ready]
    decide +kernel

theorem witness_BreakoutsAndBringUp :
      ((sBase.writable (pgrPage 63)) ∧
        (breakoutValid (286331153) = true)) ∧
      ((sBase.writable (pgrPage 63)) ∧
        (breakoutValid (4294967295) = false)) ∧
      (((sPort 1 1).ready (cxOf 8)) ∧
        ((sPort 1 1).chip.modeAt 8 ≠ 0) ∧
        ((sPort 1 1).chip.linkState 8 = 1) ∧
        (isPair (sPort 1 1).chip 8 = false) ∧
        (↑1 = (sPort 1 1).chip.modeAt 8)) ∧
      (((sPort 1 1).ready (cxOf 8)) ∧
        ((sPort 1 1).chip.modeAt 8 ≠ 0) ∧
        ((sPort 1 1).chip.linkState 8 = 1) ∧
        (isPair (sPort 1 1).chip 8 = false) ∧
        (↑2 ≠ (sPort 1 1).chip.modeAt 8)) ∧
      (((sPort 14 2).ready (cxOf 8)) ∧
        ((sPort 14 2).chip.modeAt 8 ≠ 0) ∧
        ((sPort 14 2).chip.linkState 8 = 2) ∧
        (isPair (sPort 14 2).chip 8 = false)) ∧
      (((sPort 14 3).ready (cxOf 8)) ∧
        ((sPort 14 3).chip.modeAt 8 ≠ 0) ∧
        ((sPort 14 3).chip.linkState 8 = 3) ∧
        (isPair (sPort 14 3).chip 8 = false) ∧
        ((sPort 14 3).chip.flag (prtPage 8) 72 0 = false) ∧
        (((relSkews (arrivals (sPort 14 3).chip 8 [(0, 0), (1, 0), (2, 0), (3, 0)])).fst.all fun u =>
            skewOk ((sPort 14 3).chip.modeAt 8) u) =
          true)) ∧
      (((sPort 14 3).ready (cxOf 8)) ∧
        ((sPort 14 3).chip.modeAt 8 ≠ 0) ∧
        ((sPort 14 3).chip.linkState 8 = 3) ∧
        (isPair (sPort 14 3).chip 8 = false) ∧
        (((relSkews (arrivals (sPort 14 3).chip 8 [(0, 0), (1, 0), (2, 0), (300000, 0)])).fst.all fun u =>
            skewOk ((sPort 14 3).chip.modeAt 8) u) =
          false)) ∧
      (((sLanes 1).ready (cxOf 9)) ∧
        (pairLaneAt (sLanes 1).chip 9 = some (8, 1)) ∧
        ((laneTry (sLanes 1).chip 8 1).st = 1)) ∧
      (((sLanes 1).ready (cxOf 9)) ∧
        (pairLaneAt (sLanes 1).chip 9 = some (8, 1)) ∧
        ((laneTry (sLanes 1).chip 8 1).st = 1)) ∧
      (((sLanes 2).ready (cxOf 9)) ∧
        (pairLaneAt (sLanes 2).chip 9 = some (8, 1)) ∧
        ((laneTry (sLanes 2).chip 8 1).st = 2)) ∧
      (((sLanes 3).ready (cxOf 9)) ∧
        (pairLaneAt (sLanes 3).chip 9 = some (8, 1)) ∧
        ((laneTry (sLanes 3).chip 8 1).st = 3) ∧
        ((sLanes 3).chip.flag (prtPage 8) 72 0 = false)) := by
  refine ⟨?_, ?_, ?_, ?_, ?_, ?_, ?_, ?_, ?_, ?_, ?_⟩
  all_goals
    try simp only [State.writable, State.ready]
    decide +kernel

theorem witness_AttemptsFailAndBeginAgain :
      (((sPortWith 1 2 { deadline := 64 : PortSt }).ready (cxOf 8)) ∧
        ((sPortWith 1 2 { deadline := 64 : PortSt }).chip.modeAt 8 ≠ 0) ∧
        ((sPortWith 1 2 { deadline := 64 : PortSt }).chip.linkState 8 ∈ [1, 2, 3]) ∧
        (isPair (sPortWith 1 2 { deadline := 64 : PortSt }).chip 8 = false) ∧
        (((sPortWith 1 2 { deadline := 64 : PortSt }).chip.port 8).deadline ≤
          (sPortWith 1 2 { deadline := 64 : PortSt }).clk.turn)) ∧
      (((sPortWith 1 5 { deadline := 64 : PortSt }).ready (cxOf 8)) ∧
        ((sPortWith 1 5 { deadline := 64 : PortSt }).chip.modeAt 8 ≠ 0) ∧
        ((sPortWith 1 5 { deadline := 64 : PortSt }).chip.linkState 8 = 5) ∧
        (isPair (sPortWith 1 5 { deadline := 64 : PortSt }).chip 8 = false) ∧
        (((sPortWith 1 5 { deadline := 64 : PortSt }).chip.port 8).deadline ≤
          (sPortWith 1 5 { deadline := 64 : PortSt }).clk.turn)) ∧
      (((sPort 1 5).writable (prtPage 8)) ∧
        ((sPort 1 5).chip.modeAt 8 ≠ 0) ∧
        ((sPort 1 5).chip.linkState 8 ∈ [1, 2, 3, 5]) ∧
        (isPair (sPort 1 5).chip 8 = false)) ∧
      (((sLanes 2).ready (cxOf 9)) ∧
        (pairLaneAt (sLanes 2).chip 9 = some (8, 1)) ∧
        ((laneTry (sLanes 2).chip 8 1).deadline ≤ (sLanes 2).clk.turn) ∧
        ((laneTry (sLanes 2).chip 8 1).st ∈ [1, 2, 3])) ∧
      (((sLanes 5).ready (cxOf 9)) ∧
        (pairLaneAt (sLanes 5).chip 9 = some (8, 1)) ∧
        ((laneTry (sLanes 5).chip 8 1).deadline ≤ (sLanes 5).clk.turn) ∧
        ((laneTry (sLanes 5).chip 8 1).st = 5)) ∧
      (((sLanes 5).writable (prtPage 8)) ∧
        (isPair (sLanes 5).chip 8 = true)) := by
  refine ⟨?_, ?_, ?_, ?_, ?_, ?_⟩
  all_goals
    try simp only [State.writable, State.ready]
    decide +kernel

theorem witness_LaneLossFaultAndDormancy :
      ((sBase.ready (cxOf 511)) ∧
        (laneOwner sBase.chip 511 = none)) ∧
      (((sPort 14 7).ready (cxOf 11)) ∧
        (laneOwner (sPort 14 7).chip 11 = some 8) ∧
        ((sPort 14 7).chip.linkState 8 ∈ [6, 7])) ∧
      (((sPort 14 4).ready (cxOf 11)) ∧
        (laneOwner (sPort 14 4).chip 11 = some 8) ∧
        ((sPort 14 4).chip.linkState 8 = 4) ∧
        (isPair (sPort 14 4).chip 8 = false)) ∧
      (((sLanes 4).ready (cxOf 9)) ∧
        (pairLaneAt (sLanes 4).chip 9 = some (8, 1)) ∧
        ((sLanes 4).chip.linkState 8 = 4) ∧
        (1 ∈ lanesUp (sLanes 4).chip 8)) ∧
      (((sLanes 5).ready (cxOf 8)) ∧
        (pairLaneAt (sLanes 5).chip 8 = some (8, 0)) ∧
        ((sLanes 5).chip.linkState 8 = 4) ∧
        (0 ∈ lanesUp (sLanes 5).chip 8)) ∧
      (((sPort 14 3).ready (cxOf 11)) ∧
        (laneOwner (sPort 14 3).chip 11 = some 8)) ∧
      (((sPort 1 4).ready (cxOf 8)) ∧
        ((sPort 1 4).chip.modeAt 8 ≠ 0) ∧
        (((sPort 1 4).chip.port 8).faultRx = false)) ∧
      (((sPort 1 0).ready (cxOf 8)) ∧
        ((sPort 1 0).chip.modeAt 8 ≠ 0) ∧
        (((sPort 1 0).chip.port 8).faultRx = false)) ∧
      (((sPort 1 4).ready (cxOf 8))) ∧
      (((sPort 1 1).writable (prtPage 8)) ∧
        ((sPort 1 1).chip.isUp 8 = false)) ∧
      (((sPort 1 4).writable (prtPage 8)) ∧
        ((sPort 1 4).chip.modeAt 8 ≠ 0) ∧
        ((sPort 1 4).chip.isUp 8 = true) ∧
        (((sPort 1 4).chip.port 8).rx = none) ∧
        (((sPort 1 4).chip.port 8).tx = []) ∧
        (kvGet [] (sPort 1 4).chip.hostQ ↑8 = [])) ∧
      ((sSleep.writable (prtPage 8)) ∧
        (sSleep.chip.modeAt 8 ≠ 0) ∧
        (sSleep.chip.linkState 8 = 6)) ∧
      (((sPortWith 1 6 { deadline := 64, resume := true : PortSt }).ready (cxOf 8)) ∧
        ((sPortWith 1 6 { deadline := 64, resume := true : PortSt }).chip.linkState 8 = 6) ∧
        (((sPortWith 1 6 { deadline := 64, resume := true : PortSt }).chip.port 8).resume = true) ∧
        (((sPortWith 1 6 { deadline := 64, resume := true : PortSt }).chip.port 8).deadline ≤
          (sPortWith 1 6 { deadline := 64, resume := true : PortSt }).clk.turn)) ∧
      (((sPort 1 7).ready (cxOf 8)) ∧
        ((sPort 1 7).chip.linkState 8 = 7) ∧
        ((sPort 1 7).chip.flag (prtPage 8) 72 0 = false)) := by
  refine ⟨?_, ?_, ?_, ?_, ?_, ?_, ?_, ?_, ?_, ?_, ?_, ?_, ?_, ?_⟩
  all_goals
    try simp only [State.writable, State.ready]
    decide +kernel

theorem witness_FramesAreTakenAndCounted :
      ((sPortQ.ready (cxOf 8)) ∧
        (sPortQ.chip.modeAt 8 ≠ 0) ∧
        (sPortQ.chip.linkState 8 = 4) ∧
        ((sPortQ.chip.port 8).rx = none) ∧
        (64 ≤ (rxNext sPortQ.chip 8 0 (frame64 2048 0)).length) ∧
        (portQuiesce sPortQ.chip 8 = true)) ∧
      ((sPairPort.ready (cxOf 8)) ∧
        (sPairPort.chip.modeAt 8 ≠ 0) ∧
        (sPairPort.chip.linkState 8 = 4) ∧
        ((sPairPort.chip.port 8).rx = none) ∧
        (64 ≤ (rxNext sPairPort.chip 8 0 (frame64 2048 0)).length) ∧
        (portQuiesce sPairPort.chip 8 = false) ∧
        (isPair sPairPort.chip 8 = true)) ∧
      ((sPortSf.ready (cxOf 8)) ∧
        (sPortSf.chip.modeAt 8 ≠ 0) ∧
        (sPortSf.chip.linkState 8 = 4) ∧
        ((sPortSf.chip.port 8).rx = none) ∧
        (64 ≤ (rxNext sPortSf.chip 8 0 (frame64 2048 0)).length) ∧
        (portQuiesce sPortSf.chip 8 = false) ∧
        (isPair sPortSf.chip 8 = false) ∧
        (((none : Option BusErr).isSome || sPortSf.chip.liveFlag (prtPage 8) 256 0 ||
              maybeControl (rxNext sPortSf.chip 8 0 (frame64 2048 0)) ||
            isWitness sPortSf.chip 8 (rxNext sPortSf.chip 8 0 (frame64 2048 0))) =
          true)) ∧
      ((sPortCt.ready (cxOf 8)) ∧
        (sPortCt.chip.modeAt 8 ≠ 0) ∧
        (sPortCt.chip.linkState 8 = 4) ∧
        ((sPortCt.chip.port 8).rx = none) ∧
        (64 ≤ (rxNext sPortCt.chip 8 0 (frame64 34824 2)).length) ∧
        (portQuiesce sPortCt.chip 8 = false) ∧
        (isPair sPortCt.chip 8 = false) ∧
        (((none : Option BusErr).isSome || sPortCt.chip.liveFlag (prtPage 8) 256 0 ||
              maybeControl (rxNext sPortCt.chip 8 0 (frame64 34824 2)) ||
            isWitness sPortCt.chip 8 (rxNext sPortCt.chip 8 0 (frame64 34824 2))) =
          true)) ∧
      ((sPortCt.ready (cxOf 8)) ∧
        (sPortCt.chip.modeAt 8 ≠ 0) ∧
        (sPortCt.chip.linkState 8 = 4) ∧
        ((sPortCt.chip.port 8).rx = none) ∧
        (64 ≤ (rxNext sPortCt.chip 8 0 (frame64 2048 0)).length) ∧
        (portQuiesce sPortCt.chip 8 = false) ∧
        (isPair sPortCt.chip 8 = false) ∧
        (((some { at_ := 0, stage := 3, synd := 85 : BusErr }).isSome || sPortCt.chip.liveFlag (prtPage 8) 256 0 ||
              maybeControl (rxNext sPortCt.chip 8 0 (frame64 2048 0)) ||
            isWitness sPortCt.chip 8 (rxNext sPortCt.chip 8 0 (frame64 2048 0))) =
          true)) ∧
      ((sPortCt.ready (cxOf 8)) ∧
        (sPortCt.chip.modeAt 8 ≠ 0) ∧
        (sPortCt.chip.linkState 8 = 4) ∧
        ((sPortCt.chip.port 8).rx = none) ∧
        (64 ≤ (rxNext sPortCt.chip 8 0 (frame64 2048 0)).length) ∧
        (portQuiesce sPortCt.chip 8 = false) ∧
        (isPair sPortCt.chip 8 = false) ∧
        (((none : Option BusErr).isSome || sPortCt.chip.liveFlag (prtPage 8) 256 0 ||
              maybeControl (rxNext sPortCt.chip 8 0 (frame64 2048 0)) ||
            isWitness sPortCt.chip 8 (rxNext sPortCt.chip 8 0 (frame64 2048 0))) =
          false)) ∧
      (((sPortWith 1 4 { rx := some (rx0 RxKind.early []) : PortSt }).ready (cxOf 8)) ∧
        (rxOpen (sPortWith 1 4 { rx := some (rx0 RxKind.early []) : PortSt }).chip 8 = true) ∧
        (((sPortWith 1 4 { rx := some (rx0 RxKind.early []) : PortSt }).chip.port 8).rx = some (rx0 RxKind.early [])) ∧
        (rxWhole (sPortWith 1 4 { rx := some (rx0 RxKind.early []) : PortSt }).chip 8 (rx0 RxKind.early []).bytes
            [1, 2, 3] =
          some [1, 2, 3]) ∧
        (endCounted (sPortWith 1 4 { rx := some (rx0 RxKind.early []) : PortSt }).chip 8 (rx0 RxKind.early []) = true) ∧
        (endFails (sPortWith 1 4 { rx := some (rx0 RxKind.early []) : PortSt }).chip 8 (rx0 RxKind.early [])
            [1, 2, 3] { : RxErrs } =
          [{ counter := 552, octets := 3, at_ := 3, eof := 31 : RxFail },
            { counter := 576, octets := 3, at_ := 3, eof := 31 : RxFail }])) ∧
      (((sPortWith 1 4 { rx := some (rx0 (RxKind.presented none) (frame64 2048 0)) : PortSt }).ready (cxOf 8)) ∧
        (rxOpen (sPortWith 1 4 { rx := some (rx0 (RxKind.presented none) (frame64 2048 0)) : PortSt }).chip 8 = true) ∧
        (((sPortWith 1 4 { rx := some (rx0 (RxKind.presented none) (frame64 2048 0)) : PortSt }).chip.port 8).rx =
          some (rx0 (RxKind.presented none) (frame64 2048 0))) ∧
        (rxWhole (sPortWith 1 4 { rx := some (rx0 (RxKind.presented none) (frame64 2048 0)) : PortSt }).chip 8
            (rx0 (RxKind.presented none) (frame64 2048 0)).bytes [] =
          some (frame64 2048 0)) ∧
        (endCounted (sPortWith 1 4 { rx := some (rx0 (RxKind.presented none) (frame64 2048 0)) : PortSt }).chip 8
            (rx0 (RxKind.presented none) (frame64 2048 0)) =
          true) ∧
        (endFails (sPortWith 1 4 { rx := some (rx0 (RxKind.presented none) (frame64 2048 0)) : PortSt }).chip 8
            (rx0 (RxKind.presented none) (frame64 2048 0)) (frame64 2048 0) { code := some 64 : RxErrs } =
          [{ counter := 560, octets := 64, at_ := 64, eof := 31 : RxFail }])) ∧
      (((sPortWith 1 4 { rx := some (rx0 RxKind.held (frame64 34824 2)) : PortSt }).ready (cxOf 8)) ∧
        (rxOpen (sPortWith 1 4 { rx := some (rx0 RxKind.held (frame64 34824 2)) : PortSt }).chip 8 = true) ∧
        (((sPortWith 1 4 { rx := some (rx0 RxKind.held (frame64 34824 2)) : PortSt }).chip.port 8).rx =
          some (rx0 RxKind.held (frame64 34824 2))) ∧
        (rxWhole (sPortWith 1 4 { rx := some (rx0 RxKind.held (frame64 34824 2)) : PortSt }).chip 8
            (rx0 RxKind.held (frame64 34824 2)).bytes [] =
          some (frame64 34824 2)) ∧
        (endCounted (sPortWith 1 4 { rx := some (rx0 RxKind.held (frame64 34824 2)) : PortSt }).chip 8
            (rx0 RxKind.held (frame64 34824 2)) =
          true) ∧
        (endFails (sPortWith 1 4 { rx := some (rx0 RxKind.held (frame64 34824 2)) : PortSt }).chip 8
            (rx0 RxKind.held (frame64 34824 2)) (frame64 34824 2) { : RxErrs } =
          [])) ∧
      (((sPortWith 1 4 { rx := some (rx0 RxKind.drain [1]) : PortSt }).ready (cxOf 8)) ∧
        (rxOpen (sPortWith 1 4 { rx := some (rx0 RxKind.drain [1]) : PortSt }).chip 8 = true) ∧
        (((sPortWith 1 4 { rx := some (rx0 RxKind.drain [1]) : PortSt }).chip.port 8).rx =
          some (rx0 RxKind.drain [1])) ∧
        (rxWhole (sPortWith 1 4 { rx := some (rx0 RxKind.drain [1]) : PortSt }).chip 8 (rx0 RxKind.drain [1]).bytes
            [2] =
          some [1, 2]) ∧
        ((rx0 RxKind.drain [1]).kind = RxKind.drain)) ∧
      (((sPort 14 4).ready (cxOf 8)) ∧
        ((sPort 14 4).chip.modeAt 8 ≠ 0) ∧
        ((sPort 14 4).chip.linkState 8 ≠ 0) ∧
        (((sPort 14 4).chip.port 8).rx = none) ∧
        ((sPort 14 4).chip.lpbk 8 ≠ 1) ∧
        (hasFec (sPort 14 4).chip 8 = true) ∧
        ({ fecCw := 5, fecCorr := 1 : RxErrs }.eccCorr = 0) ∧
        ({ fecCw := 5, fecCorr := 1 : RxErrs }.ecc = none)) := by
  refine ⟨?_, ?_, ?_, ?_, ?_, ?_, ?_, ?_, ?_, ?_, ?_⟩
  all_goals
    try simp only [State.ready]
    decide +kernel

theorem witness_FlowControlIsWantedAndSent :
      (((sPort 1 4).writable (prtPage 8))) ∧
      (((sXoff { : PortSt }).ready (cxOf 8)) ∧
        (fcState (sXoff { : PortSt }).chip 8 ≠ 0) ∧
        (((sXoff { : PortSt }).chip.port 8).fcNext ≤ (sXoff { : PortSt }).clk.abs) ∧
        ((sXoff { : PortSt }).chip.isUp 8 = true)) ∧
      (((sXoff { : PortSt }).ready (cxOf 8))) ∧
      (((sXoff { fcTouch := 1, fcPend := true : PortSt }).ready (cxOf 8)) ∧
        (((sXoff { fcTouch := 1, fcPend := true : PortSt }).chip.port 8).fcPend = true) ∧
        (linkOpen (sXoff { fcTouch := 1, fcPend := true : PortSt }).chip 8 = true) ∧
        (isPair (sXoff { fcTouch := 1, fcPend := true : PortSt }).chip 8 = false) ∧
        ((sXoff { fcTouch := 1, fcPend := true : PortSt }).chip.lpbk 8 ≠ 2) ∧
        (place (sXoff { fcTouch := 1, fcPend := true : PortSt }).chip { fcTouch := 1, fcPend := true : PortSt } 8
            (macReady sBase.clk (sXoff { fcTouch := 1, fcPend := true : PortSt }).chip 8) 64 0 =
          place (sXoff { fcTouch := 1, fcPend := true : PortSt }).chip
            ((sXoff { fcTouch := 1, fcPend := true : PortSt }).chip.port 8) 8
            (macReady (sXoff { fcTouch := 1, fcPend := true : PortSt }).clk
              (sXoff { fcTouch := 1, fcPend := true : PortSt }).chip 8)
            64 0) ∧
        (fcBehind (sXoff { fcTouch := 1, fcPend := true : PortSt }).clk
            (sXoff { fcTouch := 1, fcPend := true : PortSt }).chip 8 =
          false) ∧
        (doorBlocks (sXoff { fcTouch := 1, fcPend := true : PortSt }).clk
            (sXoff { fcTouch := 1, fcPend := true : PortSt }).chip 8 none
            ((place (sXoff { fcTouch := 1, fcPend := true : PortSt }).chip { fcTouch := 1, fcPend := true : PortSt }
                    8 (macReady sBase.clk (sXoff { fcTouch := 1, fcPend := true : PortSt }).chip 8) 64 0).lineEnd +
                wireTime ((sXoff { fcTouch := 1, fcPend := true : PortSt }).chip.modeAt 8)
                  (portIpg (sXoff { fcTouch := 1, fcPend := true : PortSt }).chip 8) +
              9600) =
          false)) := by
  refine ⟨?_, ?_, ?_, ?_⟩
  all_goals
    try simp only [State.writable, State.ready]
    decide +kernel

theorem witness_TransmittedFrameEnds :
      ((sTx.ready (cxOf 8)) ∧
        (onWire sTx.clk sTx.chip 8 = some txf) ∧
        (txf.kind = TxKind.queue 5) ∧
        (txf.cur < 32) ∧
        (txf.bytes.length ≤ 1000)) ∧
      ((sTx.ready (cxOf 8)) ∧
        (onWire sTx.clk sTx.chip 8 = some txf) ∧
        (0 < txf.bytes.length)) ∧
      ((sTx.ready (cxOf 8)) ∧
        (onWire sTx.clk sTx.chip 8 = some txf) ∧
        ((queued txf && ({ : EofBits }.fcsBad || { : EofBits }.trunc)) = false) ∧
        ((txf.ecc || { : EofBits }.ecc.isSome || queued txf && { : EofBits }.stomp) = false)) ∧
      ((sTx.ready (cxOf 8)) ∧
        (onWire sTx.clk sTx.chip 8 = some txf) ∧
        ((queued txf && ({ trunc := true : EofBits }.fcsBad || { trunc := true : EofBits }.trunc)) = true)) ∧
      (((sPortWith 1 4
              {
                tx :=
                  [let __src := txf;
                    { kind := __src.kind, tag := __src.tag, cls := __src.cls, len := __src.len,
                      reqAt := __src.reqAt, cfg := __src.cfg, cur := __src.cur, group := __src.group,
                      late := __src.late, arrived := __src.arrived, word := __src.word, bytes := __src.bytes,
                      whole := __src.whole, ptp := __src.ptp, goal := __src.goal, edited := __src.edited,
                      launch := __src.launch, stamp := __src.stamp, unlocked := __src.unlocked,
                      recDone := __src.recDone, seq := __src.seq, cap := __src.cap, dead := __src.dead,
                      ecc := true : TxFrame }] :
                PortSt }).ready
          (cxOf 8)) ∧
        (onWire
            (sPortWith 1 4
                {
                  tx :=
                    [let __src := txf;
                      { kind := __src.kind, tag := __src.tag, cls := __src.cls, len := __src.len,
                        reqAt := __src.reqAt, cfg := __src.cfg, cur := __src.cur, group := __src.group,
                        late := __src.late, arrived := __src.arrived, word := __src.word, bytes := __src.bytes,
                        whole := __src.whole, ptp := __src.ptp, goal := __src.goal, edited := __src.edited,
                        launch := __src.launch, stamp := __src.stamp, unlocked := __src.unlocked,
                        recDone := __src.recDone, seq := __src.seq, cap := __src.cap, dead := __src.dead,
                        ecc := true : TxFrame }] :
                  PortSt }).clk
            (sPortWith 1 4
                {
                  tx :=
                    [let __src := txf;
                      { kind := __src.kind, tag := __src.tag, cls := __src.cls, len := __src.len,
                        reqAt := __src.reqAt, cfg := __src.cfg, cur := __src.cur, group := __src.group,
                        late := __src.late, arrived := __src.arrived, word := __src.word, bytes := __src.bytes,
                        whole := __src.whole, ptp := __src.ptp, goal := __src.goal, edited := __src.edited,
                        launch := __src.launch, stamp := __src.stamp, unlocked := __src.unlocked,
                        recDone := __src.recDone, seq := __src.seq, cap := __src.cap, dead := __src.dead,
                        ecc := true : TxFrame }] :
                  PortSt }).chip
            8 =
          some
            (let __src := txf;
            { kind := __src.kind, tag := __src.tag, cls := __src.cls, len := __src.len, reqAt := __src.reqAt,
              cfg := __src.cfg, cur := __src.cur, group := __src.group, late := __src.late,
              arrived := __src.arrived, word := __src.word, bytes := __src.bytes, whole := __src.whole,
              ptp := __src.ptp, goal := __src.goal, edited := __src.edited, launch := __src.launch,
              stamp := __src.stamp, unlocked := __src.unlocked, recDone := __src.recDone, seq := __src.seq,
              cap := __src.cap, dead := __src.dead, ecc := true : TxFrame })) ∧
        ((queued
              (let __src := txf;
              { kind := __src.kind, tag := __src.tag, cls := __src.cls, len := __src.len, reqAt := __src.reqAt,
                cfg := __src.cfg, cur := __src.cur, group := __src.group, late := __src.late,
                arrived := __src.arrived, word := __src.word, bytes := __src.bytes, whole := __src.whole,
                ptp := __src.ptp, goal := __src.goal, edited := __src.edited, launch := __src.launch,
                stamp := __src.stamp, unlocked := __src.unlocked, recDone := __src.recDone, seq := __src.seq,
                cap := __src.cap, dead := __src.dead, ecc := true : TxFrame }) &&
            ({ : EofBits }.fcsBad || { : EofBits }.trunc)) =
          false) ∧
        (((let __src := txf;
                { kind := __src.kind, tag := __src.tag, cls := __src.cls, len := __src.len, reqAt := __src.reqAt,
                  cfg := __src.cfg, cur := __src.cur, group := __src.group, late := __src.late,
                  arrived := __src.arrived, word := __src.word, bytes := __src.bytes, whole := __src.whole,
                  ptp := __src.ptp, goal := __src.goal, edited := __src.edited, launch := __src.launch,
                  stamp := __src.stamp, unlocked := __src.unlocked, recDone := __src.recDone, seq := __src.seq,
                  cap := __src.cap, dead := __src.dead, ecc := true : TxFrame }).ecc ||
              { : EofBits }.ecc.isSome ||
            queued
                (let __src := txf;
                { kind := __src.kind, tag := __src.tag, cls := __src.cls, len := __src.len, reqAt := __src.reqAt,
                  cfg := __src.cfg, cur := __src.cur, group := __src.group, late := __src.late,
                  arrived := __src.arrived, word := __src.word, bytes := __src.bytes, whole := __src.whole,
                  ptp := __src.ptp, goal := __src.goal, edited := __src.edited, launch := __src.launch,
                  stamp := __src.stamp, unlocked := __src.unlocked, recDone := __src.recDone, seq := __src.seq,
                  cap := __src.cap, dead := __src.dead, ecc := true : TxFrame }) &&
              { : EofBits }.stomp) =
          true)) := by
  refine ⟨?_, ?_, ?_, ?_, ?_⟩
  all_goals
    try simp only [State.ready]
    decide +kernel

theorem witness_IncrementsAreInRange :
      ((sEdge.clk.Ok)) ∧
      (((sIncr 180053913102273).writable Page.tim) ∧
        ((sIncr 180053913102273).chip.time.adj = none) ∧
        (180053913102273 = BitVec.toNat ((sIncr 180053913102273).chip.get Page.tim 88)) ∧
        (180053913102273 ≤ 180053913102273 ∧ 180053913102273 ≤ 180234057087367)) ∧
      (((sIncr 180234057087368).writable Page.tim) ∧
        ((sIncr 180234057087368).chip.time.adj = none) ∧
        (180234057087368 = BitVec.toNat ((sIncr 180234057087368).chip.get Page.tim 88)) ∧
        (180234057087368 < 180053913102273 ∨ 180234057087367 < 180234057087368)) := by
  refine ⟨?_, ?_, ?_⟩
  all_goals
    try simp only [State.writable, Clk.ok_iff]
    decide +kernel

theorem witness_AdjustmentsAreScheduledAndApplied :
      ((sBase.writable Page.tim)) ∧
      (((sIncr 180234057087367).writable Page.tim) ∧
        ((sIncr 180234057087367).chip.time.adj = none) ∧
        (incrOk (BitVec.toNat ((sIncr 180234057087367).chip.get Page.tim 88)) = true)) ∧
      ((sBase.writable Page.tim) ∧
        (sBase.chip.time.adj = none)) ∧
      ((sBase.writable Page.tim) ∧
        (sBase.chip.time.adj = none) ∧
        (BitVec.toNat (sBase.chip.get Page.tim 112) / 65536 < 1000000000)) ∧
      ((sAdj.writable Page.tim) ∧
        (sAdj.chip.time.adj.isSome = true) ∧
        (Instr.step ∈ [Instr.loadIncr, Instr.step, Instr.set])) ∧
      ((sAdj.powered) ∧
        (sAdj.clk.Ok) ∧
        (sAdj.clk.clock = 0) ∧
        (sAdj.chip.time.adj = some adj0) ∧
        (adj0.due ≤ sAdj.clk.turn)) ∧
      (((sTim fun t =>
            {
              adj :=
                some
                  { due := 64, incr := some 180234057087367, step := none,
                    set := some (2 ^ 48 - 1, 65535999999999) : Adjust },
              before := t.before, ppsLast := t.ppsLast, missDue := t.missDue, ppsHigh := t.ppsHigh,
              ppsFall := t.ppsFall, todWait := t.todWait, todSeq := t.todSeq, todTx := t.todTx,
              lastRep := t.lastRep, holdFrom := t.holdFrom, refFrom := t.refFrom, refGone := t.refGone,
              synceHold := t.synceHold, calOp := t.calOp, calProg := t.calProg, calTorn := t.calTorn,
              unlock1 := t.unlock1, unlocked := t.unlocked, calVals := t.calVals : TimeSt }).powered) ∧
        ((sTim fun t =>
              {
                adj :=
                  some
                    { due := 64, incr := some 180234057087367, step := none,
                      set := some (2 ^ 48 - 1, 65535999999999) : Adjust },
                before := t.before, ppsLast := t.ppsLast, missDue := t.missDue, ppsHigh := t.ppsHigh,
                ppsFall := t.ppsFall, todWait := t.todWait, todSeq := t.todSeq, todTx := t.todTx,
                lastRep := t.lastRep, holdFrom := t.holdFrom, refFrom := t.refFrom, refGone := t.refGone,
                synceHold := t.synceHold, calOp := t.calOp, calProg := t.calProg, calTorn := t.calTorn,
                unlock1 := t.unlock1, unlocked := t.unlocked, calVals := t.calVals : TimeSt }).clk.Ok) ∧
        ((sTim fun t =>
                {
                  adj :=
                    some
                      { due := 64, incr := some 180234057087367, step := none,
                        set := some (2 ^ 48 - 1, 65535999999999) : Adjust },
                  before := t.before, ppsLast := t.ppsLast, missDue := t.missDue, ppsHigh := t.ppsHigh,
                  ppsFall := t.ppsFall, todWait := t.todWait, todSeq := t.todSeq, todTx := t.todTx,
                  lastRep := t.lastRep, holdFrom := t.holdFrom, refFrom := t.refFrom, refGone := t.refGone,
                  synceHold := t.synceHold, calOp := t.calOp, calProg := t.calProg, calTorn := t.calTorn,
                  unlock1 := t.unlock1, unlocked := t.unlocked, calVals := t.calVals : TimeSt }).clk.clock =
          0) ∧
        ((sTim fun t =>
                  {
                    adj :=
                      some
                        { due := 64, incr := some 180234057087367, step := none,
                          set := some (2 ^ 48 - 1, 65535999999999) : Adjust },
                    before := t.before, ppsLast := t.ppsLast, missDue := t.missDue, ppsHigh := t.ppsHigh,
                    ppsFall := t.ppsFall, todWait := t.todWait, todSeq := t.todSeq, todTx := t.todTx,
                    lastRep := t.lastRep, holdFrom := t.holdFrom, refFrom := t.refFrom, refGone := t.refGone,
                    synceHold := t.synceHold, calOp := t.calOp, calProg := t.calProg, calTorn := t.calTorn,
                    unlock1 := t.unlock1, unlocked := t.unlocked, calVals := t.calVals : TimeSt }).chip.time.adj =
          some
            { due := 64, incr := some 180234057087367, step := none, set := some (2 ^ 48 - 1, 65535999999999) :
              Adjust }) ∧
        ({ due := 64, incr := some 180234057087367, step := none, set := some (2 ^ 48 - 1, 65535999999999) :
              Adjust }.due ≤
          (sTim fun t =>
                {
                  adj :=
                    some
                      { due := 64, incr := some 180234057087367, step := none,
                        set := some (2 ^ 48 - 1, 65535999999999) : Adjust },
                  before := t.before, ppsLast := t.ppsLast, missDue := t.missDue, ppsHigh := t.ppsHigh,
                  ppsFall := t.ppsFall, todWait := t.todWait, todSeq := t.todSeq, todTx := t.todTx,
                  lastRep := t.lastRep, holdFrom := t.holdFrom, refFrom := t.refFrom, refGone := t.refGone,
                  synceHold := t.synceHold, calOp := t.calOp, calProg := t.calProg, calTorn := t.calTorn,
                  unlock1 := t.unlock1, unlocked := t.unlocked, calVals := t.calVals : TimeSt }).clk.turn)) := by
  refine ⟨?_, ?_, ?_, ?_, ?_, ?_, ?_⟩
  all_goals
    try simp only [State.writable, State.powered, Clk.ok_iff]
    decide +kernel

theorem witness_PulsesInAndOut :
      ((sPps1.powered) ∧
        (sPps1.chip.time.ppsLast = some 63) ∧
        (sPps1.clk.turn < 63 + msTurns 900)) ∧
      ((sBase.powered) ∧
        (∀ (t : Nat), sBase.chip.time.ppsLast = some t → t + msTurns 900 ≤ sBase.clk.turn)) ∧
      ((sPps1.powered) ∧
        (sPps1.chip.time.ppsLast.isSome = true) ∧
        (sPps1.chip.time.missDue ≤ sPps1.clk.turn)) ∧
      (((sPulse false).powered) ∧
        ((sPulse false).chip.ppsOutPin = some false) ∧
        ((sPulse false).clk.secPass = true)) ∧
      (((sPulse true).powered) ∧
        ((sPulse true).chip.ppsOutPin = some true) ∧
        ((sPulse true).chip.time.ppsFall / 16 ≤ (sPulse true).clk.abs)) := by
  refine ⟨?_, ?_, ?_, ?_, ?_⟩
  all_goals
    try simp only [State.powered]
    decide +kernel

theorem witness_TimeOfDayMessages :
      ((sTod.powered) ∧
        (sTod.chip.enabled Page.tim = true) ∧
        (sTod.chip.liveFlag Page.tim 64 6 = true) ∧
        (sTod.clk.halfPass = true)) ∧
      ((sTod.powered) ∧
        (sTod.chip.liveFlag Page.tim 64 7 = true) ∧
        (todValid todMsg true = true)) ∧
      ((sTod.powered) ∧
        (sTod.chip.liveFlag Page.tim 64 7 = true) ∧
        (todValid todMsg false = false)) ∧
      ((sTod.powered)) := by
  refine ⟨?_, ?_, ?_, ?_⟩
  all_goals
    try simp only [State.powered]
    decide +kernel

theorem witness_TimeStateFollowsReports :
      (((sSrc2 2).writable Page.tim) ∧
        ((sSrc2 2).chip.src = 2)) ∧
      (((sSrc2 1).writable Page.tim) ∧
        ((sSrc2 1).chip.src = 2)) ∧
      (((sSrc2 1).writable Page.tim) ∧
        ((sSrc2 1).chip.src = 2)) ∧
      (((sSrc2 2).writable Page.tim) ∧
        ((sSrc2 2).chip.src = 2)) ∧
      (((sLate 2).powered) ∧
        ((sLate 2).chip.timeState = 2) ∧
        ((sLate 2).chip.time.lastRep + msTurns (max 1 ((sLate 2).chip.live Page.tim 196 15 0)) ≤ (sLate 2).clk.turn)) ∧
      (((sLate 3).powered) ∧
        ((sLate 3).chip.timeState = 3) ∧
        ((sLate 3).chip.time.holdFrom + msTurns (1000 * (sLate 3).chip.live Page.tim 196 31 16) ≤ (sLate 3).clk.turn)) := by
  refine ⟨?_, ?_, ?_, ?_, ?_, ?_⟩
  all_goals
    try simp only [State.writable, State.powered]
    decide +kernel

theorem witness_ReferenceExportsAndProbes :
      ((sRef.powered) ∧
        (sRef.chip.live Page.tim 232 1 0 ≠ 0) ∧
        (sRef.chip.time.refFrom + 2 ^ 20 ≤ sRef.clk.turn)) ∧
      ((sRef.powered) ∧
        (sRef.chip.live Page.tim 232 1 0 ≠ 0)) ∧
      ((sSync.powered) ∧
        (sSync.clk.clock = 0) ∧
        (synceBad sSync.clk sSync.chip ↑1 = false)) ∧
      ((sBase.writable (stpPage 511)) ∧
        (sBase.chip.modeAt 511 = 0) ∧
        (Instr.armRx 511 ∈ [Instr.armRx 511, Instr.armTx 511])) ∧
      (((sPort 1 4).writable (stpPage 8)) ∧
        ((sPort 1 4).chip.modeAt 8 ≠ 0)) ∧
      (((sPort 1 4).writable (stpPage 8)) ∧
        ((sPort 1 4).chip.modeAt 8 ≠ 0)) := by
  refine ⟨?_, ?_, ?_, ?_, ?_, ?_⟩
  all_goals
    try simp only [State.writable, State.powered]
    decide +kernel

theorem witness_CalibrationStoreOperations :
      ((sUnlock.writable Page.tim)) ∧
      ((sUnlock.writable Page.tim) ∧
        (sUnlock.chip.time.unlock1 = some (64 * 1600 - 1600)) ∧
        (sUnlock.clk.abs ≤ 64 * 1600 - 1600 + 1600)) ∧
      ((sUnlock.writable Page.tim) ∧
        (0 ≠ 49374) ∧
        (0 ≠ 61822)) ∧
      ((sUnlock.writable Page.tim) ∧
        (sUnlock.chip.time.calOp = none)) ∧
      ((sUnlock.writable Page.tim) ∧
        (sUnlock.chip.time.calOp = none)) ∧
      ((sUnlock.writable Page.tim) ∧
        (sUnlock.chip.time.calOp = none) ∧
        (calUnlocked sUnlock.clk sUnlock.chip = true) ∧
        (sUnlock.chip.time.calProg < 1000)) ∧
      ((sBase.writable Page.tim) ∧
        (sBase.chip.time.calOp = none) ∧
        (calUnlocked sBase.clk sBase.chip = false)) ∧
      ((sWorn.writable Page.tim) ∧
        (sWorn.chip.time.calOp = none) ∧
        (calUnlocked sWorn.clk sWorn.chip = true) ∧
        (1000 ≤ sWorn.chip.time.calProg)) ∧
      (((sCalOp 1).powered) ∧
        ((sCalOp 1).chip.time.calOp = some (1, 70)) ∧
        (1 ∈ [1, 2, 3]) ∧
        ((sCalOp 1).chip.latent = [])) ∧
      (((sCalOp 2).powered) ∧
        ((sCalOp 2).chip.time.calOp = some (2, 70)) ∧
        (2 ∈ [1, 2, 3]) ∧
        ((sCalOp 2).chip.latent = [])) ∧
      (((sCalOp 3).powered) ∧
        ((sCalOp 3).chip.time.calOp = some (3, 70)) ∧
        (3 ∈ [1, 2, 3]) ∧
        ((sCalOp 3).chip.latent = [])) := by
  refine ⟨?_, ?_, ?_, ?_, ?_, ?_, ?_, ?_, ?_, ?_, ?_⟩
  all_goals
    try simp only [State.writable, State.powered]
    decide +kernel

theorem witness_GenerationsSwapAndEnginesAreMasked :
      (((sGen 0 1).writable (slcPage 7)) ∧
        ((sGen 0 1).chip.flag (slcPage 7) 80 31 = false) ∧
        (kvFind (sGen 0 1).chip.swaps ↑7 = none) ∧
        ((sGen 0 1).chip.fld (slcPage 7) 64 31 16 ≠ (sGen 0 1).chip.fld (slcPage 7) 68 31 16)) ∧
      (((sGen 1 1).writable (slcPage 7)) ∧
        ((sGen 1 1).chip.flag (slcPage 7) 80 31 = true ∨
          (kvFind (sGen 1 1).chip.swaps ↑7).isSome = true ∨
            (sGen 1 1).chip.fld (slcPage 7) 64 31 16 = (sGen 1 1).chip.fld (slcPage 7) 68 31 16)) ∧
      (((sGen 0 0).writable (slcPage 7)) ∧
        ((sGen 0 0).chip.flag (slcPage 7) 80 31 = true ∨
          (kvFind (sGen 0 0).chip.swaps ↑7).isSome = true ∨
            (sGen 0 0).chip.fld (slcPage 7) 64 31 16 = (sGen 0 0).chip.fld (slcPage 7) 68 31 16)) ∧
      (((sGen 1 1).ready (cxOfSlice 7)) ∧
        ((sGen 1 1).chip.flag (slcPage 7) 80 31 = true) ∧
        ((sGen 1 1).chip.fld (slcPage 7) 84 31 16 = 0)) ∧
      (((sGen 1 1).writable (prsPage 7)) ∧
        ((List.filter (fun e => bit (4095) e) (List.range 16)).length < 13)) ∧
      (((sGen 1 1).writable (prsPage 7)) ∧
        (13 ≤ (List.filter (fun e => bit (991231) e) (List.range 16)).length)) := by
  refine ⟨?_, ?_, ?_, ?_, ?_, ?_⟩
  all_goals
    try simp only [State.writable, State.ready]
    decide +kernel

theorem witness_HeadsAreDispatchedAndWalksGoOn :
      (((sPort 1 1).ready (cxOf 8)) ∧
        (rxOpen (sPort 1 1).chip 8 = false)) ∧
      (((sPort 1 4).ready (cxOf 8)) ∧
        (rxOpen (sPort 1 4).chip 8 = true) ∧
        (((sPort 1 4).chip.port 8).rx = none)) ∧
      (((sGot Loc.released).ready (cxOf 8)) ∧
        (rxOpen (sGot Loc.released).chip 8 = true) ∧
        (((sGot Loc.released).chip.port 8).rx = some (rx0 (RxKind.presented (some 5)) (List.replicate 64 1))) ∧
        ((rx0 (RxKind.presented (some 5)) (List.replicate 64 1)).kind = RxKind.presented (some (frm Loc.released).id)) ∧
        ((rx0 (RxKind.presented (some 5)) (List.replicate 64 1)).code = none) ∧
        ((rx0 (RxKind.presented (some 5)) (List.replicate 64 1)).ecc = none) ∧
        (kvFind (sGot Loc.released).chip.frames (frm Loc.released).id = some (frm Loc.released)) ∧
        ((frm Loc.released).ended = false) ∧
        ((frm Loc.released).host = none) ∧
        (List.replicate 65 1 =
          (rx0 (RxKind.presented (some 5)) (List.replicate 64 1)).bytes ++
            rxNext (sGot Loc.released).chip 8 (rx0 (RxKind.presented (some 5)) (List.replicate 64 1)).bytes.length
              [1]) ∧
        ((List.replicate 65 1).length ≤
          maxLen
            (have __src := (sGot Loc.released).chip;
            { part := __src.part, maxPay := __src.maxPay, maxRead := __src.maxRead, off := __src.off,
              regs := (rx0 (RxKind.presented (some 5)) (List.replicate 64 1)).cfg, mem := __src.mem,
              latent := __src.latent, twBuf := __src.twBuf, twRun := __src.twRun, initBusy := __src.initBusy,
              commits := __src.commits, resetting := __src.resetting, committed := __src.committed,
              readPcie := __src.readPcie, readMgmt := __src.readMgmt, logs := __src.logs, time := __src.time,
              frames := __src.frames, nextFrame := __src.nextFrame, ses := __src.ses, recov := __src.recov,
              mtrEpoch := __src.mtrEpoch, mtrMod := __src.mtrMod, dirty := __src.dirty, jrn := __src.jrn,
              keys := __src.keys, keyLoad := __src.keyLoad, funcOn := __src.funcOn, funcStop := __src.funcStop,
              rings := __src.rings, push := __src.push, acks := __src.acks, fetchAt := __src.fetchAt,
              hostQ := __src.hostQ, coreQ := __src.coreQ, hlt := __src.hlt, nextOrder := __src.nextOrder,
              swaps := __src.swaps, slowCnt := __src.slowCnt, recCnt := __src.recCnt, disp := __src.disp,
              relSlot := __src.relSlot, bus := __src.bus, passed := __src.passed, ranks := __src.ranks,
              ports := __src.ports, laneCnt := __src.laneCnt, notices := __src.notices, sched := __src.sched,
              drops := __src.drops, doors := __src.doors, owed := __src.owed, tel := __src.tel, icu := __src.icu,
              standby := __src.standby, chk := __src.chk, pair := __src.pair, therm := __src.therm,
              sweep := __src.sweep, out := __src.out : Chip })
            8) ∧
        ([1] = List.drop (frm Loc.released).bytes.length (List.replicate 65 1)) ∧
        ((let __src := frm Loc.released;
          { id := __src.id, port := __src.port, pg := __src.pg, host := __src.host, sequ := __src.sequ,
            rank := __src.rank, since := __src.since, bytes := List.replicate 65 1, ended := __src.ended,
            fcsBad := __src.fcsBad, stomp := __src.stomp, trunc := __src.trunc, cut := __src.cut, ecc := __src.ecc,
            stamp := __src.stamp, cfg := __src.cfg, loc := __src.loc, grec := __src.grec, gen := __src.gen,
            counted := __src.counted, order := __src.order, enq := __src.enq, engine := __src.engine,
            waited := __src.waited, rqWait := __src.rqWait, w := __src.w, walk := __src.walk, two := __src.two,
            metaB := __src.metaB, glzState := __src.glzState, tag2 := __src.tag2, sliceKey := __src.sliceKey,
            bsqKey := __src.bsqKey, bsqHit := __src.bsqHit, cls := __src.cls, queue := __src.queue,
            mcast := __src.mcast, colour := __src.colour, meter := __src.meter, sesProf := __src.sesProf,
            capture := __src.capture, sesValid := __src.sesValid, untrack := __src.untrack, gap := __src.gap,
            dup := __src.dup, jrn := __src.jrn, strValid := __src.strValid, session := __src.session,
            appSeq := __src.appSeq, stream := __src.stream, sesUse := __src.sesUse, mtrUse := __src.mtrUse,
            credits := __src.credits, slow := __src.slow, sent := __src.sent, fate := __src.fate,
            recorded := __src.recorded, unlocked := __src.unlocked, resync := __src.resync,
            expired := __src.expired, placed := __src.placed : Frame }) =
          { id := (frm Loc.released).id, port := (frm Loc.released).port, pg := (frm Loc.released).pg,
            host := (frm Loc.released).host, sequ := (frm Loc.released).sequ, rank := (frm Loc.released).rank,
            since := (frm Loc.released).since, bytes := (frm Loc.released).bytes ++ [1],
            ended := (frm Loc.released).ended, fcsBad := (frm Loc.released).fcsBad,
            stomp := (frm Loc.released).stomp, trunc := (frm Loc.released).trunc, cut := (frm Loc.released).cut,
            ecc :=
              (frm Loc.released).ecc || decide ((rx0 (RxKind.presented (some 5)) (List.replicate 64 1)).corr > 0),
            stamp := (frm Loc.released).stamp, cfg := (frm Loc.released).cfg, loc := (frm Loc.released).loc,
            grec := (frm Loc.released).grec, gen := (frm Loc.released).gen, counted := (frm Loc.released).counted,
            order := (frm Loc.released).order, enq := (frm Loc.released).enq, engine := (frm Loc.released).engine,
            waited := (frm Loc.released).waited, rqWait := (frm Loc.released).rqWait, w := (frm Loc.released).w,
            walk := (frm Loc.released).walk, two := (frm Loc.released).two, metaB := (frm Loc.released).metaB,
            glzState := (frm Loc.released).glzState, tag2 := (frm Loc.released).tag2,
            sliceKey := (frm Loc.released).sliceKey, bsqKey := (frm Loc.released).bsqKey,
            bsqHit := (frm Loc.released).bsqHit, cls := (frm Loc.released).cls, queue := (frm Loc.released).queue,
            mcast := (frm Loc.released).mcast, colour := (frm Loc.released).colour,
            meter := (frm Loc.released).meter, sesProf := (frm Loc.released).sesProf,
            capture := (frm Loc.released).capture, sesValid := (frm Loc.released).sesValid,
            untrack := (frm Loc.released).untrack, gap := (frm Loc.released).gap, dup := (frm Loc.released).dup,
            jrn := (frm Loc.released).jrn, strValid := (frm Loc.released).strValid,
            session := (frm Loc.released).session, appSeq := (frm Loc.released).appSeq,
            stream := (frm Loc.released).stream, sesUse := (frm Loc.released).sesUse,
            mtrUse := (frm Loc.released).mtrUse, credits := (frm Loc.released).credits,
            slow := (frm Loc.released).slow, sent := (frm Loc.released).sent, fate := (frm Loc.released).fate,
            recorded := (frm Loc.released).recorded, unlocked := (frm Loc.released).unlocked,
            resync := (frm Loc.released).resync, expired := (frm Loc.released).expired,
            placed := (frm Loc.released).placed : Frame }) ∧
        ((frm Loc.released).loc = Loc.released) ∧
        ([1] ≠ [])) ∧
      (((sGot Loc.parsing).ready (cxOf 8)) ∧
        (rxOpen (sGot Loc.parsing).chip 8 = true) ∧
        (((sGot Loc.parsing).chip.port 8).rx = some (rx0 (RxKind.presented (some 5)) (List.replicate 64 1))) ∧
        ((rx0 (RxKind.presented (some 5)) (List.replicate 64 1)).kind = RxKind.presented (some (frm Loc.parsing).id)) ∧
        ((rx0 (RxKind.presented (some 5)) (List.replicate 64 1)).code = none) ∧
        ((rx0 (RxKind.presented (some 5)) (List.replicate 64 1)).ecc = none) ∧
        (kvFind (sGot Loc.parsing).chip.frames (frm Loc.parsing).id = some (frm Loc.parsing)) ∧
        ((frm Loc.parsing).ended = false) ∧
        ((frm Loc.parsing).host = none) ∧
        (List.replicate 65 1 =
          (rx0 (RxKind.presented (some 5)) (List.replicate 64 1)).bytes ++
            rxNext (sGot Loc.parsing).chip 8 (rx0 (RxKind.presented (some 5)) (List.replicate 64 1)).bytes.length
              [1]) ∧
        ((List.replicate 65 1).length ≤
          maxLen
            (have __src := (sGot Loc.parsing).chip;
            { part := __src.part, maxPay := __src.maxPay, maxRead := __src.maxRead, off := __src.off,
              regs := (rx0 (RxKind.presented (some 5)) (List.replicate 64 1)).cfg, mem := __src.mem,
              latent := __src.latent, twBuf := __src.twBuf, twRun := __src.twRun, initBusy := __src.initBusy,
              commits := __src.commits, resetting := __src.resetting, committed := __src.committed,
              readPcie := __src.readPcie, readMgmt := __src.readMgmt, logs := __src.logs, time := __src.time,
              frames := __src.frames, nextFrame := __src.nextFrame, ses := __src.ses, recov := __src.recov,
              mtrEpoch := __src.mtrEpoch, mtrMod := __src.mtrMod, dirty := __src.dirty, jrn := __src.jrn,
              keys := __src.keys, keyLoad := __src.keyLoad, funcOn := __src.funcOn, funcStop := __src.funcStop,
              rings := __src.rings, push := __src.push, acks := __src.acks, fetchAt := __src.fetchAt,
              hostQ := __src.hostQ, coreQ := __src.coreQ, hlt := __src.hlt, nextOrder := __src.nextOrder,
              swaps := __src.swaps, slowCnt := __src.slowCnt, recCnt := __src.recCnt, disp := __src.disp,
              relSlot := __src.relSlot, bus := __src.bus, passed := __src.passed, ranks := __src.ranks,
              ports := __src.ports, laneCnt := __src.laneCnt, notices := __src.notices, sched := __src.sched,
              drops := __src.drops, doors := __src.doors, owed := __src.owed, tel := __src.tel, icu := __src.icu,
              standby := __src.standby, chk := __src.chk, pair := __src.pair, therm := __src.therm,
              sweep := __src.sweep, out := __src.out : Chip })
            8) ∧
        ([1] = List.drop (frm Loc.parsing).bytes.length (List.replicate 65 1)) ∧
        ((let __src := frm Loc.parsing;
          { id := __src.id, port := __src.port, pg := __src.pg, host := __src.host, sequ := __src.sequ,
            rank := __src.rank, since := __src.since, bytes := List.replicate 65 1, ended := __src.ended,
            fcsBad := __src.fcsBad, stomp := __src.stomp, trunc := __src.trunc, cut := __src.cut, ecc := __src.ecc,
            stamp := __src.stamp, cfg := __src.cfg, loc := __src.loc, grec := __src.grec, gen := __src.gen,
            counted := __src.counted, order := __src.order, enq := __src.enq, engine := __src.engine,
            waited := __src.waited, rqWait := __src.rqWait, w := __src.w, walk := __src.walk, two := __src.two,
            metaB := __src.metaB, glzState := __src.glzState, tag2 := __src.tag2, sliceKey := __src.sliceKey,
            bsqKey := __src.bsqKey, bsqHit := __src.bsqHit, cls := __src.cls, queue := __src.queue,
            mcast := __src.mcast, colour := __src.colour, meter := __src.meter, sesProf := __src.sesProf,
            capture := __src.capture, sesValid := __src.sesValid, untrack := __src.untrack, gap := __src.gap,
            dup := __src.dup, jrn := __src.jrn, strValid := __src.strValid, session := __src.session,
            appSeq := __src.appSeq, stream := __src.stream, sesUse := __src.sesUse, mtrUse := __src.mtrUse,
            credits := __src.credits, slow := __src.slow, sent := __src.sent, fate := __src.fate,
            recorded := __src.recorded, unlocked := __src.unlocked, resync := __src.resync,
            expired := __src.expired, placed := __src.placed : Frame }) =
          { id := (frm Loc.parsing).id, port := (frm Loc.parsing).port, pg := (frm Loc.parsing).pg,
            host := (frm Loc.parsing).host, sequ := (frm Loc.parsing).sequ, rank := (frm Loc.parsing).rank,
            since := (frm Loc.parsing).since, bytes := (frm Loc.parsing).bytes ++ [1],
            ended := (frm Loc.parsing).ended, fcsBad := (frm Loc.parsing).fcsBad, stomp := (frm Loc.parsing).stomp,
            trunc := (frm Loc.parsing).trunc, cut := (frm Loc.parsing).cut,
            ecc :=
              (frm Loc.parsing).ecc || decide ((rx0 (RxKind.presented (some 5)) (List.replicate 64 1)).corr > 0),
            stamp := (frm Loc.parsing).stamp, cfg := (frm Loc.parsing).cfg, loc := (frm Loc.parsing).loc,
            grec := (frm Loc.parsing).grec, gen := (frm Loc.parsing).gen, counted := (frm Loc.parsing).counted,
            order := (frm Loc.parsing).order, enq := (frm Loc.parsing).enq, engine := (frm Loc.parsing).engine,
            waited := (frm Loc.parsing).waited, rqWait := (frm Loc.parsing).rqWait, w := (frm Loc.parsing).w,
            walk := (frm Loc.parsing).walk, two := (frm Loc.parsing).two, metaB := (frm Loc.parsing).metaB,
            glzState := (frm Loc.parsing).glzState, tag2 := (frm Loc.parsing).tag2,
            sliceKey := (frm Loc.parsing).sliceKey, bsqKey := (frm Loc.parsing).bsqKey,
            bsqHit := (frm Loc.parsing).bsqHit, cls := (frm Loc.parsing).cls, queue := (frm Loc.parsing).queue,
            mcast := (frm Loc.parsing).mcast, colour := (frm Loc.parsing).colour, meter := (frm Loc.parsing).meter,
            sesProf := (frm Loc.parsing).sesProf, capture := (frm Loc.parsing).capture,
            sesValid := (frm Loc.parsing).sesValid, untrack := (frm Loc.parsing).untrack,
            gap := (frm Loc.parsing).gap, dup := (frm Loc.parsing).dup, jrn := (frm Loc.parsing).jrn,
            strValid := (frm Loc.parsing).strValid, session := (frm Loc.parsing).session,
            appSeq := (frm Loc.parsing).appSeq, stream := (frm Loc.parsing).stream,
            sesUse := (frm Loc.parsing).sesUse, mtrUse := (frm Loc.parsing).mtrUse,
            credits := (frm Loc.parsing).credits, slow := (frm Loc.parsing).slow, sent := (frm Loc.parsing).sent,
            fate := (frm Loc.parsing).fate, recorded := (frm Loc.parsing).recorded,
            unlocked := (frm Loc.parsing).unlocked, resync := (frm Loc.parsing).resync,
            expired := (frm Loc.parsing).expired, placed := (frm Loc.parsing).placed : Frame }) ∧
        ((frm Loc.parsing).loc = Loc.parsing) ∧
        ((sGot Loc.parsing).chip.latent = []) ∧
        (segmentsOf
            (setFrame
              (let __src := frm Loc.parsing;
              { id := __src.id, port := __src.port, pg := __src.pg, host := __src.host, sequ := __src.sequ,
                rank := __src.rank, since := __src.since, bytes := List.replicate 65 1, ended := __src.ended,
                fcsBad := __src.fcsBad, stomp := __src.stomp, trunc := __src.trunc, cut := __src.cut,
                ecc := __src.ecc, stamp := __src.stamp, cfg := __src.cfg, loc := __src.loc, grec := __src.grec,
                gen := __src.gen, counted := __src.counted, order := __src.order, enq := __src.enq,
                engine := __src.engine, waited := __src.waited, rqWait := __src.rqWait, w := __src.w,
                walk := __src.walk, two := __src.two, metaB := __src.metaB, glzState := __src.glzState,
                tag2 := __src.tag2, sliceKey := __src.sliceKey, bsqKey := __src.bsqKey, bsqHit := __src.bsqHit,
                cls := __src.cls, queue := __src.queue, mcast := __src.mcast, colour := __src.colour,
                meter := __src.meter, sesProf := __src.sesProf, capture := __src.capture,
                sesValid := __src.sesValid, untrack := __src.untrack, gap := __src.gap, dup := __src.dup,
                jrn := __src.jrn, strValid := __src.strValid, session := __src.session, appSeq := __src.appSeq,
                stream := __src.stream, sesUse := __src.sesUse, mtrUse := __src.mtrUse, credits := __src.credits,
                slow := __src.slow, sent := __src.sent, fate := __src.fate, recorded := __src.recorded,
                unlocked := __src.unlocked, resync := __src.resync, expired := __src.expired,
                placed := __src.placed : Frame })
              (sGot Loc.parsing).chip)
            (frm Loc.parsing).pg ≤
          1024)) := by
  refine ⟨?_, ?_, ?_, ?_⟩
  all_goals
    try simp only [State.ready]
    decide +kernel

theorem witness_FramesReenterAndAreReleased :
      (((sFrm (frm Loc.recirc)).ready (cxOfPg 1)) ∧
        (recircQueue (sFrm (frm Loc.recirc)).chip ↑1 = [frm Loc.recirc]) ∧
        (queueLen (sFrm (frm Loc.recirc)).chip ↑1 < 8) ∧
        (busFree (sFrm (frm Loc.recirc)).chip ↑1 = true)) ∧
      ((sCrowd.ready (cxOfPg 1)) ∧
        (recircQueue sCrowd.chip ↑1 = [frm Loc.recirc]) ∧
        (8 ≤ queueLen sCrowd.chip ↑1 ∨ busFree sCrowd.chip ↑1 = false)) ∧
      ((sBusFull.ready (cxOfPg 1)) ∧
        (recircQueue sBusFull.chip ↑1 = [frm Loc.recirc]) ∧
        (8 ≤ queueLen sBusFull.chip ↑1 ∨ busFree sBusFull.chip ↑1 = false)) ∧
      (((sFrm (frm Loc.ready)).ready (cxOfPg 1)) ∧
        ((sFrm (frm Loc.ready)).chip.frames = [((frm Loc.ready).id, frm Loc.ready)]) ∧
        ((frm Loc.ready).pg = ↑1) ∧
        ((frm Loc.ready).placed = true) ∧
        ((frm Loc.ready).sequ < 9) ∧
        ((frm Loc.ready).ended = false) ∧
        ((frm Loc.ready).slow = none) ∧
        ((frm Loc.ready).loc = Loc.ready) ∧
        (kvGet 0 (sFrm (frm Loc.ready)).chip.relSlot ↑1 < 4 * ((sFrm (frm Loc.ready)).clk.abs + 1))) ∧
      (((sFrm (frm Loc.recirc)).ready (cxOfPg 1)) ∧
        ((sFrm (frm Loc.recirc)).chip.frames = [((frm Loc.recirc).id, frm Loc.recirc)]) ∧
        ((frm Loc.recirc).pg = ↑1) ∧
        ((frm Loc.recirc).placed = true) ∧
        ((frm Loc.recirc).sequ < 9) ∧
        ((frm Loc.recirc).ended = false) ∧
        ((frm Loc.recirc).slow = none) ∧
        ((frm Loc.recirc).loc ≠ Loc.ready) ∧
        ((frm Loc.recirc).loc ≠ Loc.gone) ∧
        ((frm Loc.recirc).since + robTimeout (sFrm (frm Loc.recirc)).chip (frm Loc.recirc) ≤
          (sFrm (frm Loc.recirc)).clk.abs)) := by
  refine ⟨?_, ?_, ?_, ?_, ?_⟩
  all_goals
    try simp only [State.ready]
    decide +kernel

theorem witness_KeyedOperationsAct :
      ((((sSes sesFull).chip.sesOf 1).kop = none) ∧
        ((sSes sesFull).chip.latent = []) ∧
        ((sSes sesFull).writable (sesPage 1)) ∧
        (engineHeld (sSes sesFull).chip 1 = false) ∧
        (findKey (sSes sesFull).chip 1 (kopOperands (sSes sesFull).chip 1 1 true).key
            (kopOperands (sSes sesFull).chip 1 1 true).profile =
          some ((candidates sesKey0 0).headD 0))) ∧
      ((((sSes id).chip.sesOf 1).kop = none) ∧
        ((sSes id).chip.latent = []) ∧
        ((sSes id).writable (sesPage 1)) ∧
        (engineHeld (sSes id).chip 1 = false) ∧
        (findKey (sSes id).chip 1 (kopOperands (sSes id).chip 1 1 true).key
            (kopOperands (sSes id).chip 1 1 true).profile =
          none) ∧
        (List.find? (sesFree (sSes id).chip 1)
            (candidates (kopOperands (sSes id).chip 1 1 true).key (kopOperands (sSes id).chip 1 1 true).profile) =
          some ((candidates sesKey0 0).headD 0))) ∧
      ((((sSes id).chip.sesOf 1).kop = none) ∧
        ((sSes id).chip.latent = []) ∧
        ((sSes id).writable (sesPage 1)) ∧
        (engineHeld (sSes id).chip 1 = false) ∧
        (findKey (sSes id).chip 1 (kopOperands (sSes id).chip 1 1 true).key
            (kopOperands (sSes id).chip 1 1 true).profile =
          none) ∧
        ((placeFor (sSes id).clk 1 (kopOperands (sSes id).chip 1 1 true) (sSes id).chip.clear).snd =
          some ((candidates sesKey0 0).headD 0))) ∧
      ((((sSes sesPinned).chip.sesOf 1).kop = none) ∧
        ((sSes sesPinned).chip.latent = []) ∧
        ((sSes sesPinned).writable (sesPage 1)) ∧
        (engineHeld (sSes sesPinned).chip 1 = false) ∧
        (findKey (sSes sesPinned).chip 1 (kopOperands (sSes sesPinned).chip 1 1 true).key
            (kopOperands (sSes sesPinned).chip 1 1 true).profile =
          none) ∧
        ((placeFor (sSes sesPinned).clk 1 (kopOperands (sSes sesPinned).chip 1 1 true)
              (sSes sesPinned).chip.clear).snd =
          none)) ∧
      ((((sSes id).chip.sesOf 1).kop = none) ∧
        ((sSes id).chip.latent = []) ∧
        ((sSes id).writable (sesPage 1)) ∧
        (engineHeld (sSes id).chip 1 = false) ∧
        (Instr.kopUpdate 1 = Instr.kopDelete 1 ∧ 4 = 2 ∨ Instr.kopUpdate 1 = Instr.kopUpdate 1 ∧ 4 = 4) ∧
        (findKey (sSes id).chip 1 (kopOperands (sSes id).chip 1 4 false).key
            (kopOperands (sSes id).chip 1 4 false).profile =
          none)) ∧
      ((((sSes sesFull).chip.sesOf 1).kop = none) ∧
        ((sSes sesFull).chip.latent = []) ∧
        ((sSes sesFull).writable (sesPage 1)) ∧
        (engineHeld (sSes sesFull).chip 1 = false) ∧
        (findKey (sSes sesFull).chip 1 (kopOperands (sSes sesFull).chip 1 2 false).key
            (kopOperands (sSes sesFull).chip 1 2 false).profile =
          some ((candidates sesKey0 0).headD 0))) ∧
      ((((sSes sesFull).chip.sesOf 1).kop = none) ∧
        ((sSes sesFull).chip.latent = []) ∧
        ((sSes sesFull).writable (sesPage 1)) ∧
        (engineHeld (sSes sesFull).chip 1 = false)) ∧
      ((((sSes id).chip.sesOf 1).kop = none) ∧
        ((sSes id).chip.latent = []) ∧
        ((sSes id).writable (sesPage 1)) ∧
        (engineHeld (sSes id).chip 1 = false)) ∧
      ((((sSes sesFull).chip.sesOf 1).kop = none) ∧
        ((sSes sesFull).chip.latent = []) ∧
        ((sSes sesFull).writable (sesPage 1)) ∧
        (engineHeld (sSes sesFull).chip 1 = false) ∧
        (findKey (sSes sesFull).chip 1 (kopOperands (sSes sesFull).chip 1 4 false).key
            (kopOperands (sSes sesFull).chip 1 4 false).profile =
          some ((candidates sesKey0 0).headD 0)) ∧
        (Memory.wf (sSes sesFull).chip.mem = true)) ∧
      ((((sSes id).chip.sesOf 1).kop = none) ∧
        ((sSes id).chip.latent = []) ∧
        ((sSes id).writable (sesPage 1)) ∧
        (¬↑5 ∈ [1, 2, 3, 4])) := by
  refine ⟨?_, ?_, ?_, ?_, ?_, ?_, ?_, ?_, ?_, ?_⟩
  all_goals
    try simp only [State.writable]
    decide +kernel

theorem witness_SessionUnitFinishesItsWork :
      (((sKop { op := none, status := 15, row := some 131071 : KopRun }).ready 1) ∧
        (15 < 16) ∧
        (∀ (r : Nat), some 131071 = some r → r < 2 ^ 17) ∧
        (((sKop { op := none, status := 15, row := some 131071 : KopRun }).chip.sesOf 1).kop =
          some { op := none, status := 15, row := some 131071 : KopRun })) ∧
      (((sKop { op := none : KopRun }).ready 1) ∧
        (0 < 16) ∧
        (∀ (r : Nat), none = some r → r < 2 ^ 17) ∧
        (((sKop { op := none : KopRun }).chip.sesOf 1).kop = some { op := none : KopRun })) ∧
      (((sLearn true).ready 1) ∧
        (((sLearn true).chip.sesOf 1).learn = [(sesKey0, 0)]) ∧
        (((sLearn true).chip.sesOf 1).kop = none) ∧
        (engineHeld (sLearn true).chip 1 = false) ∧
        ((sLearn true).chip.latent = []) ∧
        (findKey (sLearn true).chip 1 sesKey0 0 = some ((candidates sesKey0 0).headD 0))) ∧
      (((sLearn false).ready 1) ∧
        (((sLearn false).chip.sesOf 1).learn = [(sesKey0, 0)]) ∧
        (((sLearn false).chip.sesOf 1).kop = none) ∧
        (engineHeld (sLearn false).chip 1 = false) ∧
        ((sLearn false).chip.latent = []) ∧
        (findKey (sLearn false).chip 1 sesKey0 0 = none) ∧
        (List.find? (sesFree (sLearn false).chip 1) (candidates sesKey0 0) = some ((candidates sesKey0 0).headD 0))) ∧
      ((sBatch.ready 1) ∧
        (↑3 ≠ 0) ∧
        (batchLive sBatch.chip 1 ↑3 = true) ∧
        (sBatch.chip.latent = [])) ∧
      ((sStream.powered) ∧
        (sStream.chip.latent = []) ∧
        (streamMode sStream.chip ↑16383 = 3) ∧
        (sStream.chip.rowNat Page.cap 0 (↑16383) 12 2 ≠ 0) ∧
        (↑(sStream.chip.rowNat Page.cap 0 (↑16383) 12 2 * 1000000 * 65536) ≤
          stampDiff sStream.clk.stamp (kvGet { : RecovSt } sStream.chip.recov ↑16383).last)) := by
  refine ⟨?_, ?_, ?_, ?_, ?_, ?_⟩
  all_goals
    try simp only [State.ready, State.powered]
    decide +kernel

theorem witness_LookupsAndMeterModify :
      (((sFrm frm8).ready 0) ∧
        (kvFind (sFrm frm8).chip.frames frm8.id = some frm8) ∧
        (frm8.loc = Loc.stage8) ∧
        (frm8.cxOf = 0) ∧
        (frm8.sesProf = none) ∧
        (frm8.meter = none) ∧
        (frm8.expired = false)) ∧
      (((sFrm frmOff).ready 0) ∧
        (kvFind (sFrm frmOff).chip.frames frmOff.id = some frmOff) ∧
        (frmOff.loc = Loc.stage8) ∧
        (frmOff.cxOf = 0) ∧
        (sesWant (sFrm frmOff).chip frmOff = SesWant.bypass)) ∧
      (((sFrm frmSes).ready 0) ∧
        (kvFind (sFrm frmSes).chip.frames frmSes.id = some frmSes) ∧
        (frmSes.loc = Loc.stage8) ∧
        (frmSes.cxOf = 0) ∧
        (sesWant (sFrm frmSes).chip frmSes = SesWant.lookup 0 false (some 1)) ∧
        (((sFrm frmSes).chip.sesOf 0).clock ≠ (sFrm frmSes).clk.abs) ∧
        ((sFrm frmSes).chip.latent = [])) ∧
      (((sFrm (frm9 false)).ready 0) ∧
        ((sFrm (frm9 false)).pending = []) ∧
        ((sFrm (frm9 false)).clk.clock < 1599) ∧
        ((sFrm (frm9 false)).chip.swaps = []) ∧
        ((sFrm (frm9 false)).chip.drops = []) ∧
        ((sFrm (frm9 false)).chip.bus = []) ∧
        ((sFrm (frm9 false)).chip.chk = []) ∧
        (∀ (y : Cx),
          ((sFrm (frm9 false)).chip.jrnOf y).pend = [] ∧ (y ≠ 0 → atStage9 (sFrm (frm9 false)).chip y = [])) ∧
        ((frm9 false).loc = Loc.stage9 false) ∧
        (atStage9 (sFrm (frm9 false)).chip 0 = [frm9 false])) ∧
      (((sFrm (frm9 true)).ready 0) ∧
        ((sFrm (frm9 true)).pending = []) ∧
        ((sFrm (frm9 true)).clk.clock < 1599) ∧
        ((sFrm (frm9 true)).chip.swaps = []) ∧
        ((sFrm (frm9 true)).chip.drops = []) ∧
        ((sFrm (frm9 true)).chip.bus = []) ∧
        ((sFrm (frm9 true)).chip.chk = []) ∧
        (∀ (y : Cx), ((sFrm (frm9 true)).chip.jrnOf y).pend = [] ∧ (y ≠ 0 → atStage9 (sFrm (frm9 true)).chip y = [])) ∧
        ((frm9 true).loc = Loc.stage9 true) ∧
        (atStage9 (sFrm (frm9 true)).chip 0 = [frm9 true])) ∧
      (((sMtr 0).writable (mtrPage 1)) ∧
        (kvFind (sMtr 0).chip.mtrMod ↑1 = none) ∧
        ((sMtr 0).chip.latent = []) ∧
        (meterValid (sMtr 0).chip 1 ((sMtr 0).chip.fld (mtrPage 1) 64 15 0) = false)) ∧
      (((sMtr 1).writable (mtrPage 1)) ∧
        (kvFind (sMtr 1).chip.mtrMod ↑1 = none) ∧
        ((sMtr 1).chip.latent = []) ∧
        (meterValid (sMtr 1).chip 1 ((sMtr 1).chip.fld (mtrPage 1) 64 15 0) = true)) ∧
      ((sMod.ready 1) ∧
        (kvFind sMod.chip.mtrMod ↑1 = some { status := 15, again := false : ModRun }) ∧
        (15 < 16)) := by
  refine ⟨?_, ?_, ?_, ?_, ?_, ?_, ?_, ?_⟩
  all_goals
    try simp only [State.writable, State.ready]
    decide +kernel

theorem witness_NoticesQueueAndDecisionsRequest :
      ((sBase.ready 1) ∧
        (131071 = 65536 * ↑1 + ↑65535) ∧
        (0 = (List.map (fun x => x.len) (noticesOf sBase.chip 131071)).sum) ∧
        (sBase.chip.latent = []) ∧
        (qValid sBase.chip 131071 = false)) ∧
      ((sQue.ready 0) ∧
        (5 = 65536 * ↑0 + ↑5) ∧
        (300 = (List.map (fun x => x.len) (noticesOf sQue.chip 5)).sum) ∧
        (sQue.chip.latent = []) ∧
        (qValid sQue.chip 5 = true)) ∧
      ((sQue.ready 0) ∧
        (5 = 65536 * ↑0 + ↑5) ∧
        (300 = (List.map (fun x => x.len) (noticesOf sQue.chip 5)).sum) ∧
        (sQue.chip.latent = []) ∧
        (qValid sQue.chip 5 = true)) ∧
      ((sMark.ready (cxOf 8)) ∧
        (sMark.chip.modeAt 8 ≠ 0) ∧
        (sMark.chip.isUp 8 = true) ∧
        (reqRoom sMark.clk sMark.chip 8 = true) ∧
        (owedQueue sMark.chip 8 = none) ∧
        (portHeld sMark.chip 8 = false) ∧
        (lateMember sMark.clk sMark.chip 8 = none) ∧
        (portMay sMark.clk sMark.chip 8 = true) ∧
        (sMark.chip.latent = []) ∧
        (markedQueue sMark.chip 8 = some 5) ∧
        (qPort sMark.chip 5 = 8)) ∧
      ((sHostQ.ready (cxOf 8)) ∧
        (sHostQ.chip.modeAt 8 ≠ 0) ∧
        (sHostQ.chip.isUp 8 = true) ∧
        (reqRoom sHostQ.clk sHostQ.chip 8 = true) ∧
        (owedQueue sHostQ.chip 8 = none) ∧
        (portHeld sHostQ.chip 8 = false) ∧
        (lateMember sHostQ.clk sHostQ.chip 8 = none) ∧
        (portMay sHostQ.clk sHostQ.chip 8 = true) ∧
        (sHostQ.chip.latent = []) ∧
        (markedQueue sHostQ.chip 8 = none) ∧
        (hostHead sHostQ.clk sHostQ.chip 8 = some (hst, []))) ∧
      ((sQue.ready (cxOf 8)) ∧
        (sQue.chip.modeAt 8 ≠ 0) ∧
        (sQue.chip.isUp 8 = true) ∧
        (reqRoom sQue.clk sQue.chip 8 = true) ∧
        (owedQueue sQue.chip 8 = none) ∧
        (portHeld sQue.chip 8 = false) ∧
        (lateMember sQue.clk sQue.chip 8 = none) ∧
        (portMay sQue.clk sQue.chip 8 = true) ∧
        (sQue.chip.latent = []) ∧
        (markedQueue sQue.chip 8 = none) ∧
        (hostHead sQue.clk sQue.chip 8 = none) ∧
        (portPick sQue.clk sQue.chip.clear 8 = some (5, sQue2)) ∧
        (qPort sQue2 5 = 8) ∧
        (0 = qCls sQue2 5) ∧
        (noticesOf sQue2 5 = [copy0])) := by
  refine ⟨?_, ?_, ?_, ?_, ?_, ?_⟩
  all_goals
    try simp only [State.ready]
    decide +kernel

theorem witness_ResponsesAndEgressEdit :
      ((sReq.ready 0) ∧
        (findTag sReq.chip 0 ↑3 = some (8, reqF)) ∧
        (List.find? (TxFrame.isTag ↑3) (sReq.chip.port 8).tx = some reqF) ∧
        (reqF.dead = false)) ∧
      (((sPortWith 1 4
              {
                tx :=
                  [let __src := reqF;
                    { kind := __src.kind, tag := __src.tag, cls := __src.cls, len := __src.len,
                      reqAt := __src.reqAt, cfg := __src.cfg, cur := __src.cur, group := __src.group,
                      late := __src.late, arrived := __src.arrived, word := __src.word, bytes := __src.bytes,
                      whole := __src.whole, ptp := __src.ptp, goal := __src.goal, edited := __src.edited,
                      launch := __src.launch, stamp := __src.stamp, unlocked := __src.unlocked,
                      recDone := __src.recDone, seq := __src.seq, cap := __src.cap, dead := true, ecc := __src.ecc :
                      TxFrame }] :
                PortSt }).ready
          0) ∧
        (findTag
            (sPortWith 1 4
                {
                  tx :=
                    [let __src := reqF;
                      { kind := __src.kind, tag := __src.tag, cls := __src.cls, len := __src.len,
                        reqAt := __src.reqAt, cfg := __src.cfg, cur := __src.cur, group := __src.group,
                        late := __src.late, arrived := __src.arrived, word := __src.word, bytes := __src.bytes,
                        whole := __src.whole, ptp := __src.ptp, goal := __src.goal, edited := __src.edited,
                        launch := __src.launch, stamp := __src.stamp, unlocked := __src.unlocked,
                        recDone := __src.recDone, seq := __src.seq, cap := __src.cap, dead := true,
                        ecc := __src.ecc : TxFrame }] :
                  PortSt }).chip
            0 ↑3 =
          some
            (8,
              let __src := reqF;
              { kind := __src.kind, tag := __src.tag, cls := __src.cls, len := __src.len, reqAt := __src.reqAt,
                cfg := __src.cfg, cur := __src.cur, group := __src.group, late := __src.late,
                arrived := __src.arrived, word := __src.word, bytes := __src.bytes, whole := __src.whole,
                ptp := __src.ptp, goal := __src.goal, edited := __src.edited, launch := __src.launch,
                stamp := __src.stamp, unlocked := __src.unlocked, recDone := __src.recDone, seq := __src.seq,
                cap := __src.cap, dead := true, ecc := __src.ecc : TxFrame })) ∧
        (List.find? (TxFrame.isTag ↑3)
            ((sPortWith 1 4
                      {
                        tx :=
                          [let __src := reqF;
                            { kind := __src.kind, tag := __src.tag, cls := __src.cls, len := __src.len,
                              reqAt := __src.reqAt, cfg := __src.cfg, cur := __src.cur, group := __src.group,
                              late := __src.late, arrived := __src.arrived, word := __src.word,
                              bytes := __src.bytes, whole := __src.whole, ptp := __src.ptp, goal := __src.goal,
                              edited := __src.edited, launch := __src.launch, stamp := __src.stamp,
                              unlocked := __src.unlocked, recDone := __src.recDone, seq := __src.seq,
                              cap := __src.cap, dead := true, ecc := __src.ecc : TxFrame }] :
                        PortSt }).chip.port
                8).tx =
          some
            (let __src := reqF;
            { kind := __src.kind, tag := __src.tag, cls := __src.cls, len := __src.len, reqAt := __src.reqAt,
              cfg := __src.cfg, cur := __src.cur, group := __src.group, late := __src.late,
              arrived := __src.arrived, word := __src.word, bytes := __src.bytes, whole := __src.whole,
              ptp := __src.ptp, goal := __src.goal, edited := __src.edited, launch := __src.launch,
              stamp := __src.stamp, unlocked := __src.unlocked, recDone := __src.recDone, seq := __src.seq,
              cap := __src.cap, dead := true, ecc := __src.ecc : TxFrame })) ∧
        ((let __src := reqF;
            { kind := __src.kind, tag := __src.tag, cls := __src.cls, len := __src.len, reqAt := __src.reqAt,
              cfg := __src.cfg, cur := __src.cur, group := __src.group, late := __src.late,
              arrived := __src.arrived, word := __src.word, bytes := __src.bytes, whole := __src.whole,
              ptp := __src.ptp, goal := __src.goal, edited := __src.edited, launch := __src.launch,
              stamp := __src.stamp, unlocked := __src.unlocked, recDone := __src.recDone, seq := __src.seq,
              cap := __src.cap, dead := true, ecc := __src.ecc : TxFrame }).dead =
          true)) ∧
      ((sReq.ready 0) ∧
        (findTag sReq.chip 0 ↑3 = some (8, reqF)) ∧
        (List.find? (TxFrame.isTag ↑3) (sReq.chip.port 8).tx = some reqF)) ∧
      ((sEdit.ready 0) ∧
        (tagFrame sEdit.chip 0 ↑3 = some 8) ∧
        (List.find? (TxFrame.isOpen ↑3) (sEdit.chip.port 8).tx = some txe) ∧
        (txe.edited = false)) ∧
      ((sMore.ready 0) ∧
        (tagFrame sMore.chip 0 ↑3 = some 8) ∧
        (List.find? (TxFrame.isOpen ↑3) (sMore.chip.port 8).tx = some txm) ∧
        (txm.edited = true)) ∧
      ((sMorePtp.ready 0) ∧
        (tagFrame sMorePtp.chip 0 ↑3 = some 8) ∧
        (List.find? (TxFrame.isOpen ↑3) (sMorePtp.chip.port 8).tx = some txp) ∧
        (txp.edited = true)) ∧
      ((sEditH.ready (cxOf 8)) ∧
        (nextEdit sEditH.chip 8 = some txh) ∧
        (editDue sEditH.clk txh (editIn.whole || hosted txh) = true) ∧
        (sEditH.chip.flag (prtPage 8) 76 6 = false) ∧
        (sEditH.chip.latent = []) ∧
        (34 =
          if (editIn.whole || hosted txh) = true then (editTagged (sEditH.chip.underTx txh) 8 txh editIn).length
          else
            txh.len +
              ((editTagged (sEditH.chip.underTx txh) 8 txh editIn).length -
                (editHeld (sEditH.chip.underTx txh) 8 txh editIn).length)) ∧
        (editRunt (sEditH.chip.underTx txh) 8 txh = true)) ∧
      ((sLong.ready (cxOf 8)) ∧
        (nextEdit sLong.chip 8 = some txLong) ∧
        (editDue sLong.clk txLong (editPart.whole || hosted txLong) = true) ∧
        (sLong.chip.flag (prtPage 8) 76 6 = false) ∧
        (sLong.chip.latent = []) ∧
        (16384 =
          if (editPart.whole || hosted txLong) = true then
            (editTagged (sLong.chip.underTx txLong) 8 txLong editPart).length
          else
            txLong.len +
              ((editTagged (sLong.chip.underTx txLong) 8 txLong editPart).length -
                (editHeld (sLong.chip.underTx txLong) 8 txLong editPart).length)) ∧
        (editRunt (sLong.chip.underTx txLong) 8 txLong = false) ∧
        (16383 < 16384)) ∧
      ((sEdit.ready (cxOf 8)) ∧
        (nextEdit sEdit.chip 8 = some txe) ∧
        (editDue sEdit.clk txe (editIn.whole || hosted txe) = true) ∧
        (sEdit.chip.flag (prtPage 8) 76 6 = false) ∧
        (sEdit.chip.latent = []) ∧
        (64 =
          if (editIn.whole || hosted txe) = true then (editTagged (sEdit.chip.underTx txe) 8 txe editIn).length
          else
            txe.len +
              ((editTagged (sEdit.chip.underTx txe) 8 txe editIn).length -
                (editHeld (sEdit.chip.underTx txe) 8 txe editIn).length)) ∧
        (editRunt (sEdit.chip.underTx txe) 8 txe = false) ∧
        (64 ≤ 16383) ∧
        (place (sEdit.chip.underTx txe) (sEdit.chip.port 8) 8 (txReady sEdit.clk (sEdit.chip.underTx txe) 8 txe.cur)
            64 0 =
          place (sEdit.chip.underTx txe) (sEdit.chip.port 8) 8
            (txReady sEdit.clk (sEdit.chip.underTx txe) 8 txe.cur) 64 (txe.goal.getD 0)) ∧
        (List.replicate 64 7 =
          if
              (ptpEvent txe (editTagged (sEdit.chip.underTx txe) 8 txe editIn) &&
                  ptpReady
                    (ptpArgs (sEdit.chip.underTx txe) sEdit.clk 8 txe
                        (bitStamp sEdit.clk sEdit.chip.time (sEdit.chip.underTx txe) 8
                          (place (sEdit.chip.underTx txe) (sEdit.chip.port 8) 8
                              (txReady sEdit.clk (sEdit.chip.underTx txe) 8 txe.cur) 64 0).bit)).ctl
                    (editIn.whole || hosted txe) (editTagged (sEdit.chip.underTx txe) 8 txe editIn)) =
                true then
            (ptpEdit
                (ptpArgs (sEdit.chip.underTx txe) sEdit.clk 8 txe
                  (bitStamp sEdit.clk sEdit.chip.time (sEdit.chip.underTx txe) 8
                    (place (sEdit.chip.underTx txe) (sEdit.chip.port 8) 8
                        (txReady sEdit.clk (sEdit.chip.underTx txe) 8 txe.cur) 64 0).bit))
                (editTagged (sEdit.chip.underTx txe) 8 txe editIn)).fst
          else editTagged (sEdit.chip.underTx txe) 8 txe editIn)) ∧
      ((sEditPtp.ready (cxOf 8)) ∧
        (nextEdit sEditPtp.chip 8 = some txq) ∧
        (editDue sEditPtp.clk txq (ptpIn.whole || hosted txq) = true) ∧
        (sEditPtp.chip.flag (prtPage 8) 76 6 = false) ∧
        (sEditPtp.chip.latent = []) ∧
        (60 =
          if (ptpIn.whole || hosted txq) = true then (editTagged (sEditPtp.chip.underTx txq) 8 txq ptpIn).length
          else
            txq.len +
              ((editTagged (sEditPtp.chip.underTx txq) 8 txq ptpIn).length -
                (editHeld (sEditPtp.chip.underTx txq) 8 txq ptpIn).length)) ∧
        (editRunt (sEditPtp.chip.underTx txq) 8 txq = false) ∧
        (60 ≤ 16383) ∧
        (place (sEditPtp.chip.underTx txq) (sEditPtp.chip.port 8) 8
            (txReady sEditPtp.clk (sEditPtp.chip.underTx txq) 8 txq.cur) 60 0 =
          place (sEditPtp.chip.underTx txq) (sEditPtp.chip.port 8) 8
            (txReady sEditPtp.clk (sEditPtp.chip.underTx txq) 8 txq.cur) 60 (txq.goal.getD 0)) ∧
        ((ptpEdit
              (ptpArgs (sEditPtp.chip.underTx txq) sEditPtp.clk 8 txq
                (bitStamp sEditPtp.clk sEditPtp.chip.time (sEditPtp.chip.underTx txq) 8
                  (place (sEditPtp.chip.underTx txq) (sEditPtp.chip.port 8) 8
                      (txReady sEditPtp.clk (sEditPtp.chip.underTx txq) 8 txq.cur) 60 0).bit))
              (editTagged (sEditPtp.chip.underTx txq) 8 txq ptpIn)).fst =
          if
              (ptpEvent txq (editTagged (sEditPtp.chip.underTx txq) 8 txq ptpIn) &&
                  ptpReady
                    (ptpArgs (sEditPtp.chip.underTx txq) sEditPtp.clk 8 txq
                        (bitStamp sEditPtp.clk sEditPtp.chip.time (sEditPtp.chip.underTx txq) 8
                          (place (sEditPtp.chip.underTx txq) (sEditPtp.chip.port 8) 8
                              (txReady sEditPtp.clk (sEditPtp.chip.underTx txq) 8 txq.cur) 60 0).bit)).ctl
                    (ptpIn.whole || hosted txq) (editTagged (sEditPtp.chip.underTx txq) 8 txq ptpIn)) =
                true then
            (ptpEdit
                (ptpArgs (sEditPtp.chip.underTx txq) sEditPtp.clk 8 txq
                  (bitStamp sEditPtp.clk sEditPtp.chip.time (sEditPtp.chip.underTx txq) 8
                    (place (sEditPtp.chip.underTx txq) (sEditPtp.chip.port 8) 8
                        (txReady sEditPtp.clk (sEditPtp.chip.underTx txq) 8 txq.cur) 60 0).bit))
                (editTagged (sEditPtp.chip.underTx txq) 8 txq ptpIn)).fst
          else editTagged (sEditPtp.chip.underTx txq) 8 txq ptpIn)) := by
  refine ⟨?_, ?_, ?_, ?_, ?_, ?_, ?_, ?_, ?_, ?_⟩
  all_goals
    try simp only [State.ready]
    decide +kernel

theorem witness_WheelAndTelemetryRun :
      (((sWheel 6404).ready 0) ∧
        (((sWheel 6404).chip.schedOf 0).fine = [(6404, 5)]) ∧
        (((sWheel 6404).chip.schedOf 0).fired.fst ≠ (sWheel 6404).clk.abs) ∧
        (16 * 6404 ≤ (sWheel 6404).clk.abs) ∧
        (refillNode (sWheel 6404).chip 5 (64 * 1600 + 64)
            (let __src := getNode (sWheel 6404).chip 5;
            { tc := __src.tc, tp := __src.tp, last := __src.last, e := __src.e, deficit := __src.deficit,
              onWheel := false, clamped := false : Node }) =
          refillNode (sWheel 6404).chip 5 (sWheel 6404).clk.abs
            (have __src := getNode (sWheel 6404).chip 5;
            { tc := __src.tc, tp := __src.tp, last := __src.last, e := __src.e, deficit := __src.deficit,
              onWheel := false, clamped := false : Node })) ∧
        (eligibleAt (nodeCfg (sWheel 6404).chip 5)
            (refillNode (sWheel 6404).chip 5 (64 * 1600 + 64)
              (let __src := getNode (sWheel 6404).chip 5;
              { tc := __src.tc, tp := __src.tp, last := __src.last, e := __src.e, deficit := __src.deficit,
                onWheel := false, clamped := false : Node }))
            (sWheel 6404).clk.abs ≤
          (sWheel 6404).clk.abs) ∧
        ((sWheel 6404).clk.abs ≤ 16 * 6404 + 15)) ∧
      (((sWheel 6403).ready 0) ∧
        (((sWheel 6403).chip.schedOf 0).fine = [(6403, 5)]) ∧
        (((sWheel 6403).chip.schedOf 0).fired.fst ≠ (sWheel 6403).clk.abs) ∧
        (16 * 6403 ≤ (sWheel 6403).clk.abs) ∧
        (refillNode (sWheel 6403).chip 5 (64 * 1600 + 64)
            (let __src := getNode (sWheel 6403).chip 5;
            { tc := __src.tc, tp := __src.tp, last := __src.last, e := __src.e, deficit := __src.deficit,
              onWheel := false, clamped := false : Node }) =
          refillNode (sWheel 6403).chip 5 (sWheel 6403).clk.abs
            (have __src := getNode (sWheel 6403).chip 5;
            { tc := __src.tc, tp := __src.tp, last := __src.last, e := __src.e, deficit := __src.deficit,
              onWheel := false, clamped := false : Node })) ∧
        (eligibleAt (nodeCfg (sWheel 6403).chip 5)
            (refillNode (sWheel 6403).chip 5 (64 * 1600 + 64)
              (let __src := getNode (sWheel 6403).chip 5;
              { tc := __src.tc, tp := __src.tp, last := __src.last, e := __src.e, deficit := __src.deficit,
                onWheel := false, clamped := false : Node }))
            (sWheel 6403).clk.abs ≤
          (sWheel 6403).clk.abs) ∧
        (16 * 6403 + 15 < (sWheel 6403).clk.abs)) ∧
      (((sCoarse 64).ready 0) ∧
        (((sCoarse 64).chip.schedOf 0).coarse = [(1, 5)]) ∧
        ((sCoarse 64).clk.clock < 1536) ∧
        (movedIn (sCoarse 64).clk (sCoarse 64).chip 0 < 2048) ∧
        (1 ≤ (sCoarse 64).clk.abs / 65536) ∧
        ((getNode (sCoarse 64).chip 5).clamped = false) ∧
        (6404 = max (((getNode (sCoarse 64).chip 5).e + 15) / 16) ((sCoarse 64).clk.abs / 16)) ∧
        (6404 - (sCoarse 64).clk.abs / 16 < 4096)) ∧
      (((sTel 1536).ready 1) ∧
        (1536 ≤ (sTel 1536).clk.clock)) ∧
      (((sTel 1535).ready 1) ∧
        (sampleOwed (sTel 1535).clk (sTel 1535).chip 1 = true) ∧
        (64 ≤ (sTel 1535).clk.clock) ∧
        ((sTel 1535).clk.clock < 1536) ∧
        (Memory.wf (sTel 1535).chip.mem = true)) := by
  refine ⟨?_, ?_, ?_, ?_, ?_⟩
  all_goals
    try simp only [State.ready]
    decide +kernel

theorem witness_DoorTimesAndReleases :
      ((Memory.wf (sGrp 0 0 999999999).chip.mem = true) ∧
        (512 = armGroup (sGrp 0 0 999999999).chip 1) ∧
        (3 * 2 ^ 48 + 999999999 * 65536 =
          (sGrp 0 0 999999999).chip.fld (dorPage 1) 80 47 0 * 2 ^ 48 +
            (sGrp 0 0 999999999).chip.fld (dorPage 1) 88 47 0) ∧
        ((sGrp 0 0 999999999).writable (dorPage 1)) ∧
        ((sGrp 0 0 999999999).chip.fld (dorPage 1) 88 47 0 / 65536 < 1000000000) ∧
        (grpState (sGrp 0 0 999999999).chip 512 = 0)) ∧
      ((Memory.wf (sGrp 2 0 5).chip.mem = true) ∧
        (512 = armGroup (sGrp 2 0 5).chip 1) ∧
        (3 * 2 ^ 48 + 5 * 65536 =
          (sGrp 2 0 5).chip.fld (dorPage 1) 80 47 0 * 2 ^ 48 + (sGrp 2 0 5).chip.fld (dorPage 1) 88 47 0) ∧
        ((sGrp 2 0 5).writable (dorPage 1)) ∧
        ((sGrp 2 0 5).chip.fld (dorPage 1) 88 47 0 / 65536 < 1000000000) ∧
        (grpState (sGrp 2 0 5).chip 512 ≠ 0) ∧
        (grpFlag (sGrp 2 0 5).chip 512 0 = false)) ∧
      ((Memory.wf (sGrp 1 1 5).chip.mem = true) ∧
        (512 = armGroup (sGrp 1 1 5).chip 1) ∧
        (3 * 2 ^ 48 + 5 * 65536 =
          (sGrp 1 1 5).chip.fld (dorPage 1) 80 47 0 * 2 ^ 48 + (sGrp 1 1 5).chip.fld (dorPage 1) 88 47 0) ∧
        ((sGrp 1 1 5).writable (dorPage 1)) ∧
        ((sGrp 1 1 5).chip.fld (dorPage 1) 88 47 0 / 65536 < 1000000000) ∧
        (grpState (sGrp 1 1 5).chip 512 ≠ 0) ∧
        (grpFlag (sGrp 1 1 5).chip 512 0 = true)) ∧
      ((Memory.wf (sGrp 0 0 1000000000).chip.mem = true) ∧
        (512 = armGroup (sGrp 0 0 1000000000).chip 1) ∧
        (3 * 2 ^ 48 + 1000000000 * 65536 =
          (sGrp 0 0 1000000000).chip.fld (dorPage 1) 80 47 0 * 2 ^ 48 +
            (sGrp 0 0 1000000000).chip.fld (dorPage 1) 88 47 0) ∧
        ((sGrp 0 0 1000000000).writable (dorPage 1)) ∧
        (1000000000 ≤ (sGrp 0 0 1000000000).chip.fld (dorPage 1) 88 47 0 / 65536)) ∧
      ((Memory.wf (sGrp 1 1 5).chip.mem = true) ∧
        (512 = armGroup (sGrp 1 1 5).chip 1) ∧
        (3 * 2 ^ 48 + 5 * 65536 =
          (sGrp 1 1 5).chip.fld (dorPage 1) 80 47 0 * 2 ^ 48 + (sGrp 1 1 5).chip.fld (dorPage 1) 88 47 0) ∧
        ((sGrp 1 1 5).writable (dorPage 1))) ∧
      ((Memory.wf (sGrp 1 1 5).chip.mem = true) ∧
        (512 = armGroup (sGrp 1 1 5).chip 1) ∧
        (3 * 2 ^ 48 + 5 * 65536 =
          (sGrp 1 1 5).chip.fld (dorPage 1) 80 47 0 * 2 ^ 48 + (sGrp 1 1 5).chip.fld (dorPage 1) 88 47 0) ∧
        ((sGrp 1 1 5).ready 1)) ∧
      ((sBase.ready 0) ∧
        (qGroup sBase.chip (65536 * ↑0 + ↑5) ≠ some ↑7)) ∧
      (((sMember 47 [(5, [copy0])]).ready 0) ∧
        ((sMember 47 [(5, [copy0])]).chip.latent = []) ∧
        (5 = 65536 * ↑0 + ↑5) ∧
        (7 = ↑7) ∧
        (qGroup (sMember 47 [(5, [copy0])]).chip 5 = some 7) ∧
        (qValid (sMember 47 [(5, [copy0])]).chip 5 = true) ∧
        (grpState (sMember 47 [(5, [copy0])]).chip 7 ≠ 0) ∧
        (((sMember 47 [(5, [copy0])]).chip.door 7).done.contains 5 = false) ∧
        (((sMember 47 [(5, [copy0])]).chip.door 7).late.contains 5 = false) ∧
        (memberDue (memberReady (sMember 47 [(5, [copy0])]).clk (sMember 47 [(5, [copy0])]).chip)
            (sMember 47 [(5, [copy0])]).clk (sMember 47 [(5, [copy0])]).chip 7 5 ≠
          Due.early) ∧
        (mMoved (sMember 47 [(5, [copy0])]) =
          shiftInstant (sMember 47 [(5, [copy0])]).clk 7 (sMember 47 [(5, [copy0])]).chip.clear) ∧
        (mFin (sMember 47 [(5, [copy0])]) =
          (wireSlot (sMember 47 [(5, [copy0])]).clk (mMoved (sMember 47 [(5, [copy0])]))
              (qPort (mMoved (sMember 47 [(5, [copy0])])) 5)
              ((noticesOf (mMoved (sMember 47 [(5, [copy0])])) 5).headD
                  { len := 0, colour := 0, marked := false : Notice }).len).snd) ∧
        (memberDue (memberReady (sMember 47 [(5, [copy0])]).clk (mMoved (sMember 47 [(5, [copy0])])))
            (sMember 47 [(5, [copy0])]).clk (mMoved (sMember 47 [(5, [copy0])])) 7 5 =
          Due.now 676766) ∧
        (memberReady (sMember 47 [(5, [copy0])]).clk (mMoved (sMember 47 [(5, [copy0])])) 5 = true) ∧
        (reqFits (sMember 47 [(5, [copy0])]).clk (mMoved (sMember 47 [(5, [copy0])]))
            (qPort (mMoved (sMember 47 [(5, [copy0])])) 5) 0 0 =
          true) ∧
        (doorBlocks (sMember 47 [(5, [copy0])]).clk (mMoved (sMember 47 [(5, [copy0])]))
            (qPort (mMoved (sMember 47 [(5, [copy0])])) 5) (some 7) (mFin (sMember 47 [(5, [copy0])])) =
          false)) ∧
      (((sMember 47 []).ready 0) ∧
        ((sMember 47 []).chip.latent = []) ∧
        (5 = 65536 * ↑0 + ↑5) ∧
        (7 = ↑7) ∧
        (qGroup (sMember 47 []).chip 5 = some 7) ∧
        (qValid (sMember 47 []).chip 5 = true) ∧
        (grpState (sMember 47 []).chip 7 ≠ 0) ∧
        (((sMember 47 []).chip.door 7).done.contains 5 = false) ∧
        (((sMember 47 []).chip.door 7).late.contains 5 = false) ∧
        (memberDue (memberReady (sMember 47 []).clk (sMember 47 []).chip) (sMember 47 []).clk (sMember 47 []).chip 7
            5 ≠
          Due.early) ∧
        (mMoved (sMember 47 []) = shiftInstant (sMember 47 []).clk 7 (sMember 47 []).chip.clear) ∧
        (mFin (sMember 47 []) =
          (wireSlot (sMember 47 []).clk (mMoved (sMember 47 [])) (qPort (mMoved (sMember 47 [])) 5)
              ((noticesOf (mMoved (sMember 47 [])) 5).headD
                  { len := 0, colour := 0, marked := false : Notice }).len).snd) ∧
        (memberDue (memberReady (sMember 47 []).clk (mMoved (sMember 47 []))) (sMember 47 []).clk
            (mMoved (sMember 47 [])) 7 5 =
          Due.now 676766) ∧
        (memberReady (sMember 47 []).clk (mMoved (sMember 47 [])) 5 = false ∨
          reqFits (sMember 47 []).clk (mMoved (sMember 47 [])) (qPort (mMoved (sMember 47 [])) 5) 0 0 = false ∨
            doorBlocks (sMember 47 []).clk (mMoved (sMember 47 [])) (qPort (mMoved (sMember 47 [])) 5) (some 7)
                (mFin (sMember 47 [])) =
              true)) ∧
      (((sMember 30 [(5, [copy0])]).ready 0) ∧
        ((sMember 30 [(5, [copy0])]).chip.latent = []) ∧
        (5 = 65536 * ↑0 + ↑5) ∧
        (7 = ↑7) ∧
        (qGroup (sMember 30 [(5, [copy0])]).chip 5 = some 7) ∧
        (qValid (sMember 30 [(5, [copy0])]).chip 5 = true) ∧
        (grpState (sMember 30 [(5, [copy0])]).chip 7 ≠ 0) ∧
        (((sMember 30 [(5, [copy0])]).chip.door 7).done.contains 5 = false) ∧
        (((sMember 30 [(5, [copy0])]).chip.door 7).late.contains 5 = false) ∧
        (memberDue (memberReady (sMember 30 [(5, [copy0])]).clk (sMember 30 [(5, [copy0])]).chip)
            (sMember 30 [(5, [copy0])]).clk (sMember 30 [(5, [copy0])]).chip 7 5 ≠
          Due.early) ∧
        (mMoved (sMember 30 [(5, [copy0])]) =
          shiftInstant (sMember 30 [(5, [copy0])]).clk 7 (sMember 30 [(5, [copy0])]).chip.clear) ∧
        (mFin (sMember 30 [(5, [copy0])]) =
          (wireSlot (sMember 30 [(5, [copy0])]).clk (mMoved (sMember 30 [(5, [copy0])]))
              (qPort (mMoved (sMember 30 [(5, [copy0])])) 5)
              ((noticesOf (mMoved (sMember 30 [(5, [copy0])])) 5).headD
                  { len := 0, colour := 0, marked := false : Notice }).len).snd) ∧
        (memberDue (memberReady (sMember 30 [(5, [copy0])]).clk (mMoved (sMember 30 [(5, [copy0])])))
            (sMember 30 [(5, [copy0])]).clk (mMoved (sMember 30 [(5, [copy0])])) 7 5 =
          Due.past) ∧
        (memberReady (sMember 30 [(5, [copy0])]).clk (mMoved (sMember 30 [(5, [copy0])])) 5 = true) ∧
        (reqRoom (sMember 30 [(5, [copy0])]).clk (mMoved (sMember 30 [(5, [copy0])]))
            (qPort (mMoved (sMember 30 [(5, [copy0])])) 5) =
          true) ∧
        (doorBlocks (sMember 30 [(5, [copy0])]).clk (mMoved (sMember 30 [(5, [copy0])]))
            (qPort (mMoved (sMember 30 [(5, [copy0])])) 5) (some 7) (mFin (sMember 30 [(5, [copy0])])) =
          false)) ∧
      (((sMember 30 []).ready 0) ∧
        ((sMember 30 []).chip.latent = []) ∧
        (5 = 65536 * ↑0 + ↑5) ∧
        (7 = ↑7) ∧
        (qGroup (sMember 30 []).chip 5 = some 7) ∧
        (qValid (sMember 30 []).chip 5 = true) ∧
        (grpState (sMember 30 []).chip 7 ≠ 0) ∧
        (((sMember 30 []).chip.door 7).done.contains 5 = false) ∧
        (((sMember 30 []).chip.door 7).late.contains 5 = false) ∧
        (memberDue (memberReady (sMember 30 []).clk (sMember 30 []).chip) (sMember 30 []).clk (sMember 30 []).chip 7
            5 ≠
          Due.early) ∧
        (mMoved (sMember 30 []) = shiftInstant (sMember 30 []).clk 7 (sMember 30 []).chip.clear) ∧
        (mFin (sMember 30 []) =
          (wireSlot (sMember 30 []).clk (mMoved (sMember 30 [])) (qPort (mMoved (sMember 30 [])) 5)
              ((noticesOf (mMoved (sMember 30 [])) 5).headD
                  { len := 0, colour := 0, marked := false : Notice }).len).snd) ∧
        (memberDue (memberReady (sMember 30 []).clk (mMoved (sMember 30 []))) (sMember 30 []).clk
            (mMoved (sMember 30 [])) 7 5 =
          Due.past) ∧
        (memberReady (sMember 30 []).clk (mMoved (sMember 30 [])) 5 = false ∨
          reqRoom (sMember 30 []).clk (mMoved (sMember 30 [])) (qPort (mMoved (sMember 30 [])) 5) = false ∨
            doorBlocks (sMember 30 []).clk (mMoved (sMember 30 [])) (qPort (mMoved (sMember 30 [])) 5) (some 7)
                (mFin (sMember 30 [])) =
              true)) ∧
      (((sOver 0 { : DoorSt }).ready (groupCx ↑7)) ∧
        ((sOver 0 { : DoorSt }).chip.latent = []) ∧
        (releaseOver (sOver 0 { : DoorSt }).clk (sOver 0 { : DoorSt }).chip ↑7 = true) ∧
        (List.filter (fun q => !((sOver 0 { : DoorSt }).chip.door ↑7).done.contains q)
            (members (sOver 0 { : DoorSt }).chip ↑7) =
          [5])) ∧
      (((sOver 0 { done := [5] : DoorSt }).ready (groupCx ↑7)) ∧
        ((sOver 0 { done := [5] : DoorSt }).chip.latent = []) ∧
        (Memory.wf (sOver 0 { done := [5] : DoorSt }).chip.mem = true) ∧
        (releaseOver (sOver 0 { done := [5] : DoorSt }).clk (sOver 0 { done := [5] : DoorSt }).chip ↑7 = true) ∧
        (((members (sOver 0 { done := [5] : DoorSt }).chip ↑7).all fun q =>
            ((sOver 0 { done := [5] : DoorSt }).chip.door ↑7).done.contains q) =
          true)) ∧
      (((sOver 1 { done := [5] : DoorSt }).ready (groupCx ↑7)) ∧
        ((sOver 1 { done := [5] : DoorSt }).chip.latent = []) ∧
        (Memory.wf (sOver 1 { done := [5] : DoorSt }).chip.mem = true) ∧
        (releaseOver (sOver 1 { done := [5] : DoorSt }).clk (sOver 1 { done := [5] : DoorSt }).chip ↑7 = true) ∧
        (((members (sOver 1 { done := [5] : DoorSt }).chip ↑7).all fun q =>
            ((sOver 1 { done := [5] : DoorSt }).chip.door ↑7).done.contains q) =
          true)) := by
  refine ⟨?_, ?_, ?_, ?_, ?_, ?_, ?_, ?_, ?_, ?_, ?_, ?_, ?_, ?_⟩
  all_goals
    try simp only [State.writable, State.ready]
    decide +kernel

theorem witness_RangesCloseAndAreSealed :
      (((sJrn 9 { main := some range0, events := [JEvent.close false] : JrnSt }).ready 1) ∧
        ({ main := some range0, events := [JEvent.close false] : JrnSt } =
          (sJrn 9 { main := some range0, events := [JEvent.close false] : JrnSt }).chip.jrnOf 1) ∧
        (false = (sJrn 9 { main := some range0, events := [JEvent.close false] : JrnSt }).chip.inShadow 1) ∧
        (jrnFull { main := some range0, events := [JEvent.close false] : JrnSt } = false) ∧
        (Instr.rangeClose 1 = Instr.rangeClose 1 ∨ Instr.rangeClose 1 = Instr.reservedPlaceFree 1) ∧
        ({ main := some range0, events := [JEvent.close false] : JrnSt }.range false = some range0) ∧
        ({ main := some range0, events := [JEvent.close false] : JrnSt }.events = [JEvent.close false])) ∧
      (((sJrn 9 { main := some range0, events := [JEvent.close false] : JrnSt }).ready 1) ∧
        ({ main := some range0, events := [JEvent.close false] : JrnSt } =
          (sJrn 9 { main := some range0, events := [JEvent.close false] : JrnSt }).chip.jrnOf 1) ∧
        (false = (sJrn 9 { main := some range0, events := [JEvent.close false] : JrnSt }).chip.inShadow 1) ∧
        (jrnFull { main := some range0, events := [JEvent.close false] : JrnSt } = false) ∧
        (Instr.reservedPlaceFree 1 = Instr.rangeClose 1 ∨ Instr.reservedPlaceFree 1 = Instr.reservedPlaceFree 1) ∧
        ({ main := some range0, events := [JEvent.close false] : JrnSt }.range false = some range0) ∧
        ({ main := some range0, events := [JEvent.close false] : JrnSt }.events = [JEvent.close false])) ∧
      (((sJrn 9 { lost := some lost0, events := [JEvent.gap] : JrnSt }).ready 1) ∧
        ({ lost := some lost0, events := [JEvent.gap] : JrnSt } =
          (sJrn 9 { lost := some lost0, events := [JEvent.gap] : JrnSt }).chip.jrnOf 1) ∧
        (false = (sJrn 9 { lost := some lost0, events := [JEvent.gap] : JrnSt }).chip.inShadow 1) ∧
        (jrnFull { lost := some lost0, events := [JEvent.gap] : JrnSt } = false) ∧
        ({ lost := some lost0, events := [JEvent.gap] : JrnSt }.events = [JEvent.gap]) ∧
        ({ lost := some lost0, events := [JEvent.gap] : JrnSt }.lost = some lost0) ∧
        (9 = jrnNext (sJrn 9 { lost := some lost0, events := [JEvent.gap] : JrnSt }).chip 1 false) ∧
        ({ lost := some lost0, events := [JEvent.gap] : JrnSt }.buf.length < 65535)) ∧
      (((sJrn 1028 { lost := some lost0, main := some range0, events := [JEvent.gap] : JrnSt }).ready 1) ∧
        ({ lost := some lost0, main := some range0, events := [JEvent.gap] : JrnSt } =
          (sJrn 1028 { lost := some lost0, main := some range0, events := [JEvent.gap] : JrnSt }).chip.jrnOf 1) ∧
        (false =
          (sJrn 1028 { lost := some lost0, main := some range0, events := [JEvent.gap] : JrnSt }).chip.inShadow 1) ∧
        (jrnFull { lost := some lost0, main := some range0, events := [JEvent.gap] : JrnSt } = false) ∧
        ({ lost := some lost0, main := some range0, events := [JEvent.gap] : JrnSt }.events = [JEvent.gap]) ∧
        ({ lost := some lost0, main := some range0, events := [JEvent.gap] : JrnSt }.lost = some lost0) ∧
        (1028 =
          jrnNext (sJrn 1028 { lost := some lost0, main := some range0, events := [JEvent.gap] : JrnSt }).chip 1
            false) ∧
        ({ lost := some lost0, main := some range0, events := [JEvent.gap] : JrnSt }.buf.length < 65535)) ∧
      (((sJrn 1027 { lost := some lost0, main := some range0, events := [JEvent.gap] : JrnSt }).ready 1) ∧
        ({ lost := some lost0, main := some range0, events := [JEvent.gap] : JrnSt } =
          (sJrn 1027 { lost := some lost0, main := some range0, events := [JEvent.gap] : JrnSt }).chip.jrnOf 1) ∧
        (false =
          (sJrn 1027 { lost := some lost0, main := some range0, events := [JEvent.gap] : JrnSt }).chip.inShadow 1) ∧
        (jrnFull { lost := some lost0, main := some range0, events := [JEvent.gap] : JrnSt } = false) ∧
        ({ lost := some lost0, main := some range0, events := [JEvent.gap] : JrnSt }.events = [JEvent.gap]) ∧
        ({ lost := some lost0, main := some range0, events := [JEvent.gap] : JrnSt }.lost = some lost0) ∧
        (1027 =
          jrnNext (sJrn 1027 { lost := some lost0, main := some range0, events := [JEvent.gap] : JrnSt }).chip 1
            false) ∧
        ({ lost := some lost0, main := some range0, events := [JEvent.gap] : JrnSt }.buf.length < 65535)) ∧
      ((sKeyed.ready 1) ∧
        (jClosed true = sKeyed.chip.jrnOf 1) ∧
        (false = sKeyed.chip.inShadow 1) ∧
        (jrnFull (jClosed true) = false) ∧
        ((jClosed true).main = none) ∧
        ((jClosed true).shad = none) ∧
        ((jClosed true).events = []) ∧
        ((jClosed true).closed = [closed0 true]) ∧
        (9 = jrnNext sKeyed.chip 1 (closed0 true).shadow) ∧
        (some key0 =
          if ((closed0 true).keyed && sKeyed.chip.enabled Page.sel) = true then
            kvFind sKeyed.chip.keys (closed0 true).slot
          else none) ∧
        (leBytes 2 (idWord sKeyed.chip 1 2 false) =
          leBytes 2 (idWord sKeyed.chip 1 (closed0 true).slot (closed0 true).shadow)) ∧
        (cmac key0
            (rec0 1 ++
              (jrnChain sKeyed.chip 1 false ++ leBytes 8 5 ++ leBytes 4 3 ++
                      leBytes 2 (idWord sKeyed.chip 1 2 false) ++
                    leBytes 2 1 ++
                  leBytes 8 9 ++
                leBytes 8 0)) =
          match some key0 with
          | some kk =>
            cmac kk
              ((closed0 true).recs.flatten ++
                (jrnChain sKeyed.chip 1 (closed0 true).shadow ++ leBytes 8 (closed0 true).first ++
                          leBytes 4 (closed0 true).span ++
                        leBytes 2 (idWord sKeyed.chip 1 2 false) ++
                      leBytes 2 (closed0 true).recs.length ++
                    leBytes 8 9 ++
                  leBytes 8 0))
          | none => List.replicate 16 0)) ∧
      (((sJrn 9 (jClosed false)).ready 1) ∧
        (jClosed false = (sJrn 9 (jClosed false)).chip.jrnOf 1) ∧
        (false = (sJrn 9 (jClosed false)).chip.inShadow 1) ∧
        (jrnFull (jClosed false) = false) ∧
        ((jClosed false).main = none) ∧
        ((jClosed false).shad = none) ∧
        ((jClosed false).events = []) ∧
        ((jClosed false).closed = [closed0 false]) ∧
        (9 = jrnNext (sJrn 9 (jClosed false)).chip 1 (closed0 false).shadow) ∧
        (none =
          if ((closed0 false).keyed && (sJrn 9 (jClosed false)).chip.enabled Page.sel) = true then
            kvFind (sJrn 9 (jClosed false)).chip.keys (closed0 false).slot
          else none) ∧
        (leBytes 2 (idWord (sJrn 9 (jClosed false)).chip 1 2 false) =
          leBytes 2 (idWord (sJrn 9 (jClosed false)).chip 1 (closed0 false).slot (closed0 false).shadow)) ∧
        (List.replicate 16 0 =
          match none with
          | some kk =>
            cmac kk
              ((closed0 false).recs.flatten ++
                (jrnChain (sJrn 9 (jClosed false)).chip 1 (closed0 false).shadow ++
                            leBytes 8 (closed0 false).first ++
                          leBytes 4 (closed0 false).span ++
                        leBytes 2 (idWord (sJrn 9 (jClosed false)).chip 1 2 false) ++
                      leBytes 2 (closed0 false).recs.length ++
                    leBytes 8 9 ++
                  leBytes 8 0))
          | none => List.replicate 16 0)) ∧
      (((sJrn 9 (jData none)).ready 1) ∧
        (jData none = (sJrn 9 (jData none)).chip.jrnOf 1) ∧
        (false = (sJrn 9 (jData none)).chip.inShadow 1) ∧
        (jrnFull (jData none) = false) ∧
        ((sJrn 9 (jData none)).pending = []) ∧
        ((sJrn 9 (jData none)).clk.clock < 1599) ∧
        (∀ (y : Cx),
          atStage9 (sJrn 9 (jData none)).chip y = [] ∧ (y ≠ 1 → ((sJrn 9 (jData none)).chip.jrnOf y).pend = [])) ∧
        ((jData none).running = true) ∧
        ((jData none).pend = [jPend0 none]) ∧
        ((jPend0 none).voids = Option.map RecRef.seq none) ∧
        (List.replicate 12 1 = (Option.map (leBytes 8) none).getD [] ++ (jPend0 none).a) ∧
        ((jPend0 none).cnt = 256 ∨ (jPend0 none).cnt = 264) ∧
        ((jData none).events = []) ∧
        ((jData none).lost = none) ∧
        (9 = jrnNext (sJrn 9 (jData none)).chip 1 false) ∧
        ((jData none).buf.length < 65472) ∧
        ((jData none).clock = (sJrn 9 (jData none)).clk.abs → (jData none).formed < 64)) ∧
      (((sJrn 9 (jData (some (RecRef.seq 7)))).ready 1) ∧
        (jData (some (RecRef.seq 7)) = (sJrn 9 (jData (some (RecRef.seq 7)))).chip.jrnOf 1) ∧
        (false = (sJrn 9 (jData (some (RecRef.seq 7)))).chip.inShadow 1) ∧
        (jrnFull (jData (some (RecRef.seq 7))) = false) ∧
        ((sJrn 9 (jData (some (RecRef.seq 7)))).pending = []) ∧
        ((sJrn 9 (jData (some (RecRef.seq 7)))).clk.clock < 1599) ∧
        (∀ (y : Cx),
          atStage9 (sJrn 9 (jData (some (RecRef.seq 7)))).chip y = [] ∧
        (y ≠ 1 → ((sJrn 9 (jData (some (RecRef.seq 7)))).chip.jrnOf y).pend = [])) ∧
        ((jData (some (RecRef.seq 7))).running = true) ∧
        ((jData (some (RecRef.seq 7))).pend = [jPend0 (some (RecRef.seq 7))]) ∧
        ((jPend0 (some (RecRef.seq 7))).voids = Option.map RecRef.seq (some 7)) ∧
        (leBytes 8 7 ++ List.replicate 12 1 =
          (Option.map (leBytes 8) (some 7)).getD [] ++ (jPend0 (some (RecRef.seq 7))).a) ∧
        ((jPend0 (some (RecRef.seq 7))).cnt = 256 ∨ (jPend0 (some (RecRef.seq 7))).cnt = 264) ∧
        ((jData (some (RecRef.seq 7))).events = []) ∧
        ((jData (some (RecRef.seq 7))).lost = none) ∧
        (9 = jrnNext (sJrn 9 (jData (some (RecRef.seq 7)))).chip 1 false) ∧
        ((jData (some (RecRef.seq 7))).buf.length < 65472) ∧
        ((jData (some (RecRef.seq 7))).clock = (sJrn 9 (jData (some (RecRef.seq 7)))).clk.abs →
          (jData (some (RecRef.seq 7))).formed < 64)) := by
  refine ⟨?_, ?_, ?_, ?_, ?_, ?_, ?_, ?_, ?_⟩
  all_goals
    try simp only [State.ready]
    decide +kernel

theorem witness_JournalRecordsAreWritten :
      ((0 =
          Fin.ofNat 2
            ((let __src := frmJrn;
                { id := __src.id, port := __src.port, pg := __src.pg, host := __src.host, sequ := __src.sequ,
                  rank := __src.rank, since := __src.since, bytes := __src.bytes, ended := __src.ended,
                  fcsBad := __src.fcsBad, stomp := __src.stomp, trunc := __src.trunc, cut := __src.cut,
                  ecc := __src.ecc, stamp := __src.stamp, cfg := __src.cfg, loc := __src.loc, grec := __src.grec,
                  gen := __src.gen, counted := __src.counted, order := __src.order, enq := __src.enq,
                  engine := __src.engine, waited := __src.waited, rqWait := __src.rqWait, w := __src.w,
                  walk := __src.walk, two := __src.two, metaB := __src.metaB, glzState := __src.glzState,
                  tag2 := __src.tag2, sliceKey := __src.sliceKey, bsqKey := __src.bsqKey, bsqHit := __src.bsqHit,
                  cls := __src.cls, queue := __src.queue, mcast := __src.mcast, colour := __src.colour,
                  meter := __src.meter, sesProf := __src.sesProf, capture := __src.capture,
                  sesValid := __src.sesValid, untrack := __src.untrack, gap := __src.gap, dup := __src.dup,
                  strValid := __src.strValid, session := __src.session, appSeq := __src.appSeq,
                  stream := __src.stream, sesUse := __src.sesUse, mtrUse := __src.mtrUse, credits := __src.credits,
                  slow := __src.slow, sent := __src.sent, fate := __src.fate, recorded := __src.recorded,
                  unlocked := __src.unlocked, resync := __src.resync, expired := __src.expired,
                  placed := __src.placed : Frame }).pg /
              32)) ∧
        ((let __src := frmJrn;
            { id := __src.id, port := __src.port, pg := __src.pg, host := __src.host, sequ := __src.sequ,
              rank := __src.rank, since := __src.since, bytes := __src.bytes, ended := __src.ended,
              fcsBad := __src.fcsBad, stomp := __src.stomp, trunc := __src.trunc, cut := __src.cut,
              ecc := __src.ecc, stamp := __src.stamp, cfg := __src.cfg, loc := __src.loc, grec := __src.grec,
              gen := __src.gen, counted := __src.counted, order := __src.order, enq := __src.enq,
              engine := __src.engine, waited := __src.waited, rqWait := __src.rqWait, w := __src.w,
              walk := __src.walk, two := __src.two, metaB := __src.metaB, glzState := __src.glzState,
              tag2 := __src.tag2, sliceKey := __src.sliceKey, bsqKey := __src.bsqKey, bsqHit := __src.bsqHit,
              cls := __src.cls, queue := __src.queue, mcast := __src.mcast, colour := __src.colour,
              meter := __src.meter, sesProf := __src.sesProf, capture := __src.capture, sesValid := __src.sesValid,
              untrack := __src.untrack, gap := __src.gap, dup := __src.dup, strValid := __src.strValid,
              session := __src.session, appSeq := __src.appSeq, stream := __src.stream, sesUse := __src.sesUse,
              mtrUse := __src.mtrUse, credits := __src.credits, slow := __src.slow, sent := __src.sent,
              fate := __src.fate, recorded := __src.recorded, unlocked := __src.unlocked, resync := __src.resync,
              expired := __src.expired, placed := __src.placed : Frame }).fate =
          some 0) ∧
        (chip0 =
          (ingressRecord
              (let __src := frmJrn;
              { id := __src.id, port := __src.port, pg := __src.pg, host := __src.host, sequ := __src.sequ,
                rank := __src.rank, since := __src.since, bytes := __src.bytes, ended := __src.ended,
                fcsBad := __src.fcsBad, stomp := __src.stomp, trunc := __src.trunc, cut := __src.cut,
                ecc := __src.ecc, stamp := __src.stamp, cfg := __src.cfg, loc := __src.loc, grec := __src.grec,
                gen := __src.gen, counted := __src.counted, order := __src.order, enq := __src.enq,
                engine := __src.engine, waited := __src.waited, rqWait := __src.rqWait, w := __src.w,
                walk := __src.walk, two := __src.two, metaB := __src.metaB, glzState := __src.glzState,
                tag2 := __src.tag2, sliceKey := __src.sliceKey, bsqKey := __src.bsqKey, bsqHit := __src.bsqHit,
                cls := __src.cls, queue := __src.queue, mcast := __src.mcast, colour := __src.colour,
                meter := __src.meter, sesProf := __src.sesProf, capture := __src.capture,
                sesValid := __src.sesValid, untrack := __src.untrack, gap := __src.gap, dup := __src.dup,
                strValid := __src.strValid, session := __src.session, appSeq := __src.appSeq,
                stream := __src.stream, sesUse := __src.sesUse, mtrUse := __src.mtrUse, credits := __src.credits,
                slow := __src.slow, sent := __src.sent, fate := __src.fate, recorded := __src.recorded,
                unlocked := __src.unlocked, resync := __src.resync, expired := __src.expired,
                placed := __src.placed : Frame })
              chip0).fst) ∧
        ((let __src := frmJrn;
              { id := __src.id, port := __src.port, pg := __src.pg, host := __src.host, sequ := __src.sequ,
                rank := __src.rank, since := __src.since, bytes := __src.bytes, ended := __src.ended,
                fcsBad := __src.fcsBad, stomp := __src.stomp, trunc := __src.trunc, cut := __src.cut,
                ecc := __src.ecc, stamp := __src.stamp, cfg := __src.cfg, loc := __src.loc, grec := __src.grec,
                gen := __src.gen, counted := __src.counted, order := __src.order, enq := __src.enq,
                engine := __src.engine, waited := __src.waited, rqWait := __src.rqWait, w := __src.w,
                walk := __src.walk, two := __src.two, metaB := __src.metaB, glzState := __src.glzState,
                tag2 := __src.tag2, sliceKey := __src.sliceKey, bsqKey := __src.bsqKey, bsqHit := __src.bsqHit,
                cls := __src.cls, queue := __src.queue, mcast := __src.mcast, colour := __src.colour,
                meter := __src.meter, sesProf := __src.sesProf, capture := __src.capture,
                sesValid := __src.sesValid, untrack := __src.untrack, gap := __src.gap, dup := __src.dup,
                strValid := __src.strValid, session := __src.session, appSeq := __src.appSeq,
                stream := __src.stream, sesUse := __src.sesUse, mtrUse := __src.mtrUse, credits := __src.credits,
                slow := __src.slow, sent := __src.sent, fate := __src.fate, recorded := __src.recorded,
                unlocked := __src.unlocked, resync := __src.resync, expired := __src.expired,
                placed := __src.placed : Frame }).ended =
            false ∨
          (let __src := frmJrn;
                { id := __src.id, port := __src.port, pg := __src.pg, host := __src.host, sequ := __src.sequ,
                  rank := __src.rank, since := __src.since, bytes := __src.bytes, ended := __src.ended,
                  fcsBad := __src.fcsBad, stomp := __src.stomp, trunc := __src.trunc, cut := __src.cut,
                  ecc := __src.ecc, stamp := __src.stamp, cfg := __src.cfg, loc := __src.loc, grec := __src.grec,
                  gen := __src.gen, counted := __src.counted, order := __src.order, enq := __src.enq,
                  engine := __src.engine, waited := __src.waited, rqWait := __src.rqWait, w := __src.w,
                  walk := __src.walk, two := __src.two, metaB := __src.metaB, glzState := __src.glzState,
                  tag2 := __src.tag2, sliceKey := __src.sliceKey, bsqKey := __src.bsqKey, bsqHit := __src.bsqHit,
                  cls := __src.cls, queue := __src.queue, mcast := __src.mcast, colour := __src.colour,
                  meter := __src.meter, sesProf := __src.sesProf, capture := __src.capture,
                  sesValid := __src.sesValid, untrack := __src.untrack, gap := __src.gap, dup := __src.dup,
                  strValid := __src.strValid, session := __src.session, appSeq := __src.appSeq,
                  stream := __src.stream, sesUse := __src.sesUse, mtrUse := __src.mtrUse, credits := __src.credits,
                  slow := __src.slow, sent := __src.sent, fate := __src.fate, recorded := __src.recorded,
                  unlocked := __src.unlocked, resync := __src.resync, expired := __src.expired,
                  placed := __src.placed : Frame }).sesValid =
              false ∨
            (let __src := frmJrn;
                  { id := __src.id, port := __src.port, pg := __src.pg, host := __src.host, sequ := __src.sequ,
                    rank := __src.rank, since := __src.since, bytes := __src.bytes, ended := __src.ended,
                    fcsBad := __src.fcsBad, stomp := __src.stomp, trunc := __src.trunc, cut := __src.cut,
                    ecc := __src.ecc, stamp := __src.stamp, cfg := __src.cfg, loc := __src.loc, grec := __src.grec,
                    gen := __src.gen, counted := __src.counted, order := __src.order, enq := __src.enq,
                    engine := __src.engine, waited := __src.waited, rqWait := __src.rqWait, w := __src.w,
                    walk := __src.walk, two := __src.two, metaB := __src.metaB, glzState := __src.glzState,
                    tag2 := __src.tag2, sliceKey := __src.sliceKey, bsqKey := __src.bsqKey, bsqHit := __src.bsqHit,
                    cls := __src.cls, queue := __src.queue, mcast := __src.mcast, colour := __src.colour,
                    meter := __src.meter, sesProf := __src.sesProf, capture := __src.capture,
                    sesValid := __src.sesValid, untrack := __src.untrack, gap := __src.gap, dup := __src.dup,
                    strValid := __src.strValid, session := __src.session, appSeq := __src.appSeq,
                    stream := __src.stream, sesUse := __src.sesUse, mtrUse := __src.mtrUse,
                    credits := __src.credits, slow := __src.slow, sent := __src.sent, fate := __src.fate,
                    recorded := __src.recorded, unlocked := __src.unlocked, resync := __src.resync,
                    expired := __src.expired, placed := __src.placed : Frame }).jrn =
                false ∨
              (let __src := frmJrn;
                  { id := __src.id, port := __src.port, pg := __src.pg, host := __src.host, sequ := __src.sequ,
                    rank := __src.rank, since := __src.since, bytes := __src.bytes, ended := __src.ended,
                    fcsBad := __src.fcsBad, stomp := __src.stomp, trunc := __src.trunc, cut := __src.cut,
                    ecc := __src.ecc, stamp := __src.stamp, cfg := __src.cfg, loc := __src.loc, grec := __src.grec,
                    gen := __src.gen, counted := __src.counted, order := __src.order, enq := __src.enq,
                    engine := __src.engine, waited := __src.waited, rqWait := __src.rqWait, w := __src.w,
                    walk := __src.walk, two := __src.two, metaB := __src.metaB, glzState := __src.glzState,
                    tag2 := __src.tag2, sliceKey := __src.sliceKey, bsqKey := __src.bsqKey, bsqHit := __src.bsqHit,
                    cls := __src.cls, queue := __src.queue, mcast := __src.mcast, colour := __src.colour,
                    meter := __src.meter, sesProf := __src.sesProf, capture := __src.capture,
                    sesValid := __src.sesValid, untrack := __src.untrack, gap := __src.gap, dup := __src.dup,
                    strValid := __src.strValid, session := __src.session, appSeq := __src.appSeq,
                    stream := __src.stream, sesUse := __src.sesUse, mtrUse := __src.mtrUse,
                    credits := __src.credits, slow := __src.slow, sent := __src.sent, fate := __src.fate,
                    recorded := __src.recorded, unlocked := __src.unlocked, resync := __src.resync,
                    expired := __src.expired, placed := __src.placed : Frame }).recorded =
                true)) ∧
      ((0 = Fin.ofNat 2 (frmJrn.pg / 32)) ∧
        (frmJrn.fate = some 0) ∧
        (frmJrn.ended = true) ∧
        (frmJrn.sesValid = true) ∧
        (frmJrn.jrn = true) ∧
        (frmJrn.recorded = false) ∧
        ({ part := chip0.part, maxPay := chip0.maxPay, maxRead := chip0.maxRead, off := chip0.off,
                regs := frmJrn.cfg, mem := chip0.mem, latent := chip0.latent, twBuf := chip0.twBuf,
                twRun := chip0.twRun, initBusy := chip0.initBusy, commits := chip0.commits,
                resetting := chip0.resetting, committed := chip0.committed, readPcie := chip0.readPcie,
                readMgmt := chip0.readMgmt, logs := chip0.logs, time := chip0.time, frames := chip0.frames,
                nextFrame := chip0.nextFrame, ses := chip0.ses, recov := chip0.recov, mtrEpoch := chip0.mtrEpoch,
                mtrMod := chip0.mtrMod, dirty := chip0.dirty, jrn := chip0.jrn, keys := chip0.keys,
                keyLoad := chip0.keyLoad, funcOn := chip0.funcOn, funcStop := chip0.funcStop, rings := chip0.rings,
                push := chip0.push, acks := chip0.acks, fetchAt := chip0.fetchAt, hostQ := chip0.hostQ,
                coreQ := chip0.coreQ, hlt := chip0.hlt, nextOrder := chip0.nextOrder, swaps := chip0.swaps,
                slowCnt := chip0.slowCnt, recCnt := chip0.recCnt, disp := chip0.disp, relSlot := chip0.relSlot,
                bus := chip0.bus, passed := chip0.passed, ranks := chip0.ranks, ports := chip0.ports,
                laneCnt := chip0.laneCnt, notices := chip0.notices, sched := chip0.sched, drops := chip0.drops,
                doors := chip0.doors, owed := chip0.owed, tel := chip0.tel, icu := chip0.icu,
                standby := chip0.standby, chk := chip0.chk, pair := chip0.pair, therm := chip0.therm,
                sweep := chip0.sweep, out := chip0.out : Chip }.liveFlag
            (jrnPage 0) 64 16 =
          true) ∧
        (frmJrn.host = none)) ∧
      ((0 =
          Fin.ofNat 2
            ((let __src := frmJrn;
                { id := __src.id, port := __src.port, pg := __src.pg, host := __src.host, sequ := __src.sequ,
                  rank := __src.rank, since := __src.since, bytes := __src.bytes, ended := __src.ended,
                  fcsBad := __src.fcsBad, stomp := __src.stomp, trunc := __src.trunc, cut := __src.cut,
                  ecc := __src.ecc, stamp := __src.stamp, cfg := [(liveKey (jrnPage 0) 64, 0)], loc := __src.loc,
                  grec := __src.grec, gen := __src.gen, counted := __src.counted, order := __src.order,
                  enq := __src.enq, engine := __src.engine, waited := __src.waited, rqWait := __src.rqWait,
                  w := __src.w, walk := __src.walk, two := __src.two, metaB := __src.metaB,
                  glzState := __src.glzState, tag2 := __src.tag2, sliceKey := __src.sliceKey,
                  bsqKey := __src.bsqKey, bsqHit := __src.bsqHit, cls := __src.cls, queue := __src.queue,
                  mcast := __src.mcast, colour := __src.colour, meter := __src.meter, sesProf := __src.sesProf,
                  capture := __src.capture, sesValid := __src.sesValid, untrack := __src.untrack, gap := __src.gap,
                  dup := __src.dup, jrn := __src.jrn, strValid := __src.strValid, session := __src.session,
                  appSeq := __src.appSeq, stream := __src.stream, sesUse := __src.sesUse, mtrUse := __src.mtrUse,
                  credits := __src.credits, slow := __src.slow, sent := __src.sent, fate := __src.fate,
                  recorded := __src.recorded, unlocked := __src.unlocked, resync := __src.resync,
                  expired := __src.expired, placed := __src.placed : Frame }).pg /
              32)) ∧
        ((let __src := frmJrn;
            { id := __src.id, port := __src.port, pg := __src.pg, host := __src.host, sequ := __src.sequ,
              rank := __src.rank, since := __src.since, bytes := __src.bytes, ended := __src.ended,
              fcsBad := __src.fcsBad, stomp := __src.stomp, trunc := __src.trunc, cut := __src.cut,
              ecc := __src.ecc, stamp := __src.stamp, cfg := [(liveKey (jrnPage 0) 64, 0)], loc := __src.loc,
              grec := __src.grec, gen := __src.gen, counted := __src.counted, order := __src.order,
              enq := __src.enq, engine := __src.engine, waited := __src.waited, rqWait := __src.rqWait,
              w := __src.w, walk := __src.walk, two := __src.two, metaB := __src.metaB, glzState := __src.glzState,
              tag2 := __src.tag2, sliceKey := __src.sliceKey, bsqKey := __src.bsqKey, bsqHit := __src.bsqHit,
              cls := __src.cls, queue := __src.queue, mcast := __src.mcast, colour := __src.colour,
              meter := __src.meter, sesProf := __src.sesProf, capture := __src.capture, sesValid := __src.sesValid,
              untrack := __src.untrack, gap := __src.gap, dup := __src.dup, jrn := __src.jrn,
              strValid := __src.strValid, session := __src.session, appSeq := __src.appSeq, stream := __src.stream,
              sesUse := __src.sesUse, mtrUse := __src.mtrUse, credits := __src.credits, slow := __src.slow,
              sent := __src.sent, fate := __src.fate, recorded := __src.recorded, unlocked := __src.unlocked,
              resync := __src.resync, expired := __src.expired, placed := __src.placed : Frame }).fate =
          some 0) ∧
        (chip0 =
          (ingressRecord
              (let __src := frmJrn;
              { id := __src.id, port := __src.port, pg := __src.pg, host := __src.host, sequ := __src.sequ,
                rank := __src.rank, since := __src.since, bytes := __src.bytes, ended := __src.ended,
                fcsBad := __src.fcsBad, stomp := __src.stomp, trunc := __src.trunc, cut := __src.cut,
                ecc := __src.ecc, stamp := __src.stamp, cfg := [(liveKey (jrnPage 0) 64, 0)], loc := __src.loc,
                grec := __src.grec, gen := __src.gen, counted := __src.counted, order := __src.order,
                enq := __src.enq, engine := __src.engine, waited := __src.waited, rqWait := __src.rqWait,
                w := __src.w, walk := __src.walk, two := __src.two, metaB := __src.metaB,
                glzState := __src.glzState, tag2 := __src.tag2, sliceKey := __src.sliceKey, bsqKey := __src.bsqKey,
                bsqHit := __src.bsqHit, cls := __src.cls, queue := __src.queue, mcast := __src.mcast,
                colour := __src.colour, meter := __src.meter, sesProf := __src.sesProf, capture := __src.capture,
                sesValid := __src.sesValid, untrack := __src.untrack, gap := __src.gap, dup := __src.dup,
                jrn := __src.jrn, strValid := __src.strValid, session := __src.session, appSeq := __src.appSeq,
                stream := __src.stream, sesUse := __src.sesUse, mtrUse := __src.mtrUse, credits := __src.credits,
                slow := __src.slow, sent := __src.sent, fate := __src.fate, recorded := __src.recorded,
                unlocked := __src.unlocked, resync := __src.resync, expired := __src.expired,
                placed := __src.placed : Frame })
              chip0).fst) ∧
        ((let __src := frmJrn;
            { id := __src.id, port := __src.port, pg := __src.pg, host := __src.host, sequ := __src.sequ,
              rank := __src.rank, since := __src.since, bytes := __src.bytes, ended := __src.ended,
              fcsBad := __src.fcsBad, stomp := __src.stomp, trunc := __src.trunc, cut := __src.cut,
              ecc := __src.ecc, stamp := __src.stamp, cfg := [(liveKey (jrnPage 0) 64, 0)], loc := __src.loc,
              grec := __src.grec, gen := __src.gen, counted := __src.counted, order := __src.order,
              enq := __src.enq, engine := __src.engine, waited := __src.waited, rqWait := __src.rqWait,
              w := __src.w, walk := __src.walk, two := __src.two, metaB := __src.metaB, glzState := __src.glzState,
              tag2 := __src.tag2, sliceKey := __src.sliceKey, bsqKey := __src.bsqKey, bsqHit := __src.bsqHit,
              cls := __src.cls, queue := __src.queue, mcast := __src.mcast, colour := __src.colour,
              meter := __src.meter, sesProf := __src.sesProf, capture := __src.capture, sesValid := __src.sesValid,
              untrack := __src.untrack, gap := __src.gap, dup := __src.dup, jrn := __src.jrn,
              strValid := __src.strValid, session := __src.session, appSeq := __src.appSeq, stream := __src.stream,
              sesUse := __src.sesUse, mtrUse := __src.mtrUse, credits := __src.credits, slow := __src.slow,
              sent := __src.sent, fate := __src.fate, recorded := __src.recorded, unlocked := __src.unlocked,
              resync := __src.resync, expired := __src.expired, placed := __src.placed : Frame }).ended =
          true) ∧
        ((let __src := frmJrn;
            { id := __src.id, port := __src.port, pg := __src.pg, host := __src.host, sequ := __src.sequ,
              rank := __src.rank, since := __src.since, bytes := __src.bytes, ended := __src.ended,
              fcsBad := __src.fcsBad, stomp := __src.stomp, trunc := __src.trunc, cut := __src.cut,
              ecc := __src.ecc, stamp := __src.stamp, cfg := [(liveKey (jrnPage 0) 64, 0)], loc := __src.loc,
              grec := __src.grec, gen := __src.gen, counted := __src.counted, order := __src.order,
              enq := __src.enq, engine := __src.engine, waited := __src.waited, rqWait := __src.rqWait,
              w := __src.w, walk := __src.walk, two := __src.two, metaB := __src.metaB, glzState := __src.glzState,
              tag2 := __src.tag2, sliceKey := __src.sliceKey, bsqKey := __src.bsqKey, bsqHit := __src.bsqHit,
              cls := __src.cls, queue := __src.queue, mcast := __src.mcast, colour := __src.colour,
              meter := __src.meter, sesProf := __src.sesProf, capture := __src.capture, sesValid := __src.sesValid,
              untrack := __src.untrack, gap := __src.gap, dup := __src.dup, jrn := __src.jrn,
              strValid := __src.strValid, session := __src.session, appSeq := __src.appSeq, stream := __src.stream,
              sesUse := __src.sesUse, mtrUse := __src.mtrUse, credits := __src.credits, slow := __src.slow,
              sent := __src.sent, fate := __src.fate, recorded := __src.recorded, unlocked := __src.unlocked,
              resync := __src.resync, expired := __src.expired, placed := __src.placed : Frame }).sesValid =
          true) ∧
        ((let __src := frmJrn;
            { id := __src.id, port := __src.port, pg := __src.pg, host := __src.host, sequ := __src.sequ,
              rank := __src.rank, since := __src.since, bytes := __src.bytes, ended := __src.ended,
              fcsBad := __src.fcsBad, stomp := __src.stomp, trunc := __src.trunc, cut := __src.cut,
              ecc := __src.ecc, stamp := __src.stamp, cfg := [(liveKey (jrnPage 0) 64, 0)], loc := __src.loc,
              grec := __src.grec, gen := __src.gen, counted := __src.counted, order := __src.order,
              enq := __src.enq, engine := __src.engine, waited := __src.waited, rqWait := __src.rqWait,
              w := __src.w, walk := __src.walk, two := __src.two, metaB := __src.metaB, glzState := __src.glzState,
              tag2 := __src.tag2, sliceKey := __src.sliceKey, bsqKey := __src.bsqKey, bsqHit := __src.bsqHit,
              cls := __src.cls, queue := __src.queue, mcast := __src.mcast, colour := __src.colour,
              meter := __src.meter, sesProf := __src.sesProf, capture := __src.capture, sesValid := __src.sesValid,
              untrack := __src.untrack, gap := __src.gap, dup := __src.dup, jrn := __src.jrn,
              strValid := __src.strValid, session := __src.session, appSeq := __src.appSeq, stream := __src.stream,
              sesUse := __src.sesUse, mtrUse := __src.mtrUse, credits := __src.credits, slow := __src.slow,
              sent := __src.sent, fate := __src.fate, recorded := __src.recorded, unlocked := __src.unlocked,
              resync := __src.resync, expired := __src.expired, placed := __src.placed : Frame }).jrn =
          true) ∧
        ((let __src := frmJrn;
            { id := __src.id, port := __src.port, pg := __src.pg, host := __src.host, sequ := __src.sequ,
              rank := __src.rank, since := __src.since, bytes := __src.bytes, ended := __src.ended,
              fcsBad := __src.fcsBad, stomp := __src.stomp, trunc := __src.trunc, cut := __src.cut,
              ecc := __src.ecc, stamp := __src.stamp, cfg := [(liveKey (jrnPage 0) 64, 0)], loc := __src.loc,
              grec := __src.grec, gen := __src.gen, counted := __src.counted, order := __src.order,
              enq := __src.enq, engine := __src.engine, waited := __src.waited, rqWait := __src.rqWait,
              w := __src.w, walk := __src.walk, two := __src.two, metaB := __src.metaB, glzState := __src.glzState,
              tag2 := __src.tag2, sliceKey := __src.sliceKey, bsqKey := __src.bsqKey, bsqHit := __src.bsqHit,
              cls := __src.cls, queue := __src.queue, mcast := __src.mcast, colour := __src.colour,
              meter := __src.meter, sesProf := __src.sesProf, capture := __src.capture, sesValid := __src.sesValid,
              untrack := __src.untrack, gap := __src.gap, dup := __src.dup, jrn := __src.jrn,
              strValid := __src.strValid, session := __src.session, appSeq := __src.appSeq, stream := __src.stream,
              sesUse := __src.sesUse, mtrUse := __src.mtrUse, credits := __src.credits, slow := __src.slow,
              sent := __src.sent, fate := __src.fate, recorded := __src.recorded, unlocked := __src.unlocked,
              resync := __src.resync, expired := __src.expired, placed := __src.placed : Frame }).recorded =
          false) ∧
        ({ part := chip0.part, maxPay := chip0.maxPay, maxRead := chip0.maxRead, off := chip0.off,
                regs :=
                  (let __src := frmJrn;
                    { id := __src.id, port := __src.port, pg := __src.pg, host := __src.host, sequ := __src.sequ,
                      rank := __src.rank, since := __src.since, bytes := __src.bytes, ended := __src.ended,
                      fcsBad := __src.fcsBad, stomp := __src.stomp, trunc := __src.trunc, cut := __src.cut,
                      ecc := __src.ecc, stamp := __src.stamp, cfg := [(liveKey (jrnPage 0) 64, 0)],
                      loc := __src.loc, grec := __src.grec, gen := __src.gen, counted := __src.counted,
                      order := __src.order, enq := __src.enq, engine := __src.engine, waited := __src.waited,
                      rqWait := __src.rqWait, w := __src.w, walk := __src.walk, two := __src.two,
                      metaB := __src.metaB, glzState := __src.glzState, tag2 := __src.tag2,
                      sliceKey := __src.sliceKey, bsqKey := __src.bsqKey, bsqHit := __src.bsqHit, cls := __src.cls,
                      queue := __src.queue, mcast := __src.mcast, colour := __src.colour, meter := __src.meter,
                      sesProf := __src.sesProf, capture := __src.capture, sesValid := __src.sesValid,
                      untrack := __src.untrack, gap := __src.gap, dup := __src.dup, jrn := __src.jrn,
                      strValid := __src.strValid, session := __src.session, appSeq := __src.appSeq,
                      stream := __src.stream, sesUse := __src.sesUse, mtrUse := __src.mtrUse,
                      credits := __src.credits, slow := __src.slow, sent := __src.sent, fate := __src.fate,
                      recorded := __src.recorded, unlocked := __src.unlocked, resync := __src.resync,
                      expired := __src.expired, placed := __src.placed : Frame }).cfg,
                mem := chip0.mem, latent := chip0.latent, twBuf := chip0.twBuf, twRun := chip0.twRun,
                initBusy := chip0.initBusy, commits := chip0.commits, resetting := chip0.resetting,
                committed := chip0.committed, readPcie := chip0.readPcie, readMgmt := chip0.readMgmt,
                logs := chip0.logs, time := chip0.time, frames := chip0.frames, nextFrame := chip0.nextFrame,
                ses := chip0.ses, recov := chip0.recov, mtrEpoch := chip0.mtrEpoch, mtrMod := chip0.mtrMod,
                dirty := chip0.dirty, jrn := chip0.jrn, keys := chip0.keys, keyLoad := chip0.keyLoad,
                funcOn := chip0.funcOn, funcStop := chip0.funcStop, rings := chip0.rings, push := chip0.push,
                acks := chip0.acks, fetchAt := chip0.fetchAt, hostQ := chip0.hostQ, coreQ := chip0.coreQ,
                hlt := chip0.hlt, nextOrder := chip0.nextOrder, swaps := chip0.swaps, slowCnt := chip0.slowCnt,
                recCnt := chip0.recCnt, disp := chip0.disp, relSlot := chip0.relSlot, bus := chip0.bus,
                passed := chip0.passed, ranks := chip0.ranks, ports := chip0.ports, laneCnt := chip0.laneCnt,
                notices := chip0.notices, sched := chip0.sched, drops := chip0.drops, doors := chip0.doors,
                owed := chip0.owed, tel := chip0.tel, icu := chip0.icu, standby := chip0.standby, chk := chip0.chk,
                pair := chip0.pair, therm := chip0.therm, sweep := chip0.sweep, out := chip0.out : Chip }.liveFlag
            (jrnPage 0) 64 16 =
          false)) ∧
      ((0 = cxOf 8) ∧
        (txJrn.journals = true) ∧
        (txJrn.recDone = false) ∧
        (chip0 = (egressRecord 8 false txJrn chip0).fst) ∧
        (txJrn.bytes.length < 256)) ∧
      ((0 = cxOf 8) ∧
        (txJrn.journals = true) ∧
        (txJrn.recDone = false) ∧
        (true = true ∨ 256 ≤ txJrn.bytes.length) ∧
        ((chip0.underTx txJrn).liveFlag (jrnPage 0) 64 17 = true)) ∧
      (((let __src := txJrn;
            { kind := __src.kind, tag := __src.tag, cls := __src.cls, len := __src.len, reqAt := __src.reqAt,
              cfg := __src.cfg, cur := __src.cur, group := __src.group, late := __src.late,
              arrived := __src.arrived, word := __src.word, bytes := __src.bytes, whole := true, ptp := __src.ptp,
              goal := __src.goal, edited := __src.edited, launch := __src.launch, stamp := __src.stamp,
              unlocked := __src.unlocked, recDone := __src.recDone, seq := some (RecRef.seq 3), cap := __src.cap,
              dead := __src.dead, ecc := __src.ecc : TxFrame }).seq =
          some (RecRef.seq 3)) ∧
        ((let __src := txJrn;
            { kind := __src.kind, tag := __src.tag, cls := __src.cls, len := __src.len, reqAt := __src.reqAt,
              cfg := __src.cfg, cur := __src.cur, group := __src.group, late := __src.late,
              arrived := __src.arrived, word := __src.word, bytes := __src.bytes, whole := true, ptp := __src.ptp,
              goal := __src.goal, edited := __src.edited, launch := __src.launch, stamp := __src.stamp,
              unlocked := __src.unlocked, recDone := __src.recDone, seq := some (RecRef.seq 3), cap := __src.cap,
              dead := __src.dead, ecc := __src.ecc : TxFrame }).whole =
          true) ∧
        ((let __src := txJrn;
            { kind := __src.kind, tag := __src.tag, cls := __src.cls, len := __src.len, reqAt := __src.reqAt,
              cfg := __src.cfg, cur := __src.cur, group := __src.group, late := __src.late,
              arrived := __src.arrived, word := __src.word, bytes := __src.bytes, whole := true, ptp := __src.ptp,
              goal := __src.goal, edited := __src.edited, launch := __src.launch, stamp := __src.stamp,
              unlocked := __src.unlocked, recDone := __src.recDone, seq := some (RecRef.seq 3), cap := __src.cap,
              dead := __src.dead, ecc := __src.ecc : TxFrame }).cap =
          none) ∧
        (queued
            (let __src := txJrn;
            { kind := __src.kind, tag := __src.tag, cls := __src.cls, len := __src.len, reqAt := __src.reqAt,
              cfg := __src.cfg, cur := __src.cur, group := __src.group, late := __src.late,
              arrived := __src.arrived, word := __src.word, bytes := __src.bytes, whole := true, ptp := __src.ptp,
              goal := __src.goal, edited := __src.edited, launch := __src.launch, stamp := __src.stamp,
              unlocked := __src.unlocked, recDone := __src.recDone, seq := some (RecRef.seq 3), cap := __src.cap,
              dead := __src.dead, ecc := __src.ecc : TxFrame }) =
          true)) ∧
      (((sWr gMore jMore).ready 1) ∧
        (jrnRing (sWr gMore jMore).chip 1 = some (2050, gMore)) ∧
        (1 = nextRec ((sWr gMore jMore).chip.jrnOf 1)) ∧
        (((sWr gMore jMore).chip.jrnOf 1).buf[1]? = some (rec0 3)) ∧
        (rec0 3 ≠ []) ∧
        (0 < gMore.fill) ∧
        (leBytes 8 16384 ++ leBytes 2 144 = ((List.drop (jobEnts gMore - 1) gMore.ents).head?.getD none).getD []) ∧
        ((gMore.fill + 1) * 48 < memNat (leBytes 8 16384 ++ leBytes 2 144) 8 2)) ∧
      ((sOneRec.ready 1) ∧
        (jrnRing sOneRec.chip 1 = some (2050, gOpen)) ∧
        (0 = nextRec (sOneRec.chip.jrnOf 1)) ∧
        ((sOneRec.chip.jrnOf 1).buf[0]? = some (rec0 1)) ∧
        (rec0 1 ≠ []) ∧
        (gOpen.fill = 0) ∧
        (freeEnts gOpen = [some buf0]) ∧
        (buf0 ≠ []) ∧
        (bufOk 3 buf0 = true) ∧
        (96 ≤ memNat buf0 8 2) ∧
        (sOneRec.chip.accepting (dmaPage 2050) = true)) ∧
      ((sFull.ready (ringCx ↑2050)) ∧
        (sFull.chip.ring ↑2050 =
          some
            (let __src := gFill;
            { kind := __src.kind, size := __src.size, owner := __src.owner, base := __src.base, wb := __src.wb,
              why := __src.why, ents := __src.ents, jobs := __src.jobs, jobNo := __src.jobNo, done := __src.done,
              batch := __src.batch, fail := __src.fail, fill := 1, fillT := 63, first := __src.first,
              gap := __src.gap, capWait := __src.capWait, evs := __src.evs, rxq := __src.rxq, wiped := __src.wiped :
              Ring })) ∧
        ((let __src := gFill;
            { kind := __src.kind, size := __src.size, owner := __src.owner, base := __src.base, wb := __src.wb,
              why := __src.why, ents := __src.ents, jobs := __src.jobs, jobNo := __src.jobNo, done := __src.done,
              batch := __src.batch, fail := __src.fail, fill := 1, fillT := 63, first := __src.first,
              gap := __src.gap, capWait := __src.capWait, evs := __src.evs, rxq := __src.rxq, wiped := __src.wiped :
              Ring }).kind =
          3) ∧
        (0 <
          (let __src := gFill;
            { kind := __src.kind, size := __src.size, owner := __src.owner, base := __src.base, wb := __src.wb,
              why := __src.why, ents := __src.ents, jobs := __src.jobs, jobNo := __src.jobNo, done := __src.done,
              batch := __src.batch, fail := __src.fail, fill := 1, fillT := 63, first := __src.first,
              gap := __src.gap, capWait := __src.capWait, evs := __src.evs, rxq := __src.rxq, wiped := __src.wiped :
              Ring }).fill) ∧
        ((let __src := gFill;
            { kind := __src.kind, size := __src.size, owner := __src.owner, base := __src.base, wb := __src.wb,
              why := __src.why, ents := __src.ents, jobs := __src.jobs, jobNo := __src.jobNo, done := __src.done,
              batch := __src.batch, fail := __src.fail, fill := 1, fillT := 63, first := __src.first,
              gap := __src.gap, capWait := __src.capWait, evs := __src.evs, rxq := __src.rxq, wiped := __src.wiped :
              Ring }).fillT <
          sFull.clk.turn) ∧
        (List.find? (fun j => j.res.isNone && !j.lost)
            (let __src := gFill;
              { kind := __src.kind, size := __src.size, owner := __src.owner, base := __src.base, wb := __src.wb,
                why := __src.why, ents := __src.ents, jobs := __src.jobs, jobNo := __src.jobNo, done := __src.done,
                batch := __src.batch, fail := __src.fail, fill := 1, fillT := 63, first := __src.first,
                gap := __src.gap, capWait := __src.capWait, evs := __src.evs, rxq := __src.rxq,
                wiped := __src.wiped : Ring }).jobs =
          some { id := 0, idx := 0, n := 1 : RJob })) := by
  refine ⟨?_, ?_, ?_, ?_, ?_, ?_, ?_, ?_, ?_⟩
  all_goals
    try simp only [State.ready]
    decide +kernel

theorem witness_KeySlotsLoadAndZeroize :
      ((sInUse.writable Page.sel) ∧
        (sInUse.chip.keyLoad = none) ∧
        (slotInUse sInUse.chip ↑0 = false)) ∧
      ((sInUse.writable Page.sel) ∧
        (sInUse.chip.keyLoad = none) ∧
        (slotInUse sInUse.chip ↑2 = true)) ∧
      ((sInUse.writable Page.sel) ∧
        (sInUse.chip.keyLoad = none)) ∧
      ((sLoading.powered) ∧
        (sLoading.chip.keyLoad = some (↑2, key0, false))) := by
  refine ⟨?_, ?_, ?_, ?_⟩
  all_goals
    try simp only [State.writable, State.powered]
    decide +kernel

theorem witness_FunctionsAndRingsStartAndStop :
      (((sFunc id).writable Page.func) ∧
        (¬↑63 ∈ (sFunc id).chip.funcOn) ∧
        (¬↑63 ∈ (sFunc id).chip.funcStop)) ∧
      ((sOwned.writable Page.func) ∧
        (funcRuns sOwned.chip ↑63 = true)) ∧
      ((sAlone.writable Page.func) ∧
        (funcRuns sAlone.chip ↑63 = true)) ∧
      ((sEnding.powered) ∧
        (↑63 ∈ sEnding.chip.funcStop) ∧
        (ringsOf sEnding.chip ↑63 = []) ∧
        (hostScan sEnding.chip ↑63 = false)) ∧
      (((sRing 1 gRx).chip.ring ↑2050 = some gRx) ∧
        ((sRing 1 gRx).writable (dmaPage ↑2050)) ∧
        (ringState (sRing 1 gRx).chip ↑2050 = 1)) ∧
      (((sRing 2
                  (let __src := gRx;
                  { kind := __src.kind, size := __src.size, owner := __src.owner, base := __src.base,
                    wb := __src.wb, why := some StopWhy.disabled, ents := __src.ents, jobs := __src.jobs,
                    jobNo := __src.jobNo, done := __src.done, batch := __src.batch, fail := __src.fail,
                    fill := __src.fill, fillT := __src.fillT, first := __src.first, gap := __src.gap,
                    capWait := __src.capWait, evs := __src.evs, rxq := __src.rxq, wiped := __src.wiped :
                    Ring })).chip.ring
            ↑2050 =
          some
            (let __src := gRx;
            { kind := __src.kind, size := __src.size, owner := __src.owner, base := __src.base, wb := __src.wb,
              why := some StopWhy.disabled, ents := __src.ents, jobs := __src.jobs, jobNo := __src.jobNo,
              done := __src.done, batch := __src.batch, fail := __src.fail, fill := __src.fill,
              fillT := __src.fillT, first := __src.first, gap := __src.gap, capWait := __src.capWait,
              evs := __src.evs, rxq := __src.rxq, wiped := __src.wiped : Ring })) ∧
        ((sRing 2
              (let __src := gRx;
              { kind := __src.kind, size := __src.size, owner := __src.owner, base := __src.base, wb := __src.wb,
                why := some StopWhy.disabled, ents := __src.ents, jobs := __src.jobs, jobNo := __src.jobNo,
                done := __src.done, batch := __src.batch, fail := __src.fail, fill := __src.fill,
                fillT := __src.fillT, first := __src.first, gap := __src.gap, capWait := __src.capWait,
                evs := __src.evs, rxq := __src.rxq, wiped := __src.wiped : Ring })).ready
          (ringCx ↑2050)) ∧
        (ringState
            (sRing 2
                (let __src := gRx;
                { kind := __src.kind, size := __src.size, owner := __src.owner, base := __src.base, wb := __src.wb,
                  why := some StopWhy.disabled, ents := __src.ents, jobs := __src.jobs, jobNo := __src.jobNo,
                  done := __src.done, batch := __src.batch, fail := __src.fail, fill := __src.fill,
                  fillT := __src.fillT, first := __src.first, gap := __src.gap, capWait := __src.capWait,
                  evs := __src.evs, rxq := __src.rxq, wiped := __src.wiped : Ring })).chip
            ↑2050 =
          2) ∧
        (txInFlight
            (sRing 2
                (let __src := gRx;
                { kind := __src.kind, size := __src.size, owner := __src.owner, base := __src.base, wb := __src.wb,
                  why := some StopWhy.disabled, ents := __src.ents, jobs := __src.jobs, jobNo := __src.jobNo,
                  done := __src.done, batch := __src.batch, fail := __src.fail, fill := __src.fill,
                  fillT := __src.fillT, first := __src.first, gap := __src.gap, capWait := __src.capWait,
                  evs := __src.evs, rxq := __src.rxq, wiped := __src.wiped : Ring })).chip
            ↑2050 =
          false) ∧
        ((let __src := gRx;
            { kind := __src.kind, size := __src.size, owner := __src.owner, base := __src.base, wb := __src.wb,
              why := some StopWhy.disabled, ents := __src.ents, jobs := __src.jobs, jobNo := __src.jobNo,
              done := __src.done, batch := __src.batch, fail := __src.fail, fill := __src.fill,
              fillT := __src.fillT, first := __src.first, gap := __src.gap, capWait := __src.capWait,
              evs := __src.evs, rxq := __src.rxq, wiped := __src.wiped : Ring }).jobs =
          []) ∧
        (kvSorted
            (sRing 2
                  (let __src := gRx;
                  { kind := __src.kind, size := __src.size, owner := __src.owner, base := __src.base,
                    wb := __src.wb, why := some StopWhy.disabled, ents := __src.ents, jobs := __src.jobs,
                    jobNo := __src.jobNo, done := __src.done, batch := __src.batch, fail := __src.fail,
                    fill := __src.fill, fillT := __src.fillT, first := __src.first, gap := __src.gap,
                    capWait := __src.capWait, evs := __src.evs, rxq := __src.rxq, wiped := __src.wiped :
                    Ring })).chip.rings =
          true)) ∧
      (((sRing 2
                  (let __src := gRx;
                  { kind := __src.kind, size := __src.size, owner := __src.owner, base := __src.base,
                    wb := __src.wb, why := some StopWhy.disabled, ents := __src.ents, jobs := __src.jobs,
                    jobNo := __src.jobNo, done := __src.done, batch := __src.batch, fail := __src.fail,
                    fill := __src.fill, fillT := __src.fillT, first := __src.first, gap := __src.gap,
                    capWait := __src.capWait, evs := __src.evs, rxq := __src.rxq, wiped := true : Ring })).chip.ring
            ↑2050 =
          some
            (let __src := gRx;
            { kind := __src.kind, size := __src.size, owner := __src.owner, base := __src.base, wb := __src.wb,
              why := some StopWhy.disabled, ents := __src.ents, jobs := __src.jobs, jobNo := __src.jobNo,
              done := __src.done, batch := __src.batch, fail := __src.fail, fill := __src.fill,
              fillT := __src.fillT, first := __src.first, gap := __src.gap, capWait := __src.capWait,
              evs := __src.evs, rxq := __src.rxq, wiped := true : Ring })) ∧
        ((sRing 2
              (let __src := gRx;
              { kind := __src.kind, size := __src.size, owner := __src.owner, base := __src.base, wb := __src.wb,
                why := some StopWhy.disabled, ents := __src.ents, jobs := __src.jobs, jobNo := __src.jobNo,
                done := __src.done, batch := __src.batch, fail := __src.fail, fill := __src.fill,
                fillT := __src.fillT, first := __src.first, gap := __src.gap, capWait := __src.capWait,
                evs := __src.evs, rxq := __src.rxq, wiped := true : Ring })).ready
          (ringCx ↑2050)) ∧
        (ringState
            (sRing 2
                (let __src := gRx;
                { kind := __src.kind, size := __src.size, owner := __src.owner, base := __src.base, wb := __src.wb,
                  why := some StopWhy.disabled, ents := __src.ents, jobs := __src.jobs, jobNo := __src.jobNo,
                  done := __src.done, batch := __src.batch, fail := __src.fail, fill := __src.fill,
                  fillT := __src.fillT, first := __src.first, gap := __src.gap, capWait := __src.capWait,
                  evs := __src.evs, rxq := __src.rxq, wiped := true : Ring })).chip
            ↑2050 =
          2) ∧
        (txInFlight
            (sRing 2
                (let __src := gRx;
                { kind := __src.kind, size := __src.size, owner := __src.owner, base := __src.base, wb := __src.wb,
                  why := some StopWhy.disabled, ents := __src.ents, jobs := __src.jobs, jobNo := __src.jobNo,
                  done := __src.done, batch := __src.batch, fail := __src.fail, fill := __src.fill,
                  fillT := __src.fillT, first := __src.first, gap := __src.gap, capWait := __src.capWait,
                  evs := __src.evs, rxq := __src.rxq, wiped := true : Ring })).chip
            ↑2050 =
          false) ∧
        ((let __src := gRx;
            { kind := __src.kind, size := __src.size, owner := __src.owner, base := __src.base, wb := __src.wb,
              why := some StopWhy.disabled, ents := __src.ents, jobs := __src.jobs, jobNo := __src.jobNo,
              done := __src.done, batch := __src.batch, fail := __src.fail, fill := __src.fill,
              fillT := __src.fillT, first := __src.first, gap := __src.gap, capWait := __src.capWait,
              evs := __src.evs, rxq := __src.rxq, wiped := true : Ring }).jobs =
          []) ∧
        (kvSorted
            (sRing 2
                  (let __src := gRx;
                  { kind := __src.kind, size := __src.size, owner := __src.owner, base := __src.base,
                    wb := __src.wb, why := some StopWhy.disabled, ents := __src.ents, jobs := __src.jobs,
                    jobNo := __src.jobNo, done := __src.done, batch := __src.batch, fail := __src.fail,
                    fill := __src.fill, fillT := __src.fillT, first := __src.first, gap := __src.gap,
                    capWait := __src.capWait, evs := __src.evs, rxq := __src.rxq, wiped := true :
                    Ring })).chip.rings =
          true)) ∧
      ((sReset1.chip.ring ↑2050 =
          some
            (let __src := gOf 1;
            { kind := __src.kind, size := __src.size, owner := __src.owner, base := __src.base, wb := __src.wb,
              why := some StopWhy.reset, ents := [none, some buf0], jobs := __src.jobs, jobNo := __src.jobNo,
              done := __src.done, batch := __src.batch, fail := __src.fail, fill := __src.fill,
              fillT := __src.fillT, first := __src.first, gap := __src.gap, capWait := __src.capWait,
              evs := __src.evs, rxq := __src.rxq, wiped := __src.wiped : Ring })) ∧
        (sReset1.ready (ringCx ↑2050)) ∧
        (ringState sReset1.chip ↑2050 = 2) ∧
        (txInFlight sReset1.chip ↑2050 = false) ∧
        ((let __src := gOf 1;
            { kind := __src.kind, size := __src.size, owner := __src.owner, base := __src.base, wb := __src.wb,
              why := some StopWhy.reset, ents := [none, some buf0], jobs := __src.jobs, jobNo := __src.jobNo,
              done := __src.done, batch := __src.batch, fail := __src.fail, fill := __src.fill,
              fillT := __src.fillT, first := __src.first, gap := __src.gap, capWait := __src.capWait,
              evs := __src.evs, rxq := __src.rxq, wiped := __src.wiped : Ring }).jobs =
          []) ∧
        (kvSorted sReset1.chip.rings = true)) := by
  refine ⟨?_, ?_, ?_, ?_, ?_, ?_, ?_, ?_⟩
  all_goals
    try simp only [State.writable, State.ready, State.powered]
    decide +kernel

theorem witness_DoorbellsAndAcks :
      (((sRing 0 (gOf 1)).writable (dmaPage ↑2050)) ∧
        (ringState (sRing 0 (gOf 1)).chip ↑2050 ≠ 1)) ∧
      (((sRing 1 (gOf 1)).writable (dmaPage ↑2050)) ∧
        ((sRing 1 (gOf 1)).chip.ring ↑2050 = some (gOf 1)) ∧
        (ringState (sRing 1 (gOf 1)).chip ↑2050 = 1) ∧
        (64 = 64 % 2 ^ 32) ∧
        (0 = ixSub (ringP (sRing 1 (gOf 1)).chip ↑2050) (ringC (sRing 1 (gOf 1)).chip ↑2050)) ∧
        ((gOf 1).kind ≠ 5) ∧
        (freeEnts (gOf 1) = []) ∧
        (bits (64) 34 32 = 0) ∧
        (ixSub 64 (ringC (sRing 1 (gOf 1)).chip ↑2050) ≤ 2 ^ (gOf 1).size) ∧
        (0 ≤ ixSub 64 (ringC (sRing 1 (gOf 1)).chip ↑2050))) ∧
      (((sRing 1 (gOf 1)).writable (dmaPage ↑2050)) ∧
        ((sRing 1 (gOf 1)).chip.ring ↑2050 = some (gOf 1)) ∧
        (ringState (sRing 1 (gOf 1)).chip ↑2050 = 1) ∧
        (65 = 65 % 2 ^ 32) ∧
        (0 = ixSub (ringP (sRing 1 (gOf 1)).chip ↑2050) (ringC (sRing 1 (gOf 1)).chip ↑2050)) ∧
        ((gOf 1).kind ≠ 5) ∧
        (2 ^ (gOf 1).size < ixSub 65 (ringC (sRing 1 (gOf 1)).chip ↑2050))) ∧
      ((sEvt.writable (dmaPage ↑2050)) ∧
        (sEvt.chip.ring ↑2050 = some (gOf 5)) ∧
        (ringState sEvt.chip ↑2050 = 1) ∧
        (5 = 5 % 2 ^ 32) ∧
        (5 = ixSub (ringP sEvt.chip ↑2050) (ringC sEvt.chip ↑2050)) ∧
        ((gOf 5).kind = 5) ∧
        (ixSub 5 (ringC sEvt.chip ↑2050) ≤ 5)) ∧
      ((sEvt.writable (dmaPage ↑2050)) ∧
        (sEvt.chip.ring ↑2050 = some (gOf 5)) ∧
        (ringState sEvt.chip ↑2050 = 1) ∧
        (4294967295 = 4294967295 % 2 ^ 32) ∧
        (5 = ixSub (ringP sEvt.chip ↑2050) (ringC sEvt.chip ↑2050)) ∧
        ((gOf 5).kind = 5) ∧
        (5 < ixSub 4294967295 (ringC sEvt.chip ↑2050)) ∧
        (ixSub (ringC sEvt.chip ↑2050) 4294967295 ≤ 2 ^ (gOf 5).size)) ∧
      ((sDone.writable (dmaPage ↑2050)) ∧
        (sDone.chip.ring ↑2050 = some (gOf 1)) ∧
        ((gOf 1).kind ≠ 5) ∧
        (ixSub (5) (ringAck sDone.chip ↑2050) ≤
          ixSub (ringC sDone.chip ↑2050) (ringAck sDone.chip ↑2050))) ∧
      ((sDone.writable (dmaPage ↑2050)) ∧
        (sDone.chip.ring ↑2050 = some (gOf 1)) ∧
        ((gOf 1).kind ≠ 5) ∧
        (ixSub (ringC sDone.chip ↑2050) (ringAck sDone.chip ↑2050) <
          ixSub (6) (ringAck sDone.chip ↑2050))) ∧
      ((sBase.powered) ∧
        ([1, 2, 3, 4].length % 4 = 0) ∧
        (↑(128 * 2050 + 124) % 4 = 0) ∧
        (0 < [1, 2, 3, 4].length) ∧
        (↑(128 * 2050 + 124) % 128 + [1, 2, 3, 4].length ≤ 128) ∧
        (↑(128 * 2050 + 124) / 128 < 4096) ∧
        (hasCx sBase.chip.part (ringCx (↑(128 * 2050 + 124) / 128)) = true)) ∧
      ((sBase.powered) ∧
        ([1, 2, 3, 4].length % 4 ≠ 0 ∨ ↑(128 * 4096) % 4 ≠ 0 ∨ 4096 ≤ ↑(128 * 4096) / 128)) ∧
      ((sBase.powered) ∧
        (8 ≤ 8)) ∧
      ((sAge.ready (ringCx ↑2050)) ∧
        (ringAge sAge.chip ↑2050 ≠ 0) ∧
        ((ackOf sAge.chip ↑2050).at_ + ringAge sAge.chip ↑2050 ≤ sAge.clk.turn)) := by
  refine ⟨?_, ?_, ?_, ?_, ?_, ?_, ?_, ?_, ?_, ?_, ?_⟩
  all_goals
    try simp only [State.writable, State.ready, State.powered]
    decide +kernel

theorem witness_EntriesFramesAndHostErrors :
      (((sRing 1
              (let __src := gOf 1;
              { kind := __src.kind, size := __src.size, owner := __src.owner, base := __src.base, wb := __src.wb,
                why := __src.why, ents := [none, none], jobs := __src.jobs, jobNo := __src.jobNo,
                done := __src.done, batch := __src.batch, fail := __src.fail, fill := __src.fill,
                fillT := __src.fillT, first := __src.first, gap := __src.gap, capWait := __src.capWait,
                evs := __src.evs, rxq := __src.rxq, wiped := __src.wiped : Ring })).ready
          (ringCx ↑2050)) ∧
        ((sRing 1
                  (let __src := gOf 1;
                  { kind := __src.kind, size := __src.size, owner := __src.owner, base := __src.base,
                    wb := __src.wb, why := __src.why, ents := [none, none], jobs := __src.jobs,
                    jobNo := __src.jobNo, done := __src.done, batch := __src.batch, fail := __src.fail,
                    fill := __src.fill, fillT := __src.fillT, first := __src.first, gap := __src.gap,
                    capWait := __src.capWait, evs := __src.evs, rxq := __src.rxq, wiped := __src.wiped :
                    Ring })).chip.ring
            ↑2050 =
          some
            (let __src := gOf 1;
            { kind := __src.kind, size := __src.size, owner := __src.owner, base := __src.base, wb := __src.wb,
              why := __src.why, ents := [none, none], jobs := __src.jobs, jobNo := __src.jobNo, done := __src.done,
              batch := __src.batch, fail := __src.fail, fill := __src.fill, fillT := __src.fillT,
              first := __src.first, gap := __src.gap, capWait := __src.capWait, evs := __src.evs, rxq := __src.rxq,
              wiped := __src.wiped : Ring })) ∧
        (ringState
            (sRing 1
                (let __src := gOf 1;
                { kind := __src.kind, size := __src.size, owner := __src.owner, base := __src.base, wb := __src.wb,
                  why := __src.why, ents := [none, none], jobs := __src.jobs, jobNo := __src.jobNo,
                  done := __src.done, batch := __src.batch, fail := __src.fail, fill := __src.fill,
                  fillT := __src.fillT, first := __src.first, gap := __src.gap, capWait := __src.capWait,
                  evs := __src.evs, rxq := __src.rxq, wiped := __src.wiped : Ring })).chip
            ↑2050 =
          1) ∧
        ((let __src := gOf 1;
            { kind := __src.kind, size := __src.size, owner := __src.owner, base := __src.base, wb := __src.wb,
              why := __src.why, ents := [none, none], jobs := __src.jobs, jobNo := __src.jobNo, done := __src.done,
              batch := __src.batch, fail := __src.fail, fill := __src.fill, fillT := __src.fillT,
              first := __src.first, gap := __src.gap, capWait := __src.capWait, evs := __src.evs, rxq := __src.rxq,
              wiped := __src.wiped : Ring }).kind ∈
          [1, 2, 3]) ∧
        ((let __src := gOf 1;
            { kind := __src.kind, size := __src.size, owner := __src.owner, base := __src.base, wb := __src.wb,
              why := __src.why, ents := [none, none], jobs := __src.jobs, jobNo := __src.jobNo, done := __src.done,
              batch := __src.batch, fail := __src.fail, fill := __src.fill, fillT := __src.fillT,
              first := __src.first, gap := __src.gap, capWait := __src.capWait, evs := __src.evs, rxq := __src.rxq,
              wiped := __src.wiped : Ring }).jobs =
          []) ∧
        ((let __src := gOf 1;
            { kind := __src.kind, size := __src.size, owner := __src.owner, base := __src.base, wb := __src.wb,
              why := __src.why, ents := [none, none], jobs := __src.jobs, jobNo := __src.jobNo, done := __src.done,
              batch := __src.batch, fail := __src.fail, fill := __src.fill, fillT := __src.fillT,
              first := __src.first, gap := __src.gap, capWait := __src.capWait, evs := __src.evs, rxq := __src.rxq,
              wiped := __src.wiped : Ring }).ents =
          [none, none]) ∧
        (fetchTurn
            (sRing 1
                (let __src := gOf 1;
                { kind := __src.kind, size := __src.size, owner := __src.owner, base := __src.base, wb := __src.wb,
                  why := __src.why, ents := [none, none], jobs := __src.jobs, jobNo := __src.jobNo,
                  done := __src.done, batch := __src.batch, fail := __src.fail, fill := __src.fill,
                  fillT := __src.fillT, first := __src.first, gap := __src.gap, capWait := __src.capWait,
                  evs := __src.evs, rxq := __src.rxq, wiped := __src.wiped : Ring })).chip
            (ringCx ↑2050) =
          some ↑2050) ∧
        (bufOk
            (let __src := gOf 1;
              { kind := __src.kind, size := __src.size, owner := __src.owner, base := __src.base, wb := __src.wb,
                why := __src.why, ents := [none, none], jobs := __src.jobs, jobNo := __src.jobNo,
                done := __src.done, batch := __src.batch, fail := __src.fail, fill := __src.fill,
                fillT := __src.fillT, first := __src.first, gap := __src.gap, capWait := __src.capWait,
                evs := __src.evs, rxq := __src.rxq, wiped := __src.wiped : Ring }).kind
            (slice buf0 0 32) =
          true)) ∧
      ((sRotated.ready (ringCx ↑2050)) ∧
        (sRotated.chip.ring ↑2050 =
          some
            (let __src := gOf 1;
            { kind := __src.kind, size := __src.size, owner := __src.owner, base := __src.base, wb := __src.wb,
              why := __src.why, ents := [none, none], jobs := __src.jobs, jobNo := __src.jobNo, done := __src.done,
              batch := __src.batch, fail := __src.fail, fill := __src.fill, fillT := __src.fillT,
              first := __src.first, gap := __src.gap, capWait := __src.capWait, evs := __src.evs, rxq := __src.rxq,
              wiped := __src.wiped : Ring })) ∧
        (ringState sRotated.chip ↑2050 = 1) ∧
        ((let __src := gOf 1;
            { kind := __src.kind, size := __src.size, owner := __src.owner, base := __src.base, wb := __src.wb,
              why := __src.why, ents := [none, none], jobs := __src.jobs, jobNo := __src.jobNo, done := __src.done,
              batch := __src.batch, fail := __src.fail, fill := __src.fill, fillT := __src.fillT,
              first := __src.first, gap := __src.gap, capWait := __src.capWait, evs := __src.evs, rxq := __src.rxq,
              wiped := __src.wiped : Ring }).kind ∈
          [1, 2, 3]) ∧
        ((let __src := gOf 1;
            { kind := __src.kind, size := __src.size, owner := __src.owner, base := __src.base, wb := __src.wb,
              why := __src.why, ents := [none, none], jobs := __src.jobs, jobNo := __src.jobNo, done := __src.done,
              batch := __src.batch, fail := __src.fail, fill := __src.fill, fillT := __src.fillT,
              first := __src.first, gap := __src.gap, capWait := __src.capWait, evs := __src.evs, rxq := __src.rxq,
              wiped := __src.wiped : Ring }).jobs =
          []) ∧
        ((let __src := gOf 1;
            { kind := __src.kind, size := __src.size, owner := __src.owner, base := __src.base, wb := __src.wb,
              why := __src.why, ents := [none, none], jobs := __src.jobs, jobNo := __src.jobNo, done := __src.done,
              batch := __src.batch, fail := __src.fail, fill := __src.fill, fillT := __src.fillT,
              first := __src.first, gap := __src.gap, capWait := __src.capWait, evs := __src.evs, rxq := __src.rxq,
              wiped := __src.wiped : Ring }).ents =
          [none, none]) ∧
        (fetchTurn sRotated.chip (ringCx ↑2050) = some ↑2050) ∧
        (bufOk
            (let __src := gOf 1;
              { kind := __src.kind, size := __src.size, owner := __src.owner, base := __src.base, wb := __src.wb,
                why := __src.why, ents := [none, none], jobs := __src.jobs, jobNo := __src.jobNo,
                done := __src.done, batch := __src.batch, fail := __src.fail, fill := __src.fill,
                fillT := __src.fillT, first := __src.first, gap := __src.gap, capWait := __src.capWait,
                evs := __src.evs, rxq := __src.rxq, wiped := __src.wiped : Ring }).kind
            (slice buf0 0 32) =
          true)) ∧
      (((sRing 1
              (let __src := gOf 1;
              { kind := __src.kind, size := __src.size, owner := __src.owner, base := __src.base, wb := __src.wb,
                why := __src.why, ents := [none], jobs := __src.jobs, jobNo := __src.jobNo, done := __src.done,
                batch := __src.batch, fail := __src.fail, fill := __src.fill, fillT := __src.fillT,
                first := __src.first, gap := __src.gap, capWait := __src.capWait, evs := __src.evs,
                rxq := __src.rxq, wiped := __src.wiped : Ring })).ready
          (ringCx ↑2050)) ∧
        ((sRing 1
                  (let __src := gOf 1;
                  { kind := __src.kind, size := __src.size, owner := __src.owner, base := __src.base,
                    wb := __src.wb, why := __src.why, ents := [none], jobs := __src.jobs, jobNo := __src.jobNo,
                    done := __src.done, batch := __src.batch, fail := __src.fail, fill := __src.fill,
                    fillT := __src.fillT, first := __src.first, gap := __src.gap, capWait := __src.capWait,
                    evs := __src.evs, rxq := __src.rxq, wiped := __src.wiped : Ring })).chip.ring
            ↑2050 =
          some
            (let __src := gOf 1;
            { kind := __src.kind, size := __src.size, owner := __src.owner, base := __src.base, wb := __src.wb,
              why := __src.why, ents := [none], jobs := __src.jobs, jobNo := __src.jobNo, done := __src.done,
              batch := __src.batch, fail := __src.fail, fill := __src.fill, fillT := __src.fillT,
              first := __src.first, gap := __src.gap, capWait := __src.capWait, evs := __src.evs, rxq := __src.rxq,
              wiped := __src.wiped : Ring })) ∧
        (ringState
            (sRing 1
                (let __src := gOf 1;
                { kind := __src.kind, size := __src.size, owner := __src.owner, base := __src.base, wb := __src.wb,
                  why := __src.why, ents := [none], jobs := __src.jobs, jobNo := __src.jobNo, done := __src.done,
                  batch := __src.batch, fail := __src.fail, fill := __src.fill, fillT := __src.fillT,
                  first := __src.first, gap := __src.gap, capWait := __src.capWait, evs := __src.evs,
                  rxq := __src.rxq, wiped := __src.wiped : Ring })).chip
            ↑2050 =
          1) ∧
        ((let __src := gOf 1;
            { kind := __src.kind, size := __src.size, owner := __src.owner, base := __src.base, wb := __src.wb,
              why := __src.why, ents := [none], jobs := __src.jobs, jobNo := __src.jobNo, done := __src.done,
              batch := __src.batch, fail := __src.fail, fill := __src.fill, fillT := __src.fillT,
              first := __src.first, gap := __src.gap, capWait := __src.capWait, evs := __src.evs, rxq := __src.rxq,
              wiped := __src.wiped : Ring }).kind ∈
          [1, 2, 3]) ∧
        ((let __src := gOf 1;
            { kind := __src.kind, size := __src.size, owner := __src.owner, base := __src.base, wb := __src.wb,
              why := __src.why, ents := [none], jobs := __src.jobs, jobNo := __src.jobNo, done := __src.done,
              batch := __src.batch, fail := __src.fail, fill := __src.fill, fillT := __src.fillT,
              first := __src.first, gap := __src.gap, capWait := __src.capWait, evs := __src.evs, rxq := __src.rxq,
              wiped := __src.wiped : Ring }).jobs =
          []) ∧
        (0 < 1) ∧
        ((let __src := gOf 1;
            { kind := __src.kind, size := __src.size, owner := __src.owner, base := __src.base, wb := __src.wb,
              why := __src.why, ents := [none], jobs := __src.jobs, jobNo := __src.jobNo, done := __src.done,
              batch := __src.batch, fail := __src.fail, fill := __src.fill, fillT := __src.fillT,
              first := __src.first, gap := __src.gap, capWait := __src.capWait, evs := __src.evs, rxq := __src.rxq,
              wiped := __src.wiped : Ring }).ents =
          [none])) ∧
      (((sRing 1 gRx).ready (ringCx ↑2050)) ∧
        ((sRing 1 gRx).chip.ring ↑2050 = some gRx) ∧
        (ringState (sRing 1 gRx).chip ↑2050 = 1) ∧
        (gRx.kind ∈ [1, 2, 3]) ∧
        (gRx.jobs = []) ∧
        (gRx.kind = 1) ∧
        (gRx.ents = [some buf0]) ∧
        (gRx.rxq = [rxi]) ∧
        (gRx.wb = 0) ∧
        (buf0 ≠ []) ∧
        (bufOk 1 buf0 = true) ∧
        (0 < rxi.bytes.length) ∧
        (rxi.bytes.length ≤ memNat buf0 8 2) ∧
        ((sRing 1 gRx).chip.accepting (dmaPage ↑2050) = true)) ∧
      (((sRing 1 gRx).ready (ringCx ↑2050)) ∧
        ((sRing 1 gRx).chip.ring ↑2050 = some gRx)) ∧
      ((sBase.ready 1)) ∧
      (((sTxJob 4).ready (ringCx ↑3)) ∧
        ((sTxJob 4).chip.ring ↑3 = some gTx) ∧
        (ringState (sTxJob 4).chip ↑3 = 1) ∧
        (gTx.kind = 0) ∧
        ((sTxJob 4).chip.accepting (dmaPage ↑3) = true) ∧
        (readJob 32 (2 ^ gTx.size) (freeEnts gTx) = JobRead.good 1) ∧
        (jobOk (sTxJob 4).chip (↑3) gTx 1 = true) ∧
        ((freeEnts gTx).length = 1) ∧
        ((freeEnts gTx).head? = some (some (txEnt 8))) ∧
        (60 = (List.map (fun e => memNat (e.getD []) 8 2) (List.take 1 (freeEnts gTx))).sum) ∧
        (txStaged (sTxJob 4).chip (ringCx ↑3) + 60 ≤ 524288) ∧
        (txPaused (sTxJob 4).clk (sTxJob 4).chip ↑3 = false) ∧
        (memNat (txEnt 8) 12 2 = ↑8) ∧
        ((kvGet [] (sTxJob 4).chip.hostQ ↑8).length < 16) ∧
        ((sTxJob 4).chip.isUp 8 = true) ∧
        (portQuiesce (sTxJob 4).chip 8 = false)) ∧
      (((sTxJob 5).ready (ringCx ↑3)) ∧
        ((sTxJob 5).chip.ring ↑3 = some gTx) ∧
        (ringState (sTxJob 5).chip ↑3 = 1) ∧
        (gTx.kind = 0) ∧
        ((sTxJob 5).chip.accepting (dmaPage ↑3) = true) ∧
        (readJob 32 (2 ^ gTx.size) (freeEnts gTx) = JobRead.good 1) ∧
        (jobOk (sTxJob 5).chip (↑3) gTx 1 = true) ∧
        ((freeEnts gTx).length = 1) ∧
        ((freeEnts gTx).head? = some (some (txEnt 8))) ∧
        (60 = (List.map (fun e => memNat (e.getD []) 8 2) (List.take 1 (freeEnts gTx))).sum) ∧
        (txStaged (sTxJob 5).chip (ringCx ↑3) + 60 ≤ 524288) ∧
        (txPaused (sTxJob 5).clk (sTxJob 5).chip ↑3 = false) ∧
        (memNat (txEnt 8) 12 2 = ↑8) ∧
        ((kvGet [] (sTxJob 5).chip.hostQ ↑8).length < 16) ∧
        ((sTxJob 5).chip.isUp 8 = false ∨ portQuiesce (sTxJob 5).chip 8 = true) ∧
        (gTx.jobs = [])) ∧
      ((sTxCore.ready (ringCx ↑3)) ∧
        (sTxCore.chip.ring ↑3 = some gInj) ∧
        (ringState sTxCore.chip ↑3 = 1) ∧
        (gInj.kind = 0) ∧
        (sTxCore.chip.accepting (dmaPage ↑3) = true) ∧
        (readJob 32 (2 ^ gInj.size) (freeEnts gInj) = JobRead.good 1) ∧
        (jobOk sTxCore.chip (↑3) gInj 1 = true) ∧
        ((freeEnts gInj).head? = some (some (txEnt (2 ^ 15 + 31)))) ∧
        (60 = (List.map (fun e => memNat (e.getD []) 8 2) (List.take 1 (freeEnts gInj))).sum) ∧
        (txStaged sTxCore.chip (ringCx ↑3) + 60 ≤ 524288) ∧
        (txPaused sTxCore.clk sTxCore.chip ↑3 = false) ∧
        (memNat (txEnt (2 ^ 15 + 31)) 12 2 = 2 ^ 15 + ↑31)) ∧
      (((sCore 512).ready (cxOfPg 63)) ∧
        (kvGet [] (sCore 512).chip.coreQ ↑63 = [hst]) ∧
        (queueLen (sCore 512).chip ↑63 < 8) ∧
        (busFree (sCore 512).chip ↑63 = true) ∧
        (512 ≤ (placesOf (sCore 512).chip ↑63).length)) ∧
      (((sCore 0).ready (cxOfPg 63)) ∧
        (kvGet [] (sCore 0).chip.coreQ ↑63 = [hst]) ∧
        (queueLen (sCore 0).chip ↑63 < 8) ∧
        (busFree (sCore 0).chip ↑63 = true) ∧
        ((placesOf (sCore 0).chip ↑63).length < 512) ∧
        (segmentsOf (sCore 0).chip ↑63 + ceilDiv (max 60 hst.bytes.length + 4) 64 ≤ 1024) ∧
        ((sCore 0).chip.accepting (prsPage (Fin.ofNat 8 (↑63 / 8))) = true)) := by
  refine ⟨?_, ?_, ?_, ?_, ?_, ?_, ?_, ?_, ?_, ?_, ?_⟩
  all_goals
    try simp only [State.ready]
    decide +kernel

theorem witness_CommandRingEntriesAct :
      ((1 = ringCx ↑2050) ∧
        ((sCmd id (gCmd (telEnt 1 32))).ready 1) ∧
        (cmdNext (sCmd id (gCmd (telEnt 1 32))).chip ↑2050 = some (gCmd (telEnt 1 32), cmdJob 2, telEnt 1 32)) ∧
        ((sCmd id (gCmd (telEnt 1 32))).chip.ring ↑2050 = some (gCmd (telEnt 1 32))) ∧
        ((gCmd (telEnt 1 32)).fail ≠ 2) ∧
        ((sCmd id (gCmd (telEnt 1 32))).chip.latent = []) ∧
        (cmdEntryOk (telEnt 1 32) = true) ∧
        (∀ (n : List Byte),
          (jobEntries (gCmd (telEnt 1 32)) (cmdJob 2).id)[(gCmd (telEnt 1 32)).done.length + 1]? = some n →
            cmdEntryOk n = true) ∧
        ((gCmd (telEnt 1 32)).done.length + 1 < (cmdJob 2).n) ∧
        (sesEntry (telEnt 1 32) = false →
          jobClash (jobKeys (sCmd id (gCmd (telEnt 1 32))).chip (↑2050) (gCmd (telEnt 1 32)) (cmdJob 2) []) = false) ∧
        (memNat (telEnt 1 32) 22 1 = 1) ∧
        (cmdOwner (sCmd id (gCmd (telEnt 1 32))).chip (↑2050) (telEnt 1 32) = some (telPage 1)) ∧
        (0 = memNat (telEnt 1 32) 13 1) ∧
        (65535 = memNat (telEnt 1 32) 16 3) ∧
        (memNat (telEnt 1 32) 20 2 = 1) ∧
        (tableOf (sCmd id (gCmd (telEnt 1 32))).chip.part (telPage 1) 0 = some tel0) ∧
        (0 < tel0.bytes) ∧
        (memNat (telEnt 1 32) 8 4 = tel0.bytes) ∧
        (tableCheck (sCmd id (gCmd (telEnt 1 32))).chip (some (telPage 1)) 0 65535 true = 0) ∧
        (plainTable (telPage 1) 0 = true)) ∧
      ((1 = ringCx ↑2050) ∧
        ((sCmd id (gCmd (telEnt 1 32))).ready 1) ∧
        (cmdNext (sCmd id (gCmd (telEnt 1 32))).chip ↑2050 = some (gCmd (telEnt 1 32), cmdJob 2, telEnt 1 32)) ∧
        ((sCmd id (gCmd (telEnt 1 32))).chip.ring ↑2050 = some (gCmd (telEnt 1 32))) ∧
        ((gCmd (telEnt 1 32)).fail ≠ 2) ∧
        ((sCmd id (gCmd (telEnt 1 32))).chip.latent = []) ∧
        (cmdEntryOk (telEnt 1 32) = true) ∧
        (∀ (n : List Byte),
          (jobEntries (gCmd (telEnt 1 32)) (cmdJob 2).id)[(gCmd (telEnt 1 32)).done.length + 1]? = some n →
            cmdEntryOk n = true) ∧
        ((gCmd (telEnt 1 32)).done.length + 1 < (cmdJob 2).n) ∧
        (sesEntry (telEnt 1 32) = false →
          jobClash (jobKeys (sCmd id (gCmd (telEnt 1 32))).chip (↑2050) (gCmd (telEnt 1 32)) (cmdJob 2) []) = false) ∧
        (memNat (telEnt 1 32) 22 1 = 1) ∧
        (cmdOwner (sCmd id (gCmd (telEnt 1 32))).chip (↑2050) (telEnt 1 32) = some (telPage 1)) ∧
        (0 = memNat (telEnt 1 32) 13 1) ∧
        (65535 = memNat (telEnt 1 32) 16 3) ∧
        (memNat (telEnt 1 32) 20 2 = 1) ∧
        (tableOf (sCmd id (gCmd (telEnt 1 32))).chip.part (telPage 1) 0 = some tel0) ∧
        (0 < tel0.bytes) ∧
        (memNat (telEnt 1 32) 8 4 = tel0.bytes) ∧
        (tableCheck (sCmd id (gCmd (telEnt 1 32))).chip (some (telPage 1)) 0 65535 true = 0)) ∧
      ((1 = ringCx ↑2050) ∧
        ((sCmd id (gCmd (cmdEnt 1 32 26 0 65536 1 2))).ready 1) ∧
        (cmdNext (sCmd id (gCmd (cmdEnt 1 32 26 0 65536 1 2))).chip ↑2050 =
          some (gCmd (cmdEnt 1 32 26 0 65536 1 2), cmdJob 2, cmdEnt 1 32 26 0 65536 1 2)) ∧
        ((sCmd id (gCmd (cmdEnt 1 32 26 0 65536 1 2))).chip.ring ↑2050 = some (gCmd (cmdEnt 1 32 26 0 65536 1 2))) ∧
        ((gCmd (cmdEnt 1 32 26 0 65536 1 2)).fail ≠ 2) ∧
        ((sCmd id (gCmd (cmdEnt 1 32 26 0 65536 1 2))).chip.latent = []) ∧
        (cmdEntryOk (cmdEnt 1 32 26 0 65536 1 2) = true) ∧
        (∀ (n : List Byte),
          (jobEntries (gCmd (cmdEnt 1 32 26 0 65536 1 2))
                  (cmdJob 2).id)[(gCmd (cmdEnt 1 32 26 0 65536 1 2)).done.length + 1]? =
              some n →
            cmdEntryOk n = true) ∧
        ((gCmd (cmdEnt 1 32 26 0 65536 1 2)).done.length + 1 < (cmdJob 2).n) ∧
        (sesEntry (cmdEnt 1 32 26 0 65536 1 2) = false →
          jobClash
              (jobKeys (sCmd id (gCmd (cmdEnt 1 32 26 0 65536 1 2))).chip (↑2050)
                (gCmd (cmdEnt 1 32 26 0 65536 1 2)) (cmdJob 2) []) =
            false) ∧
        (memNat (cmdEnt 1 32 26 0 65536 1 2) 22 1 = 1) ∧
        (cmdOwner (sCmd id (gCmd (cmdEnt 1 32 26 0 65536 1 2))).chip (↑2050) (cmdEnt 1 32 26 0 65536 1 2) =
          some (telPage 1)) ∧
        (0 = memNat (cmdEnt 1 32 26 0 65536 1 2) 13 1) ∧
        (65536 = memNat (cmdEnt 1 32 26 0 65536 1 2) 16 3) ∧
        (memNat (cmdEnt 1 32 26 0 65536 1 2) 20 2 = 1) ∧
        (tableOf (sCmd id (gCmd (cmdEnt 1 32 26 0 65536 1 2))).chip.part (telPage 1) 0 = some tel0) ∧
        (0 < tel0.bytes) ∧
        (memNat (cmdEnt 1 32 26 0 65536 1 2) 8 4 = tel0.bytes) ∧
        (tableCheck (sCmd id (gCmd (cmdEnt 1 32 26 0 65536 1 2))).chip (some (telPage 1)) 0 65536 true = 2) ∧
        (2 ≠ 0)) ∧
      ((1 = ringCx ↑2050) ∧
        ((sCmd id (gCmd (telEnt 2 0))).ready 1) ∧
        (cmdNext (sCmd id (gCmd (telEnt 2 0))).chip ↑2050 = some (gCmd (telEnt 2 0), cmdJob 2, telEnt 2 0)) ∧
        ((sCmd id (gCmd (telEnt 2 0))).chip.ring ↑2050 = some (gCmd (telEnt 2 0))) ∧
        ((gCmd (telEnt 2 0)).fail ≠ 2) ∧
        ((sCmd id (gCmd (telEnt 2 0))).chip.latent = []) ∧
        (cmdEntryOk (telEnt 2 0) = true) ∧
        (∀ (n : List Byte),
          (jobEntries (gCmd (telEnt 2 0)) (cmdJob 2).id)[(gCmd (telEnt 2 0)).done.length + 1]? = some n →
            cmdEntryOk n = true) ∧
        ((gCmd (telEnt 2 0)).done.length + 1 < (cmdJob 2).n) ∧
        (sesEntry (telEnt 2 0) = false →
          jobClash (jobKeys (sCmd id (gCmd (telEnt 2 0))).chip (↑2050) (gCmd (telEnt 2 0)) (cmdJob 2) []) = false) ∧
        (memNat (telEnt 2 0) 22 1 = 2) ∧
        (cmdOwner (sCmd id (gCmd (telEnt 2 0))).chip (↑2050) (telEnt 2 0) = some (telPage 1)) ∧
        (0 = memNat (telEnt 2 0) 13 1) ∧
        (65535 = memNat (telEnt 2 0) 16 3) ∧
        (memNat (telEnt 2 0) 20 2 = 1) ∧
        (tableOf (sCmd id (gCmd (telEnt 2 0))).chip.part (telPage 1) 0 =
          some { rows := 65536, bytes := 32, mode := TMode.plain : TableInfo }) ∧
        (tableCheck (sCmd id (gCmd (telEnt 2 0))).chip (some (telPage 1)) 0 65535 true = 0)) ∧
      ((1 = ringCx ↑2050) ∧
        ((sCmd id (gCmd (telEnt 3 32))).ready 1) ∧
        (cmdNext (sCmd id (gCmd (telEnt 3 32))).chip ↑2050 = some (gCmd (telEnt 3 32), cmdJob 2, telEnt 3 32)) ∧
        ((sCmd id (gCmd (telEnt 3 32))).chip.ring ↑2050 = some (gCmd (telEnt 3 32))) ∧
        ((gCmd (telEnt 3 32)).fail ≠ 2) ∧
        ((sCmd id (gCmd (telEnt 3 32))).chip.latent = []) ∧
        (cmdEntryOk (telEnt 3 32) = true) ∧
        (∀ (n : List Byte),
          (jobEntries (gCmd (telEnt 3 32)) (cmdJob 2).id)[(gCmd (telEnt 3 32)).done.length + 1]? = some n →
            cmdEntryOk n = true) ∧
        ((gCmd (telEnt 3 32)).done.length + 1 < (cmdJob 2).n) ∧
        (sesEntry (telEnt 3 32) = false →
          jobClash (jobKeys (sCmd id (gCmd (telEnt 3 32))).chip (↑2050) (gCmd (telEnt 3 32)) (cmdJob 2) []) = false) ∧
        (memNat (telEnt 3 32) 22 1 = 3) ∧
        (cmdOwner (sCmd id (gCmd (telEnt 3 32))).chip (↑2050) (telEnt 3 32) = some (telPage 1)) ∧
        (0 = memNat (telEnt 3 32) 13 1) ∧
        (65535 = memNat (telEnt 3 32) 16 3) ∧
        (memNat (telEnt 3 32) 20 2 = 1) ∧
        (tableOf (sCmd id (gCmd (telEnt 3 32))).chip.part (telPage 1) 0 = some tel0) ∧
        (0 < tel0.bytes) ∧
        (tel0.bytes ≤ memNat (telEnt 3 32) 8 4) ∧
        (tableCheck (sCmd id (gCmd (telEnt 3 32))).chip (some (telPage 1)) 0 65535 false = 0) ∧
        (tableRead (sCmd id (gCmd (telEnt 3 32))).chip (telPage 1) 0 65535 ≠ [])) ∧
      ((1 = ringCx ↑2050) ∧
        ((sCmd id (gCmd (sesEnt 4 2))).ready 1) ∧
        (cmdNext (sCmd id (gCmd (sesEnt 4 2))).chip ↑2050 = some (gCmd (sesEnt 4 2), cmdJob 2, sesEnt 4 2)) ∧
        ((sCmd id (gCmd (sesEnt 4 2))).chip.ring ↑2050 = some (gCmd (sesEnt 4 2))) ∧
        ((gCmd (sesEnt 4 2)).fail ≠ 2) ∧
        ((sCmd id (gCmd (sesEnt 4 2))).chip.latent = []) ∧
        (cmdEntryOk (sesEnt 4 2) = true) ∧
        (∀ (n : List Byte),
          (jobEntries (gCmd (sesEnt 4 2)) (cmdJob 2).id)[(gCmd (sesEnt 4 2)).done.length + 1]? = some n →
            cmdEntryOk n = true) ∧
        ((gCmd (sesEnt 4 2)).done.length + 1 < (cmdJob 2).n) ∧
        (sesEntry (sesEnt 4 2) = false →
          jobClash (jobKeys (sCmd id (gCmd (sesEnt 4 2))).chip (↑2050) (gCmd (sesEnt 4 2)) (cmdJob 2) [sesBlock]) =
            false) ∧
        (jobClash
            (jobKeys (sCmd id (gCmd (sesEnt 4 2))).chip (↑2050) (gCmd (sesEnt 4 2)) (cmdJob 2)
              [sesBlock, sesBlock]) =
          false) ∧
        (sesOwnerOk (sCmd id (gCmd (sesEnt 4 2))).chip (↑2050) (sesEnt 4 2) = true) ∧
        (memNat (sesEnt 4 2) 8 4 = 64) ∧
        (memNat (slice sesBlock 0 64) 60 4 = 0) ∧
        ((sCmd id (gCmd (sesEnt 4 2))).chip.locked (sesPage 1) = false) ∧
        (sesBatch (↑2050) (gCmd (sesEnt 4 2))
            (hostRead (gCmd (sesEnt 4 2)).owner (memNat (sesEnt 4 2) 0 8) 64
              (sCmd id (gCmd (sesEnt 4 2))).chip.clear) =
          some (taken (sCmd id (gCmd (sesEnt 4 2))) (gCmd (sesEnt 4 2)) (sesEnt 4 2))) ∧
        ((taken (sCmd id (gCmd (sesEnt 4 2))) (gCmd (sesEnt 4 2)) (sesEnt 4 2)).ring ↑2050 =
          some (ringIn (taken (sCmd id (gCmd (sesEnt 4 2))) (gCmd (sesEnt 4 2)) (sesEnt 4 2)))) ∧
        (memNat (sesEnt 4 2) 22 1 = 4) ∧
        ((ringIn (taken (sCmd id (gCmd (sesEnt 4 2))) (gCmd (sesEnt 4 2)) (sesEnt 4 2))).fail = 0) ∧
        (blockOp 1 false sesBlock = blockOp 1 (bit (memNat (sesEnt 4 2) 23 1) 0) (slice sesBlock 0 64)) ∧
        (findKey (sCmd id (gCmd (sesEnt 4 2))).chip 1 (blockOp 1 false sesBlock).key
            (blockOp 1 false sesBlock).profile =
          none) ∧
        (List.find? (sesFree (sCmd id (gCmd (sesEnt 4 2))).chip 1)
            (candidates (blockOp 1 false sesBlock).key (blockOp 1 false sesBlock).profile) =
          some ((candidates sesKey0 0).headD 0))) ∧
      ((1 = ringCx ↑2050) ∧
        ((sCmd sesFull (gCmd (sesEnt 5 2))).ready 1) ∧
        (cmdNext (sCmd sesFull (gCmd (sesEnt 5 2))).chip ↑2050 = some (gCmd (sesEnt 5 2), cmdJob 2, sesEnt 5 2)) ∧
        ((sCmd sesFull (gCmd (sesEnt 5 2))).chip.ring ↑2050 = some (gCmd (sesEnt 5 2))) ∧
        ((gCmd (sesEnt 5 2)).fail ≠ 2) ∧
        ((sCmd sesFull (gCmd (sesEnt 5 2))).chip.latent = []) ∧
        (cmdEntryOk (sesEnt 5 2) = true) ∧
        (∀ (n : List Byte),
          (jobEntries (gCmd (sesEnt 5 2)) (cmdJob 2).id)[(gCmd (sesEnt 5 2)).done.length + 1]? = some n →
            cmdEntryOk n = true) ∧
        ((gCmd (sesEnt 5 2)).done.length + 1 < (cmdJob 2).n) ∧
        (sesEntry (sesEnt 5 2) = false →
          jobClash
              (jobKeys (sCmd sesFull (gCmd (sesEnt 5 2))).chip (↑2050) (gCmd (sesEnt 5 2)) (cmdJob 2) [sesBlock]) =
            false) ∧
        (jobClash
            (jobKeys (sCmd sesFull (gCmd (sesEnt 5 2))).chip (↑2050) (gCmd (sesEnt 5 2)) (cmdJob 2)
              [sesBlock, sesBlock]) =
          false) ∧
        (sesOwnerOk (sCmd sesFull (gCmd (sesEnt 5 2))).chip (↑2050) (sesEnt 5 2) = true) ∧
        (memNat (sesEnt 5 2) 8 4 = 64) ∧
        (memNat (slice sesBlock 0 64) 60 4 = 0) ∧
        ((sCmd sesFull (gCmd (sesEnt 5 2))).chip.locked (sesPage 1) = false) ∧
        (sesBatch (↑2050) (gCmd (sesEnt 5 2))
            (hostRead (gCmd (sesEnt 5 2)).owner (memNat (sesEnt 5 2) 0 8) 64
              (sCmd sesFull (gCmd (sesEnt 5 2))).chip.clear) =
          some (taken (sCmd sesFull (gCmd (sesEnt 5 2))) (gCmd (sesEnt 5 2)) (sesEnt 5 2))) ∧
        ((taken (sCmd sesFull (gCmd (sesEnt 5 2))) (gCmd (sesEnt 5 2)) (sesEnt 5 2)).ring ↑2050 =
          some (ringIn (taken (sCmd sesFull (gCmd (sesEnt 5 2))) (gCmd (sesEnt 5 2)) (sesEnt 5 2)))) ∧
        (memNat (sesEnt 5 2) 22 1 = 5) ∧
        ((ringIn (taken (sCmd sesFull (gCmd (sesEnt 5 2))) (gCmd (sesEnt 5 2)) (sesEnt 5 2))).fail = 0) ∧
        (blockOp 2 false sesBlock = blockOp 2 (bit (memNat (sesEnt 5 2) 23 1) 0) (slice sesBlock 0 64)) ∧
        (findKey (sCmd sesFull (gCmd (sesEnt 5 2))).chip 1 (blockOp 2 false sesBlock).key
            (blockOp 2 false sesBlock).profile =
          some ((candidates sesKey0 0).headD 0)) ∧
        (bits (sesCtl (sCmd sesFull (gCmd (sesEnt 5 2))).chip 1 ((candidates sesKey0 0).headD 0)) 12 11 = 0)) ∧
      ((1 = ringCx ↑2050) ∧
        ((sCmd sesFull (gCmd (sesEnt 7 2))).ready 1) ∧
        (cmdNext (sCmd sesFull (gCmd (sesEnt 7 2))).chip ↑2050 = some (gCmd (sesEnt 7 2), cmdJob 2, sesEnt 7 2)) ∧
        ((sCmd sesFull (gCmd (sesEnt 7 2))).chip.ring ↑2050 = some (gCmd (sesEnt 7 2))) ∧
        ((gCmd (sesEnt 7 2)).fail ≠ 2) ∧
        ((sCmd sesFull (gCmd (sesEnt 7 2))).chip.latent = []) ∧
        (cmdEntryOk (sesEnt 7 2) = true) ∧
        (∀ (n : List Byte),
          (jobEntries (gCmd (sesEnt 7 2)) (cmdJob 2).id)[(gCmd (sesEnt 7 2)).done.length + 1]? = some n →
            cmdEntryOk n = true) ∧
        ((gCmd (sesEnt 7 2)).done.length + 1 < (cmdJob 2).n) ∧
        (sesEntry (sesEnt 7 2) = false →
          jobClash
              (jobKeys (sCmd sesFull (gCmd (sesEnt 7 2))).chip (↑2050) (gCmd (sesEnt 7 2)) (cmdJob 2) [sesBlock]) =
            false) ∧
        (jobClash
            (jobKeys (sCmd sesFull (gCmd (sesEnt 7 2))).chip (↑2050) (gCmd (sesEnt 7 2)) (cmdJob 2)
              [sesBlock, sesBlock]) =
          false) ∧
        (sesOwnerOk (sCmd sesFull (gCmd (sesEnt 7 2))).chip (↑2050) (sesEnt 7 2) = true) ∧
        (memNat (sesEnt 7 2) 8 4 = 64) ∧
        (memNat (slice sesBlock 0 64) 60 4 = 0) ∧
        ((sCmd sesFull (gCmd (sesEnt 7 2))).chip.locked (sesPage 1) = false) ∧
        (sesBatch (↑2050) (gCmd (sesEnt 7 2))
            (hostRead (gCmd (sesEnt 7 2)).owner (memNat (sesEnt 7 2) 0 8) 64
              (sCmd sesFull (gCmd (sesEnt 7 2))).chip.clear) =
          some (taken (sCmd sesFull (gCmd (sesEnt 7 2))) (gCmd (sesEnt 7 2)) (sesEnt 7 2))) ∧
        ((taken (sCmd sesFull (gCmd (sesEnt 7 2))) (gCmd (sesEnt 7 2)) (sesEnt 7 2)).ring ↑2050 =
          some (ringIn (taken (sCmd sesFull (gCmd (sesEnt 7 2))) (gCmd (sesEnt 7 2)) (sesEnt 7 2)))) ∧
        (memNat (sesEnt 7 2) 22 1 = 7) ∧
        ((ringIn (taken (sCmd sesFull (gCmd (sesEnt 7 2))) (gCmd (sesEnt 7 2)) (sesEnt 7 2))).fail ≠ 2) ∧
        (blockOp 4 false sesBlock = blockOp 4 false (slice sesBlock 0 64)) ∧
        (findKey (sCmd sesFull (gCmd (sesEnt 7 2))).chip 1 (blockOp 4 false sesBlock).key
            (blockOp 4 false sesBlock).profile =
          some ((candidates sesKey0 0).headD 0))) ∧
      ((1 = ringCx ↑2050) ∧
        ((sCmd id (gCmd swapEnt)).ready 1) ∧
        (cmdNext (sCmd id (gCmd swapEnt)).chip ↑2050 = some (gCmd swapEnt, cmdJob 2, swapEnt)) ∧
        ((sCmd id (gCmd swapEnt)).chip.ring ↑2050 = some (gCmd swapEnt)) ∧
        ((gCmd swapEnt).fail ≠ 2) ∧
        ((sCmd id (gCmd swapEnt)).chip.latent = []) ∧
        (cmdEntryOk swapEnt = true) ∧
        (∀ (n : List Byte),
          (jobEntries (gCmd swapEnt) (cmdJob 2).id)[(gCmd swapEnt).done.length + 1]? = some n → cmdEntryOk n = true) ∧
        ((gCmd swapEnt).done.length + 1 < (cmdJob 2).n) ∧
        (sesEntry swapEnt = false →
          jobClash (jobKeys (sCmd id (gCmd swapEnt)).chip (↑2050) (gCmd swapEnt) (cmdJob 2) []) = false) ∧
        (5 * 65536 = memNat swapEnt 16 4 &&& 4294902783) ∧
        (memNat swapEnt 22 1 = 8) ∧
        (cmdOwner (sCmd id (gCmd swapEnt)).chip (↑2050) swapEnt = some (slcPage 5)) ∧
        ((sCmd id (gCmd swapEnt)).chip.flag (slcPage 5) 80 31 = false) ∧
        ((sCmd id (gCmd swapEnt)).chip.locked (slcPage 5) = false) ∧
        (kvFind (sCmd id (gCmd swapEnt)).chip.swaps ↑5 = none) ∧
        (bits (5 * 65536) 31 16 ≠ (sCmd id (gCmd swapEnt)).chip.fld (slcPage 5) 68 31 16)) ∧
      ((1 = ringCx ↑2050) ∧
        ((sCmd id gClash).ready 1) ∧
        (cmdNext (sCmd id gClash).chip ↑2050 = some (gClash, cmdJob 3, sesEnt 4 2)) ∧
        ((sCmd id gClash).chip.ring ↑2050 = some gClash) ∧
        (gClash.fail ≠ 2) ∧
        ((sCmd id gClash).chip.latent = []) ∧
        (cmdEntryOk (sesEnt 4 2) = true) ∧
        (∀ (n : List Byte), (jobEntries gClash (cmdJob 3).id)[gClash.done.length + 1]? = some n → cmdEntryOk n = true) ∧
        (gClash.done.length + 1 < (cmdJob 3).n) ∧
        (gClash.fail = 0) ∧
        (gClash.batch = 0) ∧
        (((List.take gClash.done.length (jobEntries gClash (cmdJob 3).id)).all fun e => !cmdEntryOk e) = true) ∧
        (jobClash
            (jobKeys (sCmd id gClash).chip (↑2050) gClash (cmdJob 3)
              (if sesEntry (sesEnt 4 2) = true then [sesBlock, sesBlock, sesBlock] else [sesBlock, sesBlock])) =
          true) ∧
        (memNat (sesEnt 4 2) 22 1 = 6 → 4 ≤ memNat (sesEnt 4 2) 8 4) ∧
        ((memNat (sesEnt 4 2) 22 1,
            Instr.sesInsert 2050 { data := sesBlock, later := [sesBlock, sesBlock] : SesData }) ∈
          [(1, Instr.cmdWrite 2050 { data := sesBlock, later := [sesBlock, sesBlock] : SesData }),
            (2, Instr.cmdInvalidate { ring := 2050, later := [sesBlock, sesBlock] : CmdJob }),
            (3, Instr.cmdRead { ring := 2050, later := [sesBlock, sesBlock] : CmdJob } []),
            (4, Instr.sesInsert 2050 { data := sesBlock, later := [sesBlock, sesBlock] : SesData }),
            (5, Instr.sesDelete 2050 { data := sesBlock, later := [sesBlock, sesBlock] : SesData }),
            (6, Instr.sesFind 2050 { data := sesBlock, later := [sesBlock, sesBlock] : SesData }),
            (7, Instr.sesUpdate 2050 { data := sesBlock, later := [sesBlock, sesBlock] : SesData }),
            (8, Instr.cmdSwap { ring := 2050, later := [sesBlock, sesBlock] : CmdJob })])) ∧
      ((1 = ringCx ↑2050) ∧
        ((sCmd id gClashW).ready 1) ∧
        (cmdNext (sCmd id gClashW).chip ↑2050 = some (gClashW, cmdJob 3, telEnt 1 32)) ∧
        ((sCmd id gClashW).chip.ring ↑2050 = some gClashW) ∧
        (gClashW.fail ≠ 2) ∧
        ((sCmd id gClashW).chip.latent = []) ∧
        (cmdEntryOk (telEnt 1 32) = true) ∧
        (∀ (n : List Byte),
          (jobEntries gClashW (cmdJob 3).id)[gClashW.done.length + 1]? = some n → cmdEntryOk n = true) ∧
        (gClashW.done.length + 1 < (cmdJob 3).n) ∧
        (gClashW.fail = 0) ∧
        (gClashW.batch = 0) ∧
        (((List.take gClashW.done.length (jobEntries gClashW (cmdJob 3).id)).all fun e => !cmdEntryOk e) = true) ∧
        (jobClash
            (jobKeys (sCmd id gClashW).chip (↑2050) gClashW (cmdJob 3)
              (if sesEntry (telEnt 1 32) = true then [sesBlock, sesBlock, sesBlock] else [sesBlock, sesBlock])) =
          true) ∧
        (memNat (telEnt 1 32) 22 1 = 6 → 4 ≤ memNat (telEnt 1 32) 8 4) ∧
        ((memNat (telEnt 1 32) 22 1,
            Instr.cmdWrite 2050 { data := sesBlock, later := [sesBlock, sesBlock] : SesData }) ∈
          [(1, Instr.cmdWrite 2050 { data := sesBlock, later := [sesBlock, sesBlock] : SesData }),
            (2, Instr.cmdInvalidate { ring := 2050, later := [sesBlock, sesBlock] : CmdJob }),
            (3, Instr.cmdRead { ring := 2050, later := [sesBlock, sesBlock] : CmdJob } []),
            (4, Instr.sesInsert 2050 { data := sesBlock, later := [sesBlock, sesBlock] : SesData }),
            (5, Instr.sesDelete 2050 { data := sesBlock, later := [sesBlock, sesBlock] : SesData }),
            (6, Instr.sesFind 2050 { data := sesBlock, later := [sesBlock, sesBlock] : SesData }),
            (7, Instr.sesUpdate 2050 { data := sesBlock, later := [sesBlock, sesBlock] : SesData }),
            (8, Instr.cmdSwap { ring := 2050, later := [sesBlock, sesBlock] : CmdJob })])) ∧
      ((1 = ringCx ↑2050) ∧
        ((sCmd sesFull (gCmd1 (sesEnt 6 3))).ready 1) ∧
        (cmdNext (sCmd sesFull (gCmd1 (sesEnt 6 3))).chip ↑2050 = some (gCmd1 (sesEnt 6 3), cmdJob 1, sesEnt 6 3)) ∧
        ((sCmd sesFull (gCmd1 (sesEnt 6 3))).chip.ring ↑2050 = some (gCmd1 (sesEnt 6 3))) ∧
        ((gCmd1 (sesEnt 6 3)).fail ≠ 2) ∧
        ((sCmd sesFull (gCmd1 (sesEnt 6 3))).chip.latent = []) ∧
        (cmdEntryOk (sesEnt 6 3) = true) ∧
        (∀ (n : List Byte),
          (jobEntries (gCmd1 (sesEnt 6 3)) (cmdJob 1).id)[(gCmd1 (sesEnt 6 3)).done.length + 1]? = some n →
            cmdEntryOk n = true) ∧
        (memNat (sesEnt 6 3) 22 1 = 6) ∧
        (jobClash
            (jobKeys (sCmd sesFull (gCmd1 (sesEnt 6 3))).chip (↑2050) (gCmd1 (sesEnt 6 3)) (cmdJob 1) [sesBlock]) =
          false) ∧
        (sesOwnerOk (sCmd sesFull (gCmd1 (sesEnt 6 3))).chip (↑2050) (sesEnt 6 3) = true) ∧
        (memNat (sesEnt 6 3) 8 4 = 64) ∧
        (memNat (slice sesBlock 0 64) 60 4 = 0) ∧
        (sesBatch (↑2050) (gCmd1 (sesEnt 6 3))
            (hostRead (gCmd1 (sesEnt 6 3)).owner (memNat (sesEnt 6 3) 0 8) 64
              (sCmd sesFull (gCmd1 (sesEnt 6 3))).chip.clear) =
          some (taken (sCmd sesFull (gCmd1 (sesEnt 6 3))) (gCmd1 (sesEnt 6 3)) (sesEnt 6 3))) ∧
        (blockOp 3 false sesBlock = blockOp 3 false (slice sesBlock 0 64)) ∧
        (findKey (sCmd sesFull (gCmd1 (sesEnt 6 3))).chip 1 (blockOp 3 false sesBlock).key
            (blockOp 3 false sesBlock).profile =
          some ((candidates sesKey0 0).headD 0)) ∧
        ((gCmd1 (sesEnt 6 3)).jobs = [cmdJob 1]) ∧
        ((cmdJob 1).n = 1) ∧
        ((gCmd1 (sesEnt 6 3)).ents.length = 1) ∧
        ((gCmd1 (sesEnt 6 3)).done = []) ∧
        ((gCmd1 (sesEnt 6 3)).fail = 0) ∧
        ((gCmd1 (sesEnt 6 3)).batch = 0) ∧
        ((gCmd1 (sesEnt 6 3)).wb = 0)) := by
  refine ⟨?_, ?_, ?_, ?_, ?_, ?_, ?_, ?_, ?_, ?_, ?_, ?_⟩
  all_goals
    try simp only [State.ready]
    decide +kernel

theorem witness_SourcesAreClaimedAndCompleted :
      (((sIcu { level := [1023] : IcuSt }).powered)) ∧
      (((sIcu { level := [1023] : IcuSt }).powered) ∧
        ((sIcu { level := [1023] : IcuSt }).chip.busy (sIcu { level := [1023] : IcuSt }).clk Page.icu = false) ∧
        (kvFind (sIcu { level := [1023] : IcuSt }).chip.icu.claims ↑7 = none) ∧
        (nextSource (sIcu { level := [1023] : IcuSt }).clk
            (claimView (sIcu { level := [1023] : IcuSt }).clk (sIcu { level := [1023] : IcuSt }).chip) ↑7 =
          some 1023)) ∧
      (((sIcu { level := [1023] : IcuSt }).powered) ∧
        ((sIcu { level := [1023] : IcuSt }).chip.busy (sIcu { level := [1023] : IcuSt }).clk Page.icu = false) ∧
        (kvFind (sIcu { level := [1023] : IcuSt }).chip.icu.claims ↑6 = none) ∧
        (nextSource (sIcu { level := [1023] : IcuSt }).clk
            (claimView (sIcu { level := [1023] : IcuSt }).clk (sIcu { level := [1023] : IcuSt }).chip) ↑6 =
          none)) ∧
      ((sHold.writable Page.icu) ∧
        (1023 ≠ 65535) ∧
        (kvFind sHold.chip.icu.claims ↑7 = some claim0) ∧
        (claim0.source = 1023) ∧
        (kvSorted sHold.chip.icu.claims = true)) ∧
      ((sHold.writable Page.icu) ∧
        (1023 ≠ 65535) ∧
        (∀ (cl : Claim), kvFind sHold.chip.icu.claims ↑0 = some cl → cl.source ≠ 1023)) ∧
      (((sIcu dueIcu).powered) ∧
        (kvFind (sIcu dueIcu).chip.icu.dip ↑7 = some (64 * 1600 + 64)) ∧
        (64 * 1600 + 64 ≤ (sIcu dueIcu).clk.abs)) ∧
      (((sIcu dueIcu).powered) ∧
        (kvFind (sIcu dueIcu).chip.icu.holdoff ↑63 = some (64 * 1600 + 64)) ∧
        (64 * 1600 + 64 ≤ (sIcu dueIcu).clk.abs)) := by
  refine ⟨?_, ?_, ?_, ?_, ?_, ?_, ?_⟩
  all_goals
    try simp only [State.writable, State.powered]
    decide +kernel

theorem witness_StandbyAndThePilot :
      ((sGate.powered) ∧
        (awake sGate.chip 0 = true)) ∧
      ((sGateJob.powered) ∧
        (awake sGateJob.chip 0 = true)) ∧
      ((sStandby.powered) ∧
        (1 ∈ sStandby.chip.standby) ∧
        (∀ (e : Nat × Ring), e ∈ sStandby.chip.rings → ringCx e.fst = 1 → funcRuns sStandby.chip e.snd.owner = true)) ∧
      ((sBase.writable Page.pil) ∧
        (∀ (n : Nat), n < 32 → watchHigh sBase.chip n = false)) ∧
      ((31 < 32) ∧
        (watchHigh (sPilot 1).chip 31 = true) ∧
        ((sPilot 1).chip.enabled Page.pil = true) ∧
        ((sPilot 1).powered) ∧
        ((sPilot 1).chip.flag Page.pil 64 0 = true)) ∧
      ((31 < 32) ∧
        (watchHigh (sPilot 0).chip 31 = true) ∧
        ((sPilot 0).chip.enabled Page.pil = true) ∧
        ((sPilot 0).writable Page.pil)) ∧
      ((sAwake.powered) ∧
        (sAwake.chip.standby = []) ∧
        (sAwake.chip.fld Page.pil 72 31 0 = 0) ∧
        (sAwake.chip.fld Page.pil 68 1 0 = 2)) := by
  refine ⟨?_, ?_, ?_, ?_, ?_, ?_, ?_⟩
  all_goals
    try simp only [State.writable, State.powered]
    decide +kernel

theorem witness_CheckUnitsRun :
      (({ : ChkSt } = (sChk 1 { : ChkSt } id).chip.chkOf 1 3) ∧
        (1 = BitVec.toNat ((sChk 1 { : ChkSt } id).chip.get (chkPage 1 3) 64)) ∧
        ((sChk 1 { : ChkSt } id).writable (chkPage 1 3)) ∧
        ({ : ChkSt }.scan = none) ∧
        (chkRecord 1 = false)) ∧
      (({ : ChkSt } = (sChk (16 + 4 * 2 ^ 16) { : ChkSt } id).chip.chkOf 1 3) ∧
        (16 + 4 * 2 ^ 16 = BitVec.toNat ((sChk (16 + 4 * 2 ^ 16) { : ChkSt } id).chip.get (chkPage 1 3) 64)) ∧
        ((sChk (16 + 4 * 2 ^ 16) { : ChkSt } id).writable (chkPage 1 3)) ∧
        ({ : ChkSt }.scan = none) ∧
        (chkRecord (16 + 4 * 2 ^ 16) = true) ∧
        (bits (16 + 4 * 2 ^ 16) 31 16 % 4 ≠ 0 ∨
          bits (16 + 4 * 2 ^ 16) 31 16 < 2 * chkField (16 + 4 * 2 ^ 16) ∨ chkFold (16 + 4 * 2 ^ 16) = 1)) ∧
      (({ : ChkSt } = (sChk 1 { : ChkSt } (scanReg 5 63)).chip.chkOf 1 3) ∧
        (1 = BitVec.toNat ((sChk 1 { : ChkSt } (scanReg 5 63)).chip.get (chkPage 1 3) 64)) ∧
        ((sChk 1 { : ChkSt } (scanReg 5 63)).writable (chkPage 1 3)) ∧
        ({ : ChkSt }.scan = none) ∧
        ((sChk 1 { : ChkSt } (scanReg 5 63)).chip.flag (chkPage 1 3) 8 1 = false) ∧
        ((sChk 1 { : ChkSt } (scanReg 5 63)).chip.fld (chkPage 1 3) 104 31 0 ≠ 0) ∧
        ((sChk 1 { : ChkSt } (scanReg 5 63)).chip.flag (chkPage 1 3) 108 31 = false) ∧
        (funcRuns (sChk 1 { : ChkSt } (scanReg 5 63)).chip
            ((sChk 1 { : ChkSt } (scanReg 5 63)).chip.fld (chkPage 1 3) 108 5 0) =
          true)) ∧
      (({ : ChkSt } = (sChk 1 { : ChkSt } (scanReg 0 0)).chip.chkOf 1 3) ∧
        (1 = BitVec.toNat ((sChk 1 { : ChkSt } (scanReg 0 0)).chip.get (chkPage 1 3) 64)) ∧
        ((sChk 1 { : ChkSt } (scanReg 0 0)).writable (chkPage 1 3)) ∧
        ({ : ChkSt }.scan = none) ∧
        ((sChk 1 { : ChkSt } (scanReg 0 0)).chip.flag (chkPage 1 3) 8 1 = false) ∧
        ((sChk 1 { : ChkSt } (scanReg 0 0)).chip.fld (chkPage 1 3) 104 31 0 = 0)) ∧
      (({ : ChkSt } = (sChk 1 { : ChkSt } id).chip.chkOf 1 3) ∧
        (1 = BitVec.toNat ((sChk 1 { : ChkSt } id).chip.get (chkPage 1 3) 64)) ∧
        ((sChk 1 { : ChkSt } id).writable (chkPage 1 3)) ∧
        ({ : ChkSt }.scan = none) ∧
        (chkRecord { : ChkSt }.ctl = false) ∧
        (0 = chkFinal { : ChkSt }.ctl (BitVec.toNat ((sChk 1 { : ChkSt } id).chip.get (chkPage 1 3) 128)))) ∧
      (({ : ChkSt } = (sChk 1 { : ChkSt } id).chip.chkOf 1 3) ∧
        (1 = BitVec.toNat ((sChk 1 { : ChkSt } id).chip.get (chkPage 1 3) 64)) ∧
        ((sChk 1 { : ChkSt } id).writable (chkPage 1 3)) ∧
        ({ : ChkSt }.scan = none) ∧
        ((sChk 1 { : ChkSt } id).chip.flag (chkPage 1 3) 116 0 = false) ∧
        (8 = 2 ^ ↑3) ∧
        (chkFeedFrom 0 (fun x => 0) 0 (leBytes 8 7) { st := { : ChkSt }, reg := 0, fails := [] : ChkRun } =
          chkFeedFrom (bits { : ChkSt }.ctl 31 16)
            (fun i =>
              { : ChkSt }.base +
                ({ : ChkSt }.block + ({ : ChkSt }.pos + i) / bits { : ChkSt }.ctl 31 16) *
                  bits { : ChkSt }.ctl 31 16)
            0 (leBytes 8 (7))
            { st := { : ChkSt }, reg := BitVec.toNat ((sChk 1 { : ChkSt } id).chip.get (chkPage 1 3) 128),
              fails := [] : ChkRun })) ∧
      (({ : ChkSt } = (sChk 1 { : ChkSt } busyReg).chip.chkOf 1 3) ∧
        (1 = BitVec.toNat ((sChk 1 { : ChkSt } busyReg).chip.get (chkPage 1 3) 64)) ∧
        ((sChk 1 { : ChkSt } busyReg).writable (chkPage 1 3)) ∧
        ({ : ChkSt }.scan = none) ∧
        ((sChk 1 { : ChkSt } busyReg).chip.flag (chkPage 1 3) 116 0 = true)) ∧
      ((scan0 = (sChk 1 scan0 id).chip.chkOf 1 3) ∧
        (1 = BitVec.toNat ((sChk 1 scan0 id).chip.get (chkPage 1 3) 64)) ∧
        ((sChk 1 scan0 id).ready 1) ∧
        (scan0.scan = some { table := none, start := 4096, len := 5, fn := 63, check := false : ChkScan }) ∧
        (funcRuns (sChk 1 scan0 id).chip 63 = true) ∧
        (bits scan0.ctl 31 16 = 0)) ∧
      (({ : ChkSt } = (sChk 1 { : ChkSt } busyReg).chip.chkOf 1 3) ∧
        (1 = BitVec.toNat ((sChk 1 { : ChkSt } busyReg).chip.get (chkPage 1 3) 64)) ∧
        ((sChk 1 { : ChkSt } busyReg).ready 1) ∧
        ({ : ChkSt }.busy ≤ (sChk 1 { : ChkSt } busyReg).clk.abs)) := by
  refine ⟨?_, ?_, ?_, ?_, ?_, ?_, ?_, ?_, ?_⟩
  all_goals
    try simp only [State.writable, State.ready]
    decide +kernel

theorem witness_ChecksReportTheirResult :
      (((sChk 1 { : ChkSt } id).writable (chkPage 1 3)) ∧
        (((sChk 1 { : ChkSt } id).chip.chkOf 1 3).scan = none)) := by
  simp only [State.writable]
  decide +kernel

theorem witness_WitnessRequestsAreSent :
      (((sPair 1 { : PairSt }).writable Page.sag) ∧
        (pairRole (sPair 1 { : PairSt }).chip = 1)) ∧
      (((sPair 3 { : PairSt }).writable Page.sag) ∧
        (pairRole (sPair 3 { : PairSt }).chip ≠ 0)) ∧
      (((sPair 2 { claim := some (9, 48) : PairSt }).paired) ∧
        ((sPair 2 { claim := some (9, 48) : PairSt }).chip.pair.claim = some (9, 48)) ∧
        (pairRole (sPair 2 { claim := some (9, 48) : PairSt }).chip = 2) ∧
        (48 + 16 ≤ (sPair 2 { claim := some (9, 48) : PairSt }).clk.turn)) ∧
      (((sPair 2 { lastAsk := 48, silence := 2 : PairSt }).paired) ∧
        (pairRole (sPair 2 { lastAsk := 48, silence := 2 : PairSt }).chip ∈ [1, 2]) ∧
        ((sPair 2 { lastAsk := 48, silence := 2 : PairSt }).chip.pair.silence = 2) ∧
        ((sPair 2 { lastAsk := 48, silence := 2 : PairSt }).chip.pair.lastAsk + 16 ≤
          (sPair 2 { lastAsk := 48, silence := 2 : PairSt }).clk.turn)) ∧
      (((sPair 3 { : PairSt }).paired) ∧
        (pairRole (sPair 3 { : PairSt }).chip = 3) ∧
        ((sPair 3 { : PairSt }).clk.turn % 16 = 0) ∧
        ((sPair 3 { : PairSt }).chip.pair.renewTurn ≠ some (sPair 3 { : PairSt }).clk.turn)) ∧
      (((sPair 3 { reqs := [{ msg := 17, id := 9, first := 32 : WitReq }], timeouts := 3 : PairSt }).paired) ∧
        ((sPair 3
                  { reqs := [{ msg := 17, id := 9, first := 32 : WitReq }], timeouts := 3 :
                    PairSt }).chip.pair.reqs =
          [{ msg := 17, id := 9, first := 32 : WitReq }]) ∧
        ({ msg := 17, id := 9, first := 32 : WitReq }.late = false) ∧
        ({ msg := 17, id := 9, first := 32 : WitReq }.first + 32 ≤
          (sPair 3 { reqs := [{ msg := 17, id := 9, first := 32 : WitReq }], timeouts := 3 : PairSt }).clk.turn)) ∧
      (((sPair 3 { : PairSt }).paired) ∧
        (pairRole (sPair 3 { : PairSt }).chip = 3) ∧
        (BitVec.toNat ((sPair 3 { : PairSt }).chip.get Page.sag 112) ≤ (sPair 3 { : PairSt }).clk.turn) ∧
        (jrnStill (sPair 3 { : PairSt }).chip)) ∧
      (((sPair 3 { : PairSt }).writable Page.sag) ∧
        (pairRole (sPair 3 { : PairSt }).chip = 3) ∧
        (jrnStill (sPair 3 { : PairSt }).chip)) := by
  refine ⟨?_, ?_, ?_, ?_, ?_, ?_, ?_, ?_⟩
  all_goals
    try simp only [State.writable, State.paired, jrnStill]
    decide +kernel

theorem witness_WitnessAnswersAreTaken :
      (((sPair 3 (pAsk 17)).paired) ∧
        (answerAccept 8 (answer 24) 24 [2, 3] [17] (sPair 3 (pAsk 17)).chip.clear =
          ((sPair 3 (pAsk 17)).chip.clear, some (msgOf (answer 24), reqA 17))) ∧
        (pairRole (sPair 3 (pAsk 17)).chip = 3) ∧
        ((sPair 3 (pAsk 17)).clk.turn ≤ (reqA 17).first + memNat (msgOf (answer 24)).body 6 2 + 32)) ∧
      (((sPair 2 (pAsk 16)).paired) ∧
        (answerAccept 8 (answer 24) 24 [2, 3] [16] (sPair 2 (pAsk 16)).chip.clear =
          ((sPair 2 (pAsk 16)).chip.clear, some (msgOf (answer 24), reqA 16))) ∧
        (pairRole (sPair 2 (pAsk 16)).chip = 2) ∧
        ((sPair 2 (pAsk 16)).clk.turn ≤ (reqA 16).first + memNat (msgOf (answer 24)).body 6 2 + 32) ∧
        (jrnStill (sPair 2 (pAsk 16)).chip)) ∧
      (((sPair 2 (pAsk 16)).paired) ∧
        (answerAccept 8 (answer 25) 25 [2] [16] (sPair 2 (pAsk 16)).chip.clear =
          ((sPair 2 (pAsk 16)).chip.clear, some (msgOf (answer 25), reqA 16)))) ∧
      (((sPair 1 (pAsk 19)).paired) ∧
        (answerAccept 8 (answer 26) 26 [1, 2] [16, 17, 19] (sPair 1 (pAsk 19)).chip.clear =
          ((sPair 1 (pAsk 19)).chip.clear, some (msgOf (answer 26), reqA 19))) ∧
        (memNat (msgOf (answer 26)).body 8 1 ≠ 1)) ∧
      (((sPair 3 (pAsk 17)).paired) ∧
        (answerAccept 8 (answer 27) 27 [1, 2, 3] [16, 17, 19] (sPair 3 (pAsk 17)).chip.clear =
          ((sPair 3 (pAsk 17)).chip.clear, some (msgOf (answer 27), reqA 17))) ∧
        (jrnStill (sPair 3 (pAsk 17)).chip)) ∧
      (((sPair 1 (pAsk 19)).paired) ∧
        (answerAccept 8 (answer 27) 27 [1, 2, 3] [16, 17, 19] (sPair 1 (pAsk 19)).chip.clear =
          ((sPair 1 (pAsk 19)).chip.clear, some (msgOf (answer 27), reqA 19))) ∧
        (jrnStill (sPair 1 (pAsk 19)).chip)) := by
  refine ⟨?_, ?_, ?_, ?_, ?_, ?_⟩
  all_goals
    try simp only [State.paired, jrnStill]
    decide +kernel

theorem witness_HeartbeatsKeepThePair :
      (((sPair 3 { : PairSt }).paired) ∧
        (pairOut (sPair 3 { : PairSt }).chip = some 8) ∧
        (pairRole (sPair 3 { : PairSt }).chip ≠ 0) ∧
        ((sPair 3 { : PairSt }).clk.clock = 64) ∧
        ((sPair 3 { : PairSt }).chip.pair.beatTurn ≠ some (sPair 3 { : PairSt }).clk.turn)) ∧
      (((sPair 2 { : PairSt }).paired) ∧
        (pairUp (sPair 2 { : PairSt }).chip = some 8) ∧
        (linkAccept hbFrame 1 [1, 2, 3] (sPair 2 { : PairSt }).chip.clear =
          ((sPair 2 { : PairSt }).chip.clear, some (linkMsg hbFrame)))) ∧
      (((sPair 3 { : PairSt }).paired) ∧
        ((sPair 3 { : PairSt }).chip.pair.lastHb + missClocks (sPair 3 { : PairSt }).chip ≤
          (sPair 3 { : PairSt }).clk.abs) ∧
        (pairRole (sPair 3 { : PairSt }).chip = 3) ∧
        ((sPair 3 { : PairSt }).chip.pair.silence = 0)) ∧
      (((sPair 2 { settled := true : PairSt }).paired) ∧
        ((sPair 2 { settled := true : PairSt }).chip.pair.lastHb +
            missClocks (sPair 2 { settled := true : PairSt }).chip ≤
          (sPair 2 { settled := true : PairSt }).clk.abs) ∧
        (pairRole (sPair 2 { settled := true : PairSt }).chip ∈ [1, 2]) ∧
        ((sPair 2 { settled := true : PairSt }).chip.pair.silence ≠ 2) ∧
        ((sPair 2 { settled := true : PairSt }).chip.pair.settled = true ∨
          (sPair 2 { settled := true : PairSt }).chip.liveFlag Page.sag 64 18 = true ∧
        pinAlive (sPair 2 { settled := true : PairSt }).clk (sPair 2 { settled := true : PairSt }).chip = true)) ∧
      (((sPair 1 { : PairSt }).paired) ∧
        ((sPair 1 { : PairSt }).chip.pair.lastHb + missClocks (sPair 1 { : PairSt }).chip ≤
          (sPair 1 { : PairSt }).clk.abs) ∧
        (pairRole (sPair 1 { : PairSt }).chip = 1) ∧
        ((sPair 1 { : PairSt }).chip.pair.silence = 0) ∧
        ((sPair 1 { : PairSt }).chip.pair.settled = false) ∧
        ((sPair 1 { : PairSt }).chip.liveFlag Page.sag 64 18 = false)) ∧
      (((let __src := sPair 1 { : PairSt };
          {
            clk :=
              let __src := Clk.reset;
              { turn := 256, clock := __src.clock, sec := __src.sec, ns := __src.ns, frac := __src.frac,
                incr := __src.incr, secPass := __src.secPass, halfPass := __src.halfPass : Clk },
            chip := __src.chip, pending := __src.pending : State }).paired) ∧
        (pairRole
            (let __src := sPair 1 { : PairSt };
              {
                clk :=
                  let __src := Clk.reset;
                  { turn := 256, clock := __src.clock, sec := __src.sec, ns := __src.ns, frac := __src.frac,
                    incr := __src.incr, secPass := __src.secPass, halfPass := __src.halfPass : Clk },
                chip := __src.chip, pending := __src.pending : State }).chip ∈
          [1, 2]) ∧
        ((let __src := sPair 1 { : PairSt };
                {
                  clk :=
                    let __src := Clk.reset;
                    { turn := 256, clock := __src.clock, sec := __src.sec, ns := __src.ns, frac := __src.frac,
                      incr := __src.incr, secPass := __src.secPass, halfPass := __src.halfPass : Clk },
                  chip := __src.chip, pending := __src.pending : State }).chip.pair.longGone =
          false) ∧
        ((let __src := sPair 1 { : PairSt };
                  {
                    clk :=
                      let __src := Clk.reset;
                      { turn := 256, clock := __src.clock, sec := __src.sec, ns := __src.ns, frac := __src.frac,
                        incr := __src.incr, secPass := __src.secPass, halfPass := __src.halfPass : Clk },
                    chip := __src.chip, pending := __src.pending : State }).chip.pair.lastHb +
            409600 ≤
          (let __src := sPair 1 { : PairSt };
              {
                clk :=
                  let __src := Clk.reset;
                  { turn := 256, clock := __src.clock, sec := __src.sec, ns := __src.ns, frac := __src.frac,
                    incr := __src.incr, secPass := __src.secPass, halfPass := __src.halfPass : Clk },
                chip := __src.chip, pending := __src.pending : State }).clk.abs)) ∧
      (((sPair 1 { : PairSt }).paired) ∧
        (pairRole (sPair 1 { : PairSt }).chip ≠ 0)) := by
  refine ⟨?_, ?_, ?_, ?_, ?_, ?_, ?_⟩
  all_goals
    try simp only [State.paired]
    decide +kernel

theorem witness_SlipIsSentAndApplied :
      ((sSend.paired) ∧
        (pairOut sSend.chip = some 8) ∧
        (pairRole sSend.chip = 3) ∧
        (sSend.chip.pair.closing = none) ∧
        (sSend.chip.pair.silence = 0) ∧
        (sSend.chip.pair.opened = some slip0) ∧
        (sSend.chip.dirty = [dirty0]) ∧
        (dirty0.kind ≠ 1) ∧
        (sSend.chip.latent = []) ∧
        ((complexes sSend.chip.part).length + slip0.blocks.length < 65535) ∧
        (sSend.chip.pair.again = [])) ∧
      ((sClose.paired) ∧
        (pairOut sClose.chip = some 8) ∧
        (pairRole sClose.chip = 3) ∧
        (sClose.chip.pair.silence = 0) ∧
        (sClose.chip.pair.closing = some slip0) ∧
        (sClose.clk.turn = 16 * (slip0.no + 1)) ∧
        (List.mapM (fun x => journalHead sClose.clk x sClose.chip.clear) (complexes sClose.chip.part) =
          some ((List.mapM (fun x => journalHead sClose.clk x sClose.chip.clear) (complexes Part.t1024)).getD []))) ∧
      (((sClosed { : PairSt }).paired) ∧
        (slipAccept dataFrame 2 (sClosed { : PairSt }).chip.clear =
          ((sClosed { : PairSt }).chip.clear, some (linkMsg dataFrame))) ∧
        ((sClosed { : PairSt }).chip.pair.rxBuf = []) ∧
        ((sClosed { : PairSt }).chip.pair.dead ≠ some (linkMsg dataFrame).no) ∧
        ([(0, streamBlock)] =
          numbered (((linkMsg dataFrame).len - 8) / 64) (memNat (linkMsg dataFrame).body 0 4)
            (List.drop 8 (linkMsg dataFrame).body)) ∧
        (slipHeld (sClosed { : PairSt }).chip + [(0, streamBlock)].length ≤ 65536)) ∧
      (((sClosed pGot).paired) ∧
        (slipAccept (closeFrame (slipCheck 3 streamBlock)) 3 (sClosed pGot).chip.clear =
          ((sClosed pGot).chip.clear, some (linkMsg (closeFrame (slipCheck 3 streamBlock))))) ∧
        ((sClosed pGot).chip.pair.rxBuf = [((linkMsg (closeFrame (slipCheck 3 streamBlock))).no, [(0, streamBlock)])]) ∧
        ((sClosed pGot).chip.pair.dead ≠ some (linkMsg (closeFrame (slipCheck 3 streamBlock))).no) ∧
        ((sClosed pGot).chip.pair.applied = false) ∧
        ((sClosed pGot).chip.pair.ready = []) ∧
        ([streamBlock] =
          List.map (fun x => x.snd)
            (List.filter
              (fun b => decide (b.fst < memNat (linkMsg (closeFrame (slipCheck 3 streamBlock))).body 0 4))
              [(0, streamBlock)])) ∧
        ([streamBlock].length = memNat (linkMsg (closeFrame (slipCheck 3 streamBlock))).body 0 4) ∧
        (memNat (linkMsg (closeFrame (slipCheck 3 streamBlock))).body 8 8 =
          slipCheck (linkMsg (closeFrame (slipCheck 3 streamBlock))).no [streamBlock].flatten)) ∧
      (((sClosed pGot).paired) ∧
        (slipAccept (closeFrame 0) 3 (sClosed pGot).chip.clear =
          ((sClosed pGot).chip.clear, some (linkMsg (closeFrame 0)))) ∧
        ((sClosed pGot).chip.pair.rxBuf = [((linkMsg (closeFrame 0)).no, [(0, streamBlock)])]) ∧
        ((sClosed pGot).chip.pair.dead ≠ some (linkMsg (closeFrame 0)).no) ∧
        ((sClosed pGot).chip.pair.applied = false) ∧
        ((sClosed pGot).chip.pair.ready = []) ∧
        ([streamBlock] =
          List.map (fun x => x.snd)
            (List.filter (fun b => decide (b.fst < memNat (linkMsg (closeFrame 0)).body 0 4)) [(0, streamBlock)])) ∧
        ([streamBlock].length ≠ memNat (linkMsg (closeFrame 0)).body 0 4 ∨
          memNat (linkMsg (closeFrame 0)).body 8 8 ≠ slipCheck (linkMsg (closeFrame 0)).no [streamBlock].flatten)) ∧
      (((sClosed pReady).paired) ∧
        ((sClosed pReady).chip.pair.ready = [{ no := 3, blocks := [streamBlock], pass := true : SlipIn }]) ∧
        (pairRole (sClosed pReady).chip ∈ [1, 2]) ∧
        ({ no := 3, blocks := [streamBlock], pass := true : SlipIn }.blocks = [streamBlock]) ∧
        (memNat streamBlock 0 1 = 3) ∧
        (bits (memNat streamBlock 2 1) 0 0 = 0) ∧
        (Memory.wf (sClosed pReady).chip.mem = true)) := by
  refine ⟨?_, ?_, ?_, ?_, ?_, ?_⟩
  all_goals
    try simp only [State.ready, State.paired]
    decide +kernel

theorem witness_ServingWitnessAnswers :
      (((sServe 64 65535 65535 { : PairSt }).paired) ∧
        ((sServe 64 65535 65535 { : PairSt }).chip.liveFlag Page.sag 64 24 = true) ∧
        (Memory.wf (sServe 64 65535 65535 { : PairSt }).chip.mem = true) ∧
        ((sServe 64 65535 65535 { : PairSt }).chip.latent = []) ∧
        (witPair (sServe 64 65535 65535 { : PairSt }).chip (msgOf (request 16)).sender = some 15) ∧
        ((msgOf (request 16)).epoch = witRow (sServe 64 65535 65535 { : PairSt }).chip 15 4 4) ∧
        (witParse (sServe 64 65535 65535 { : PairSt }).chip 8 (request 16) 16 = some (msgOf (request 16), true)) ∧
        ((msgOf (request 16)).msg = 16) ∧
        (witRow (sServe 64 65535 65535 { : PairSt }).chip 15 8 2 ≠ (msgOf (request 16)).sender) ∧
        (64 * 1600 + 64 =
          if witRow (sServe 64 65535 65535 { : PairSt }).chip 15 10 2 = (msgOf (request 16)).sender then
            witFirst (sServe 64 65535 65535 { : PairSt }).chip 15
          else (sServe 64 65535 65535 { : PairSt }).clk.abs) ∧
        (vacantAt (sServe 64 65535 65535 { : PairSt }).chip 15 (sServe 64 65535 65535 { : PairSt }).clk.abs = true)) ∧
      (((sServe 64 2 65535 { : PairSt }).paired) ∧
        ((sServe 64 2 65535 { : PairSt }).chip.liveFlag Page.sag 64 24 = true) ∧
        (Memory.wf (sServe 64 2 65535 { : PairSt }).chip.mem = true) ∧
        ((sServe 64 2 65535 { : PairSt }).chip.latent = []) ∧
        (witPair (sServe 64 2 65535 { : PairSt }).chip (msgOf (request 16)).sender = some 15) ∧
        ((msgOf (request 16)).epoch = witRow (sServe 64 2 65535 { : PairSt }).chip 15 4 4) ∧
        (witParse (sServe 64 2 65535 { : PairSt }).chip 8 (request 16) 16 = some (msgOf (request 16), true)) ∧
        ((msgOf (request 16)).msg = 16) ∧
        (witRow (sServe 64 2 65535 { : PairSt }).chip 15 8 2 ≠ (msgOf (request 16)).sender) ∧
        (vacantAt (sServe 64 2 65535 { : PairSt }).chip 15 (sServe 64 2 65535 { : PairSt }).clk.abs = false) ∧
        (witRow (sServe 64 2 65535 { : PairSt }).chip 15 10 2 ≠ (msgOf (request 16)).sender)) ∧
      (((sServe 64 1 65535 { : PairSt }).paired) ∧
        ((sServe 64 1 65535 { : PairSt }).chip.liveFlag Page.sag 64 24 = true) ∧
        (Memory.wf (sServe 64 1 65535 { : PairSt }).chip.mem = true) ∧
        ((sServe 64 1 65535 { : PairSt }).chip.latent = []) ∧
        (witPair (sServe 64 1 65535 { : PairSt }).chip (msgOf (request 17)).sender = some 15) ∧
        ((msgOf (request 17)).epoch = witRow (sServe 64 1 65535 { : PairSt }).chip 15 4 4) ∧
        (witParse (sServe 64 1 65535 { : PairSt }).chip 8 (request 17) 17 = some (msgOf (request 17), true)) ∧
        ((msgOf (request 17)).msg = 17) ∧
        (witRow (sServe 64 1 65535 { : PairSt }).chip 15 8 2 = (msgOf (request 17)).sender) ∧
        (witRow (sServe 64 1 65535 { : PairSt }).chip 15 10 2 = 65535)) ∧
      (((sServe 64 1 65535 { : PairSt }).paired) ∧
        ((sServe 64 1 65535 { : PairSt }).chip.liveFlag Page.sag 64 24 = true) ∧
        (Memory.wf (sServe 64 1 65535 { : PairSt }).chip.mem = true) ∧
        ((sServe 64 1 65535 { : PairSt }).chip.latent = []) ∧
        (witPair (sServe 64 1 65535 { : PairSt }).chip (msgOf (request 18)).sender = some 15) ∧
        ((msgOf (request 18)).epoch = witRow (sServe 64 1 65535 { : PairSt }).chip 15 4 4) ∧
        (witParse (sServe 64 1 65535 { : PairSt }).chip 8 (request 18) 18 = some (msgOf (request 18), true)) ∧
        ((msgOf (request 18)).msg = 18) ∧
        (witRow (sServe 64 1 65535 { : PairSt }).chip 15 8 2 = (msgOf (request 18)).sender) ∧
        (kvFind (sServe 64 1 65535 { : PairSt }).chip.pair.held 15 = none)) ∧
      (((sServe 64 1 65535 { : PairSt }).paired) ∧
        ((sServe 64 1 65535 { : PairSt }).chip.liveFlag Page.sag 64 24 = true) ∧
        (Memory.wf (sServe 64 1 65535 { : PairSt }).chip.mem = true) ∧
        ((sServe 64 1 65535 { : PairSt }).chip.latent = []) ∧
        (witPair (sServe 64 1 65535 { : PairSt }).chip (msgOf (request 19)).sender = some 15) ∧
        ((msgOf (request 19)).epoch = witRow (sServe 64 1 65535 { : PairSt }).chip 15 4 4) ∧
        (witParse (sServe 64 1 65535 { : PairSt }).chip 8 (request 19) 19 = some (msgOf (request 19), true)) ∧
        ((msgOf (request 19)).msg = 19) ∧
        (linkOpen (sServe 64 1 65535 { : PairSt }).chip 8 = true) ∧
        ((sServe 64 1 65535 { : PairSt }).chip.lpbk 8 ≠ 2)) ∧
      (((sServe 200 2 1 { held := [(15, from0)] : PairSt }).paired) ∧
        ((sServe 200 2 1 { held := [(15, from0)] : PairSt }).chip.liveFlag Page.sag 64 24 = true) ∧
        (Memory.wf (sServe 200 2 1 { held := [(15, from0)] : PairSt }).chip.mem = true) ∧
        ((sServe 200 2 1 { held := [(15, from0)] : PairSt }).chip.latent = []) ∧
        (witFirst (sServe 200 2 1 { held := [(15, from0)] : PairSt }).chip 15 =
          witFirst (sServe 200 2 1 { held := [(15, from0)] : PairSt }).chip ↑15) ∧
        (kvFind (sServe 200 2 1 { held := [(15, from0)] : PairSt }).chip.pair.held ↑15 = some from0) ∧
        (bit (witRow (sServe 200 2 1 { held := [(15, from0)] : PairSt }).chip (↑15) 28 1) 0 = true) ∧
        (witRow (sServe 200 2 1 { held := [(15, from0)] : PairSt }).chip (↑15) 10 2 ≠ 65535) ∧
        (vacantAt (sServe 200 2 1 { held := [(15, from0)] : PairSt }).chip (↑15)
            (sServe 200 2 1 { held := [(15, from0)] : PairSt }).clk.abs =
          true)) := by
  refine ⟨?_, ?_, ?_, ?_, ?_, ?_⟩
  all_goals
    try simp only [State.paired]
    decide +kernel

theorem witness_RowsAreScrubbedAndRepaired :
      ((sBase.powered) ∧
        (sBase.chip.latent = []) ∧
        (Page.present sBase.chip.part (telPage 1) = true) ∧
        (1 = Page.home (telPage 1)) ∧
        (awake sBase.chip 1 = true) ∧
        (tableOf sBase.chip.part (telPage 1) ↑0 = some tel0) ∧
        (↑65535 < tel0.rows) ∧
        (↑1 < ceilDiv tel0.bytes 16) ∧
        ({ : HltSt } = sBase.chip.hltOf 1) ∧
        (131071 = ceilDiv tel0.bytes 16 * ↑65535 + ↑1) ∧
        (131072 = ceilDiv tel0.bytes 16 * tel0.rows) ∧
        (wordKey (telPage 1) 0 65535 1 = wordKey (telPage 1) ↑0 ↑65535 ↑1) ∧
        (repairUnit (telPage 1) 0 65535 = repairUnit (telPage 1) ↑0 ↑65535) ∧
        (scrNext { : HltSt } (tabKey (telPage 1) 0) 0 =
          { scrubAt := kvPut { : HltSt }.scrubAt (tabKey (telPage 1) ↑0) ((131071 + 1) % 131072) : HltSt }) ∧
        (kvGet 0 { : HltSt }.scrubAt (tabKey (telPage 1) ↑0) ≠ 131071)) ∧
      (((sScr scr0).powered) ∧
        ((sScr scr0).chip.latent = []) ∧
        (Page.present (sScr scr0).chip.part (telPage 1) = true) ∧
        (1 = Page.home (telPage 1)) ∧
        (awake (sScr scr0).chip 1 = true) ∧
        (tableOf (sScr scr0).chip.part (telPage 1) ↑0 = some tel0) ∧
        (↑65535 < tel0.rows) ∧
        (↑0 < ceilDiv tel0.bytes 16) ∧
        (scr0 = (sScr scr0).chip.hltOf 1) ∧
        (131070 = ceilDiv tel0.bytes 16 * ↑65535 + ↑0) ∧
        (131072 = ceilDiv tel0.bytes 16 * tel0.rows) ∧
        (wordKey (telPage 1) 0 65535 0 = wordKey (telPage 1) ↑0 ↑65535 ↑0) ∧
        (repairUnit (telPage 1) 0 65535 = repairUnit (telPage 1) ↑0 ↑65535) ∧
        (scrNext scr0 (tabKey (telPage 1) 0) 131071 =
          { corr := scr0.corr, uncorr := scr0.uncorr, bus := scr0.bus, noSpare := scr0.noSpare,
            loopBad := scr0.loopBad, loopPrev := scr0.loopPrev, loopTurn := scr0.loopTurn,
            trimTurn := scr0.trimTurn, fomTurn := scr0.fomTurn,
            scrubAt := kvPut scr0.scrubAt (tabKey (telPage 1) ↑0) ((131070 + 1) % 131072), seen := scr0.seen,
            seenPrev := scr0.seenPrev, suspect := scr0.suspect, found := scr0.found, spares := scr0.spares,
            remaps := scr0.remaps, testing := scr0.testing, finished := scr0.finished, held := scr0.held,
            rotated := scr0.rotated, lastTest := scr0.lastTest, comp := scr0.comp, window := scr0.window,
            wantOpen := scr0.wantOpen, wantShut := scr0.wantShut, fomLow := scr0.fomLow, built := scr0.built :
            HltSt }) ∧
        (kvGet 0 scr0.scrubAt (tabKey (telPage 1) ↑0) = 131070) ∧
        (¬wordKey (telPage 1) 0 65535 0 ∈ scr0.suspect) ∧
        (131070 + 1 < 131072)) ∧
      (((sScr scrEnd).powered) ∧
        ((sScr scrEnd).chip.latent = []) ∧
        (Page.present (sScr scrEnd).chip.part (telPage 1) = true) ∧
        (1 = Page.home (telPage 1)) ∧
        (awake (sScr scrEnd).chip 1 = true) ∧
        (tableOf (sScr scrEnd).chip.part (telPage 1) ↑0 = some tel0) ∧
        (↑65535 < tel0.rows) ∧
        (↑1 < ceilDiv tel0.bytes 16) ∧
        (scrEnd = (sScr scrEnd).chip.hltOf 1) ∧
        (131071 = ceilDiv tel0.bytes 16 * ↑65535 + ↑1) ∧
        (131072 = ceilDiv tel0.bytes 16 * tel0.rows) ∧
        (wordKey (telPage 1) 0 65535 1 = wordKey (telPage 1) ↑0 ↑65535 ↑1) ∧
        (repairUnit (telPage 1) 0 65535 = repairUnit (telPage 1) ↑0 ↑65535) ∧
        (scrNext scrEnd (tabKey (telPage 1) 0) 0 =
          { corr := scrEnd.corr, uncorr := scrEnd.uncorr, bus := scrEnd.bus, noSpare := scrEnd.noSpare,
            loopBad := scrEnd.loopBad, loopPrev := scrEnd.loopPrev, loopTurn := scrEnd.loopTurn,
            trimTurn := scrEnd.trimTurn, fomTurn := scrEnd.fomTurn,
            scrubAt := kvPut scrEnd.scrubAt (tabKey (telPage 1) ↑0) ((131071 + 1) % 131072), seen := scrEnd.seen,
            seenPrev := scrEnd.seenPrev, suspect := scrEnd.suspect, found := scrEnd.found, spares := scrEnd.spares,
            remaps := scrEnd.remaps, testing := scrEnd.testing, finished := scrEnd.finished, held := scrEnd.held,
            rotated := scrEnd.rotated, lastTest := scrEnd.lastTest, comp := scrEnd.comp, window := scrEnd.window,
            wantOpen := scrEnd.wantOpen, wantShut := scrEnd.wantShut, fomLow := scrEnd.fomLow,
            built := scrEnd.built : HltSt }) ∧
        (kvGet 0 scrEnd.scrubAt (tabKey (telPage 1) ↑0) = 131071) ∧
        (¬wordKey (telPage 1) 0 65535 1 ∈ scrEnd.suspect) ∧
        (131071 + 1 = 131072)) ∧
      (((sScr scrSes).powered) ∧
        ((sScr scrSes).chip.latent = []) ∧
        (Page.present (sScr scrSes).chip.part (sesPage 1) = true) ∧
        (1 = Page.home (sesPage 1)) ∧
        (awake (sScr scrSes).chip 1 = true) ∧
        (tableOf (sScr scrSes).chip.part (sesPage 1) ↑0 =
          some { rows := 131072, bytes := 128, mode := TMode.entry 104 : TableInfo }) ∧
        (↑131071 < { rows := 131072, bytes := 128, mode := TMode.entry 104 : TableInfo }.rows) ∧
        (↑7 < ceilDiv { rows := 131072, bytes := 128, mode := TMode.entry 104 : TableInfo }.bytes 16) ∧
        (scrSes = (sScr scrSes).chip.hltOf 1) ∧
        (1048575 =
          ceilDiv { rows := 131072, bytes := 128, mode := TMode.entry 104 : TableInfo }.bytes 16 * ↑131071 + ↑7) ∧
        (1048576 =
          ceilDiv { rows := 131072, bytes := 128, mode := TMode.entry 104 : TableInfo }.bytes 16 *
            { rows := 131072, bytes := 128, mode := TMode.entry 104 : TableInfo }.rows) ∧
        (wordKey (sesPage 1) 0 131071 7 = wordKey (sesPage 1) ↑0 ↑131071 ↑7) ∧
        (repairUnit (sesPage 1) 0 131071 = repairUnit (sesPage 1) ↑0 ↑131071) ∧
        (scrNext scrSes (tabKey (sesPage 1) 0) 0 =
          { corr := scrSes.corr, uncorr := scrSes.uncorr, bus := scrSes.bus, noSpare := scrSes.noSpare,
            loopBad := scrSes.loopBad, loopPrev := scrSes.loopPrev, loopTurn := scrSes.loopTurn,
            trimTurn := scrSes.trimTurn, fomTurn := scrSes.fomTurn,
            scrubAt := kvPut scrSes.scrubAt (tabKey (sesPage 1) ↑0) ((1048575 + 1) % 1048576), seen := scrSes.seen,
            seenPrev := scrSes.seenPrev, suspect := scrSes.suspect, found := scrSes.found, spares := scrSes.spares,
            remaps := scrSes.remaps, testing := scrSes.testing, finished := scrSes.finished, held := scrSes.held,
            rotated := scrSes.rotated, lastTest := scrSes.lastTest, comp := scrSes.comp, window := scrSes.window,
            wantOpen := scrSes.wantOpen, wantShut := scrSes.wantShut, fomLow := scrSes.fomLow,
            built := scrSes.built : HltSt }) ∧
        (kvGet 0 scrSes.scrubAt (tabKey (sesPage 1) ↑0) = 1048575) ∧
        (¬wordKey (sesPage 1) 0 131071 7 ∈ scrSes.suspect) ∧
        (1048575 + 1 = 1048576)) ∧
      (((sScr scr0).powered) ∧
        ((sScr scr0).chip.latent = []) ∧
        (Page.present (sScr scr0).chip.part (telPage 1) = true) ∧
        (1 = Page.home (telPage 1)) ∧
        (awake (sScr scr0).chip 1 = true) ∧
        (tableOf (sScr scr0).chip.part (telPage 1) ↑0 = some tel0) ∧
        (↑65535 < tel0.rows) ∧
        (↑0 < ceilDiv tel0.bytes 16) ∧
        (scr0 = (sScr scr0).chip.hltOf 1) ∧
        (131070 = ceilDiv tel0.bytes 16 * ↑65535 + ↑0) ∧
        (131072 = ceilDiv tel0.bytes 16 * tel0.rows) ∧
        (wordKey (telPage 1) 0 65535 0 = wordKey (telPage 1) ↑0 ↑65535 ↑0) ∧
        (repairUnit (telPage 1) 0 65535 = repairUnit (telPage 1) ↑0 ↑65535) ∧
        (scrNext scr0 (tabKey (telPage 1) 0) 131071 =
          { corr := scr0.corr, uncorr := scr0.uncorr, bus := scr0.bus, noSpare := scr0.noSpare,
            loopBad := scr0.loopBad, loopPrev := scr0.loopPrev, loopTurn := scr0.loopTurn,
            trimTurn := scr0.trimTurn, fomTurn := scr0.fomTurn,
            scrubAt := kvPut scr0.scrubAt (tabKey (telPage 1) ↑0) ((131070 + 1) % 131072), seen := scr0.seen,
            seenPrev := scr0.seenPrev, suspect := scr0.suspect, found := scr0.found, spares := scr0.spares,
            remaps := scr0.remaps, testing := scr0.testing, finished := scr0.finished, held := scr0.held,
            rotated := scr0.rotated, lastTest := scr0.lastTest, comp := scr0.comp, window := scr0.window,
            wantOpen := scr0.wantOpen, wantShut := scr0.wantShut, fomLow := scr0.fomLow, built := scr0.built :
            HltSt }) ∧
        (kvGet 0 scr0.scrubAt (tabKey (telPage 1) ↑0) = 131070) ∧
        (¬wordKey (telPage 1) 0 65535 0 ∈ scr0.suspect) ∧
        (131070 + 1 < 131072) ∧
        (eccDecode errC.synd = EccRes.correct 32 5) ∧
        (¬(tabKey (telPage 1) ↑0, 131070) ∈ scr0.seen) ∧
        (¬(tabKey (telPage 1) ↑0, 131070) ∈ scr0.seenPrev)) ∧
      (((sScr scrHard).powered) ∧
        ((sScr scrHard).chip.latent = []) ∧
        (Page.present (sScr scrHard).chip.part (telPage 1) = true) ∧
        (1 = Page.home (telPage 1)) ∧
        (awake (sScr scrHard).chip 1 = true) ∧
        (tableOf (sScr scrHard).chip.part (telPage 1) ↑0 = some tel0) ∧
        (↑65535 < tel0.rows) ∧
        (↑0 < ceilDiv tel0.bytes 16) ∧
        (scrHard = (sScr scrHard).chip.hltOf 1) ∧
        (131070 = ceilDiv tel0.bytes 16 * ↑65535 + ↑0) ∧
        (131072 = ceilDiv tel0.bytes 16 * tel0.rows) ∧
        (wordKey (telPage 1) 0 65535 0 = wordKey (telPage 1) ↑0 ↑65535 ↑0) ∧
        (repairUnit (telPage 1) 0 65535 = repairUnit (telPage 1) ↑0 ↑65535) ∧
        (scrNext scrHard (tabKey (telPage 1) 0) 131071 =
          { corr := scrHard.corr, uncorr := scrHard.uncorr, bus := scrHard.bus, noSpare := scrHard.noSpare,
            loopBad := scrHard.loopBad, loopPrev := scrHard.loopPrev, loopTurn := scrHard.loopTurn,
            trimTurn := scrHard.trimTurn, fomTurn := scrHard.fomTurn,
            scrubAt := kvPut scrHard.scrubAt (tabKey (telPage 1) ↑0) ((131070 + 1) % 131072), seen := scrHard.seen,
            seenPrev := scrHard.seenPrev, suspect := scrHard.suspect, found := scrHard.found,
            spares := scrHard.spares, remaps := scrHard.remaps, testing := scrHard.testing,
            finished := scrHard.finished, held := scrHard.held, rotated := scrHard.rotated,
            lastTest := scrHard.lastTest, comp := scrHard.comp, window := scrHard.window,
            wantOpen := scrHard.wantOpen, wantShut := scrHard.wantShut, fomLow := scrHard.fomLow,
            built := scrHard.built : HltSt }) ∧
        (kvGet 0 scrHard.scrubAt (tabKey (telPage 1) ↑0) = 131070) ∧
        (¬wordKey (telPage 1) 0 65535 0 ∈ scrHard.suspect) ∧
        (131070 + 1 < 131072) ∧
        (eccDecode errC.synd = EccRes.correct 32 5) ∧
        (¬(tabKey (telPage 1) ↑0, 131070) ∈ scrHard.seen) ∧
        ((tabKey (telPage 1) ↑0, 131070) ∈ scrHard.seenPrev) ∧
        (kvGet 0 scrHard.spares (repairUnit (telPage 1) 0 65535) < 4) ∧
        (∀ (m : Page × Nat × Nat × Nat × Bool),
          m ∈ scrHard.remaps → m.fst ≠ telPage 1 ∨ m.snd.fst ≠ ↑0 ∨ m.snd.snd.fst ≠ ↑65535)) ∧
      (((sScr (bad0 3)).powered) ∧
        ((sScr (bad0 3)).chip.latent = []) ∧
        (Page.present (sScr (bad0 3)).chip.part (telPage 1) = true) ∧
        (1 = Page.home (telPage 1)) ∧
        (awake (sScr (bad0 3)).chip 1 = true) ∧
        (tableOf (sScr (bad0 3)).chip.part (telPage 1) ↑0 = some tel0) ∧
        (↑65535 < tel0.rows) ∧
        (↑0 < ceilDiv tel0.bytes 16) ∧
        (bad0 3 = (sScr (bad0 3)).chip.hltOf 1) ∧
        (131070 = ceilDiv tel0.bytes 16 * ↑65535 + ↑0) ∧
        (131072 = ceilDiv tel0.bytes 16 * tel0.rows) ∧
        (wordKey (telPage 1) 0 65535 0 = wordKey (telPage 1) ↑0 ↑65535 ↑0) ∧
        (repairUnit (telPage 1) 0 65535 = repairUnit (telPage 1) ↑0 ↑65535) ∧
        (scrNext (bad0 3) (tabKey (telPage 1) 0) 131071 =
          { corr := (bad0 3).corr, uncorr := (bad0 3).uncorr, bus := (bad0 3).bus, noSpare := (bad0 3).noSpare,
            loopBad := (bad0 3).loopBad, loopPrev := (bad0 3).loopPrev, loopTurn := (bad0 3).loopTurn,
            trimTurn := (bad0 3).trimTurn, fomTurn := (bad0 3).fomTurn,
            scrubAt := kvPut (bad0 3).scrubAt (tabKey (telPage 1) ↑0) ((131070 + 1) % 131072),
            seen := (bad0 3).seen, seenPrev := (bad0 3).seenPrev, suspect := (bad0 3).suspect,
            found := (bad0 3).found, spares := (bad0 3).spares, remaps := (bad0 3).remaps,
            testing := (bad0 3).testing, finished := (bad0 3).finished, held := (bad0 3).held,
            rotated := (bad0 3).rotated, lastTest := (bad0 3).lastTest, comp := (bad0 3).comp,
            window := (bad0 3).window, wantOpen := (bad0 3).wantOpen, wantShut := (bad0 3).wantShut,
            fomLow := (bad0 3).fomLow, built := (bad0 3).built : HltSt }) ∧
        (kvGet 0 (bad0 3).scrubAt (tabKey (telPage 1) ↑0) = 131070) ∧
        (131070 + 1 < 131072) ∧
        (wordKey (telPage 1) 0 65535 0 ∈ (bad0 3).suspect) ∧
        (∀ (m : Page × Nat × Nat × Nat × Bool),
          m ∈ (bad0 3).remaps → m.fst ≠ telPage 1 ∨ m.snd.fst ≠ ↑0 ∨ m.snd.snd.fst ≠ ↑65535) ∧
        (kvGet 0 (bad0 3).spares (repairUnit (telPage 1) 0 65535) < 4)) ∧
      (((sScr (bad0 4)).powered) ∧
        ((sScr (bad0 4)).chip.latent = []) ∧
        (Page.present (sScr (bad0 4)).chip.part (telPage 1) = true) ∧
        (1 = Page.home (telPage 1)) ∧
        (awake (sScr (bad0 4)).chip 1 = true) ∧
        (tableOf (sScr (bad0 4)).chip.part (telPage 1) ↑0 = some tel0) ∧
        (↑65535 < tel0.rows) ∧
        (↑0 < ceilDiv tel0.bytes 16) ∧
        (bad0 4 = (sScr (bad0 4)).chip.hltOf 1) ∧
        (131070 = ceilDiv tel0.bytes 16 * ↑65535 + ↑0) ∧
        (131072 = ceilDiv tel0.bytes 16 * tel0.rows) ∧
        (wordKey (telPage 1) 0 65535 0 = wordKey (telPage 1) ↑0 ↑65535 ↑0) ∧
        (repairUnit (telPage 1) 0 65535 = repairUnit (telPage 1) ↑0 ↑65535) ∧
        (scrNext (bad0 4) (tabKey (telPage 1) 0) 131071 =
          { corr := (bad0 4).corr, uncorr := (bad0 4).uncorr, bus := (bad0 4).bus, noSpare := (bad0 4).noSpare,
            loopBad := (bad0 4).loopBad, loopPrev := (bad0 4).loopPrev, loopTurn := (bad0 4).loopTurn,
            trimTurn := (bad0 4).trimTurn, fomTurn := (bad0 4).fomTurn,
            scrubAt := kvPut (bad0 4).scrubAt (tabKey (telPage 1) ↑0) ((131070 + 1) % 131072),
            seen := (bad0 4).seen, seenPrev := (bad0 4).seenPrev, suspect := (bad0 4).suspect,
            found := (bad0 4).found, spares := (bad0 4).spares, remaps := (bad0 4).remaps,
            testing := (bad0 4).testing, finished := (bad0 4).finished, held := (bad0 4).held,
            rotated := (bad0 4).rotated, lastTest := (bad0 4).lastTest, comp := (bad0 4).comp,
            window := (bad0 4).window, wantOpen := (bad0 4).wantOpen, wantShut := (bad0 4).wantShut,
            fomLow := (bad0 4).fomLow, built := (bad0 4).built : HltSt }) ∧
        (kvGet 0 (bad0 4).scrubAt (tabKey (telPage 1) ↑0) = 131070) ∧
        (131070 + 1 < 131072) ∧
        (wordKey (telPage 1) 0 65535 0 ∈ (bad0 4).suspect) ∧
        (∀ (m : Page × Nat × Nat × Nat × Bool),
          m ∈ (bad0 4).remaps → m.fst ≠ telPage 1 ∨ m.snd.fst ≠ ↑0 ∨ m.snd.snd.fst ≠ ↑65535) ∧
        (4 ≤ kvGet 0 (bad0 4).spares (repairUnit (telPage 1) 0 65535))) ∧
      (((sScr remap0).powered) ∧
        ((sScr remap0).chip.latent = []) ∧
        (Page.present (sScr remap0).chip.part (telPage 1) = true) ∧
        (1 = Page.home (telPage 1)) ∧
        (awake (sScr remap0).chip 1 = true) ∧
        (tableOf (sScr remap0).chip.part (telPage 1) ↑0 = some tel0) ∧
        (↑65535 < tel0.rows) ∧
        (↑0 < ceilDiv tel0.bytes 16) ∧
        (remap0 = (sScr remap0).chip.hltOf 1) ∧
        (131070 = ceilDiv tel0.bytes 16 * ↑65535 + ↑0) ∧
        (131072 = ceilDiv tel0.bytes 16 * tel0.rows) ∧
        (wordKey (telPage 1) 0 65535 0 = wordKey (telPage 1) ↑0 ↑65535 ↑0) ∧
        (repairUnit (telPage 1) 0 65535 = repairUnit (telPage 1) ↑0 ↑65535) ∧
        (scrNext remap0 (tabKey (telPage 1) 0) 131071 =
          { corr := remap0.corr, uncorr := remap0.uncorr, bus := remap0.bus, noSpare := remap0.noSpare,
            loopBad := remap0.loopBad, loopPrev := remap0.loopPrev, loopTurn := remap0.loopTurn,
            trimTurn := remap0.trimTurn, fomTurn := remap0.fomTurn,
            scrubAt := kvPut remap0.scrubAt (tabKey (telPage 1) ↑0) ((131070 + 1) % 131072), seen := remap0.seen,
            seenPrev := remap0.seenPrev, suspect := remap0.suspect, found := remap0.found, spares := remap0.spares,
            remaps := remap0.remaps, testing := remap0.testing, finished := remap0.finished, held := remap0.held,
            rotated := remap0.rotated, lastTest := remap0.lastTest, comp := remap0.comp, window := remap0.window,
            wantOpen := remap0.wantOpen, wantShut := remap0.wantShut, fomLow := remap0.fomLow,
            built := remap0.built : HltSt }) ∧
        (remap0.remaps = [(telPage 1, ↑0, ↑65535, 3, true)]) ∧
        (Memory.wf (sScr remap0).chip.mem = true) ∧
        (0 = BitVec.toNat ((sScr remap0).chip.get (hltPage 1) 288) % 1024)) := by
  refine ⟨?_, ?_, ?_, ?_, ?_, ?_, ?_, ?_, ?_⟩
  all_goals
    try simp only [State.powered]
    decide +kernel

theorem witness_FiringCheckTestsAndWatches :
      (((sHlt 64 0 2 { : HltSt }).ready 1) ∧
        ({ : HltSt } = (sHlt 64 0 2 { : HltSt }).chip.hltOf 1) ∧
        (1 = cxOfSlice 7) ∧
        (checkMay (sHlt 64 0 2 { : HltSt }).chip 1 = true) ∧
        ((sHlt 64 0 2 { : HltSt }).chip.liveFlag (hltPage 1) 64 1 = true) ∧
        (throttled (sHlt 64 0 2 { : HltSt }).chip 1 = false) ∧
        ((sHlt 64 0 2 { : HltSt }).clk.clock = 0) ∧
        ((sHlt 64 0 2 { : HltSt }).chip.liveFlag (prsPage 7) 68 ↑15 = true) ∧
        (kvFind { : HltSt }.lastTest ↑7 = none) ∧
        (∀ (t : Nat × Nat), t ∈ { : HltSt }.rotated ++ { : HltSt }.held ++ { : HltSt }.testing → t.fst ≠ ↑7) ∧
        (14 ≤ (List.filter (fun a => decide (a ≠ ↑15)) (enginesIn (sHlt 64 0 2 { : HltSt }).chip 7)).length)) ∧
      ((sDraining.ready 1) ∧
        (testing0 = sDraining.chip.hltOf 1) ∧
        (1 = cxOfSlice 7) ∧
        (underTest sDraining.chip 7 = some 5) ∧
        (512 ≤ sDraining.clk.clock) ∧
        (engineDrained sDraining.chip 7 5 = false)) ∧
      (((sHlt 64 64 2 testing0).ready 1) ∧
        (testing0 = (sHlt 64 64 2 testing0).chip.hltOf 1) ∧
        (1 = cxOfSlice 7) ∧
        (underTest (sHlt 64 64 2 testing0).chip 7 = some 5) ∧
        (engineDrained (sHlt 64 64 2 testing0).chip 7 5 = true)) ∧
      (((sHlt 64 64 4 { : HltSt }).ready 1) ∧
        ({ : HltSt } = (sHlt 64 64 4 { : HltSt }).chip.hltOf 1) ∧
        (1 = cxOfPg 63) ∧
        (checkMay (sHlt 64 64 4 { : HltSt }).chip 1 = true) ∧
        ((sHlt 64 64 4 { : HltSt }).chip.liveFlag (hltPage 1) 64 2 = true) ∧
        (throttled (sHlt 64 64 4 { : HltSt }).chip 1 = false) ∧
        (kvFind { : HltSt }.loopTurn ↑63 ≠ some (sHlt 64 64 4 { : HltSt }).clk.turn) ∧
        (segmentsOf (sHlt 64 64 4 { : HltSt }).chip ↑63 + 16 ≤ 1024) ∧
        (busFree (sHlt 64 64 4 { : HltSt }).chip ↑63 = true) ∧
        (busFree (sHlt 64 64 4 { : HltSt }).chip (64 + ↑63) = true)) ∧
      (((sHlt 64 64 4 { : HltSt }).ready 1) ∧
        ({ : HltSt } = (sHlt 64 64 4 { : HltSt }).chip.hltOf 1) ∧
        (1 = cxOfPg 63) ∧
        (checkMay (sHlt 64 64 4 { : HltSt }).chip 1 = true) ∧
        ((sHlt 64 64 4 { : HltSt }).chip.liveFlag (hltPage 1) 64 2 = true) ∧
        (throttled (sHlt 64 64 4 { : HltSt }).chip 1 = false) ∧
        (kvFind { : HltSt }.loopTurn ↑63 ≠ some (sHlt 64 64 4 { : HltSt }).clk.turn) ∧
        (segmentsOf (sHlt 64 64 4 { : HltSt }).chip ↑63 + 16 ≤ 1024) ∧
        (busFree (sHlt 64 64 4 { : HltSt }).chip ↑63 = true) ∧
        (busFree (sHlt 64 64 4 { : HltSt }).chip (64 + ↑63) = true)) ∧
      (((sHlt 64 64 8 { comp := [(255, 19)] : HltSt }).ready 1) ∧
        ({ comp := [(255, 19)] : HltSt } = (sHlt 64 64 8 { comp := [(255, 19)] : HltSt }).chip.hltOf 1) ∧
        (255 < 256) ∧
        ((sHlt 64 64 8 { comp := [(255, 19)] : HltSt }).chip.enabled (hltPage 1) = true) ∧
        ((sHlt 64 64 8 { comp := [(255, 19)] : HltSt }).chip.liveFlag (hltPage 1) 64 3 = true) ∧
        (hltWindowed (sHlt 64 64 8 { comp := [(255, 19)] : HltSt }).chip = false) ∧
        ({ comp := [(255, 19)] : HltSt }.trimTurn ≠ some (sHlt 64 64 8 { comp := [(255, 19)] : HltSt }).clk.turn)) ∧
      ((sLane.ready 1) ∧
        ({ fomLow := [(248, 15)] : HltSt } = sLane.chip.hltOf 1) ∧
        (248 < 256) ∧
        ((laneOwner sLane.chip (laneOf 1 248)).isSome = true) ∧
        (kvFind [(248, rep0)] 248 = some rep0) ∧
        (8 = rep0.fom % 65536) ∧
        (lnePage 504 = lnePage (laneOf 1 248))) := by
  refine ⟨?_, ?_, ?_, ?_, ?_, ?_, ?_⟩
  all_goals
    try simp only [State.ready]
    decide +kernel

theorem witness_ReportsWindowsAndTemperature :
      (({ uncorr := 16 : HltSt } = (sHlt 64 64 (31 * 256) { uncorr := 16 : HltSt }).chip.hltOf 1) ∧
        ((sHlt 64 64 (31 * 256) { uncorr := 16 : HltSt }).ready 1) ∧
        ((sHlt 64 64 (31 * 256) { uncorr := 16 : HltSt }).chip.enabled (hltPage 1) = true) ∧
        ((sHlt 64 64 (31 * 256) { uncorr := 16 : HltSt }).clk.turn % 16 = 0) ∧
        ({ uncorr := 16 : HltSt }.built ≠ some ((sHlt 64 64 (31 * 256) { uncorr := 16 : HltSt }).clk.turn / 16)) ∧
        (true =
          decide
            (fatalBits (sHlt 64 64 (31 * 256) { uncorr := 16 : HltSt }).chip 1 &&&
                (sHlt 64 64 (31 * 256) { uncorr := 16 : HltSt }).chip.live (hltPage 1) 64 12 8 ≠
              0))) ∧
      (({ : HltSt } = (sWindowed 64 64 { : HltSt }).chip.hltOf 1) ∧
        ((sWindowed 64 64 { : HltSt }).writable (hltPage 1)) ∧
        (hltWindowed (sWindowed 64 64 { : HltSt }).chip = true)) ∧
      (({ : HltSt } = (sWindowed 64 64 { : HltSt }).chip.hltOf 1) ∧
        ((sWindowed 64 64 { : HltSt }).writable (hltPage 1)) ∧
        (hltWindowed (sWindowed 64 64 { : HltSt }).chip = true)) ∧
      (({ : HltSt } = (sWindowed 64 0 { : HltSt }).chip.hltOf 1) ∧
        ((sWindowed 64 0 { : HltSt }).ready 1) ∧
        (hltWindowed (sWindowed 64 0 { : HltSt }).chip = true) ∧
        ((sWindowed 64 0 { : HltSt }).chip.enabled (hltPage 1) = true) ∧
        (4 = (sWindowed 64 0 { : HltSt }).chip.live (hltPage 1) 68 31 16) ∧
        (4 ≠ 0) ∧
        ((sWindowed 64 0 { : HltSt }).clk.turn % (16 * 4) = 0) ∧
        ((sWindowed 64 0 { : HltSt }).clk.clock = 0) ∧
        ({ : HltSt }.window ≠ some (sWindowed 64 0 { : HltSt }).clk.turn)) ∧
      (({ window := some 63 : HltSt } = (sWindowed 64 0 { window := some 63 : HltSt }).chip.hltOf 1) ∧
        ((sWindowed 64 0 { window := some 63 : HltSt }).ready 1) ∧
        ({ window := some 63 : HltSt }.window = some 63) ∧
        (63 + max 1 ((sWindowed 64 0 { window := some 63 : HltSt }).chip.live (hltPage 1) 68 15 0) ≤
          (sWindowed 64 0 { window := some 63 : HltSt }).clk.turn)) ∧
      (((sTherm { hot := 3 : ThermSt } 0).ready 1) ∧
        ({ hot := 3 : ThermSt } = (sTherm { hot := 3 : ThermSt } 0).chip.thermOf 1) ∧
        ({ hot := 3 : ThermSt }.read_ ≠ some (sTherm { hot := 3 : ThermSt } 0).clk.turn) ∧
        (240 = ↑((sTherm { hot := 3 : ThermSt } 0).chip.live (cpxPage 1) 388 7 0) * 4) ∧
        (224 = 240 - ↑((sTherm { hot := 3 : ThermSt } 0).chip.live (cpxPage 1) 388 11 8) * 4)) ∧
      (((sTherm { cool := 63 : ThermSt } 1).ready 1) ∧
        ({ cool := 63 : ThermSt } = (sTherm { cool := 63 : ThermSt } 1).chip.thermOf 1) ∧
        ({ cool := 63 : ThermSt }.read_ ≠ some (sTherm { cool := 63 : ThermSt } 1).clk.turn) ∧
        (240 = ↑((sTherm { cool := 63 : ThermSt } 1).chip.live (cpxPage 1) 388 7 0) * 4) ∧
        (224 = 240 - ↑((sTherm { cool := 63 : ThermSt } 1).chip.live (cpxPage 1) 388 11 8) * 4)) := by
  refine ⟨?_, ?_, ?_, ?_, ?_, ?_, ?_⟩
  all_goals
    try simp only [State.writable, State.ready]
    decide +kernel

theorem witness_MarksAreLogged :
      ((logPg = onePage 1 CxType.log) ∧
        ((sLog 0 { entry := 4096 : LogSt }).writable logPg) ∧
        ({ entry := 4096 : LogSt } = (sLog 0 { entry := 4096 : LogSt }).chip.logSt 1) ∧
        (markKey =
          ((sLog 0 { entry := 4096 : LogSt }).clk.turn, 240, Page.code logPg, Page.instNum logPg,
            BitVec.toNat ((sLog 0 { entry := 4096 : LogSt }).chip.get logPg 72))) ∧
        ({ entry := 4096 : LogSt }.last ≠ some markKey) ∧
        ((sLog 0 { entry := 4096 : LogSt }).chip.flag logPg 64 0 = false) ∧
        (Memory.wf (sLog 0 { entry := 4096 : LogSt }).chip.mem = true)) ∧
      ((logPg = onePage 1 CxType.log) ∧
        ((sLog 0 { entry := 1, last := some markKey : LogSt }).writable logPg) ∧
        ({ entry := 1, last := some markKey : LogSt } =
          (sLog 0 { entry := 1, last := some markKey : LogSt }).chip.logSt 1) ∧
        (markKey =
          ((sLog 0 { entry := 1, last := some markKey : LogSt }).clk.turn, 240, Page.code logPg, Page.instNum logPg,
            BitVec.toNat ((sLog 0 { entry := 1, last := some markKey : LogSt }).chip.get logPg 72))) ∧
        ({ entry := 1, last := some markKey : LogSt }.last = some markKey) ∧
        (Memory.wf (sLog 0 { entry := 1, last := some markKey : LogSt }).chip.mem = true)) ∧
      ((logPg = onePage 1 CxType.log) ∧
        ((sLog 1 { entry := 5000, frozen := 904 : LogSt }).writable logPg) ∧
        ({ entry := 5000, frozen := 904 : LogSt } = (sLog 1 { entry := 5000, frozen := 904 : LogSt }).chip.logSt 1) ∧
        (markKey =
          ((sLog 1 { entry := 5000, frozen := 904 : LogSt }).clk.turn, 240, Page.code logPg, Page.instNum logPg,
            BitVec.toNat ((sLog 1 { entry := 5000, frozen := 904 : LogSt }).chip.get logPg 72))) ∧
        ({ entry := 5000, frozen := 904 : LogSt }.last ≠ some markKey) ∧
        ((sLog 1 { entry := 5000, frozen := 904 : LogSt }).chip.flag logPg 64 0 = true) ∧
        ({ entry := 5000, frozen := 904 : LogSt }.frozen + 4096 ≤ { entry := 5000, frozen := 904 : LogSt }.entry)) ∧
      ((logPg = onePage 1 CxType.log) ∧
        ((sLog 0 { entry := 5000 : LogSt }).writable logPg) ∧
        ({ entry := 5000 : LogSt } = (sLog 0 { entry := 5000 : LogSt }).chip.logSt 1) ∧
        (markKey =
          ((sLog 0 { entry := 5000 : LogSt }).clk.turn, 240, Page.code logPg, Page.instNum logPg,
            BitVec.toNat ((sLog 0 { entry := 5000 : LogSt }).chip.get logPg 72)))) := by
  refine ⟨?_, ?_, ?_, ?_⟩
  all_goals
    try simp only [State.writable]
    decide +kernel

theorem witness_SweepPassesRun :
      (({ : SweepSt } = (sSwp 64 0 2 2 { : SweepSt }).chip.swpOf 1) ∧
        ((sSwp 64 0 2 2 { : SweepSt }).writable (swpPage 1)) ∧
        (swpState (sSwp 64 0 2 2 { : SweepSt }).chip 1 = 0) ∧
        ({ : SweepSt }.asked = none)) ∧
      ((gAsk = (sSwp 64 0 2 2 gAsk).chip.swpOf 1) ∧
        ((sSwp 64 0 2 2 gAsk).writable (swpPage 1)) ∧
        (swpState (sSwp 64 0 2 2 gAsk).chip 1 = 0)) ∧
      (({ : SweepSt } = (sSwp 64 2 2 2 { : SweepSt }).chip.swpOf 1) ∧
        ((sSwp 64 2 2 2 { : SweepSt }).writable (swpPage 1)) ∧
        (swpState (sSwp 64 2 2 2 { : SweepSt }).chip 1 = 2)) ∧
      ((gRun false = (sSwp 64 1 2 2 (gRun false)).chip.swpOf 1) ∧
        ((sSwp 64 1 2 2 (gRun false)).writable (swpPage 1)) ∧
        (swpState (sSwp 64 1 2 2 (gRun false)).chip 1 = 1) ∧
        ((gRun false).ended = true ∨ (gRun false).due ≤ (sSwp 64 1 2 2 (gRun false)).clk.turn)) ∧
      (((let __src := gRun true;
          { asked := __src.asked, running := __src.running, list := __src.list, func := __src.func,
            base := __src.base, start := __src.start, last := __src.last, due := 65, pos := __src.pos,
            missing := __src.missing, uncorr := __src.uncorr, ended := __src.ended, stop := __src.stop :
            SweepSt }) =
          (sSwp 64 1 2 2
                  (let __src := gRun true;
                  { asked := __src.asked, running := __src.running, list := __src.list, func := __src.func,
                    base := __src.base, start := __src.start, last := __src.last, due := 65, pos := __src.pos,
                    missing := __src.missing, uncorr := __src.uncorr, ended := __src.ended, stop := __src.stop :
                    SweepSt })).chip.swpOf
            1) ∧
        ((sSwp 64 1 2 2
              (let __src := gRun true;
              { asked := __src.asked, running := __src.running, list := __src.list, func := __src.func,
                base := __src.base, start := __src.start, last := __src.last, due := 65, pos := __src.pos,
                missing := __src.missing, uncorr := __src.uncorr, ended := __src.ended, stop := __src.stop :
                SweepSt })).writable
          (swpPage 1)) ∧
        (swpState
            (sSwp 64 1 2 2
                (let __src := gRun true;
                { asked := __src.asked, running := __src.running, list := __src.list, func := __src.func,
                  base := __src.base, start := __src.start, last := __src.last, due := 65, pos := __src.pos,
                  missing := __src.missing, uncorr := __src.uncorr, ended := __src.ended, stop := __src.stop :
                  SweepSt })).chip
            1 =
          1) ∧
        ((let __src := gRun true;
              { asked := __src.asked, running := __src.running, list := __src.list, func := __src.func,
                base := __src.base, start := __src.start, last := __src.last, due := 65, pos := __src.pos,
                missing := __src.missing, uncorr := __src.uncorr, ended := __src.ended, stop := __src.stop :
                SweepSt }).ended =
            true ∨
          (let __src := gRun true;
              { asked := __src.asked, running := __src.running, list := __src.list, func := __src.func,
                base := __src.base, start := __src.start, last := __src.last, due := 65, pos := __src.pos,
                missing := __src.missing, uncorr := __src.uncorr, ended := __src.ended, stop := __src.stop :
                SweepSt }).due ≤
            (sSwp 64 1 2 2
                  (let __src := gRun true;
                  { asked := __src.asked, running := __src.running, list := __src.list, func := __src.func,
                    base := __src.base, start := __src.start, last := __src.last, due := 65, pos := __src.pos,
                    missing := __src.missing, uncorr := __src.uncorr, ended := __src.ended, stop := __src.stop :
                    SweepSt })).clk.turn)) ∧
      (((let __src := gRun false;
          { asked := __src.asked, running := __src.running, list := __src.list, func := __src.func,
            base := __src.base, start := __src.start, last := __src.last, due := 65, pos := __src.pos,
            missing := __src.missing, uncorr := __src.uncorr, ended := __src.ended, stop := __src.stop :
            SweepSt }) =
          (sSwp 64 1 2 2
                  (let __src := gRun false;
                  { asked := __src.asked, running := __src.running, list := __src.list, func := __src.func,
                    base := __src.base, start := __src.start, last := __src.last, due := 65, pos := __src.pos,
                    missing := __src.missing, uncorr := __src.uncorr, ended := __src.ended, stop := __src.stop :
                    SweepSt })).chip.swpOf
            1) ∧
        ((sSwp 64 1 2 2
              (let __src := gRun false;
              { asked := __src.asked, running := __src.running, list := __src.list, func := __src.func,
                base := __src.base, start := __src.start, last := __src.last, due := 65, pos := __src.pos,
                missing := __src.missing, uncorr := __src.uncorr, ended := __src.ended, stop := __src.stop :
                SweepSt })).writable
          (swpPage 1)) ∧
        (swpState
            (sSwp 64 1 2 2
                (let __src := gRun false;
                { asked := __src.asked, running := __src.running, list := __src.list, func := __src.func,
                  base := __src.base, start := __src.start, last := __src.last, due := 65, pos := __src.pos,
                  missing := __src.missing, uncorr := __src.uncorr, ended := __src.ended, stop := __src.stop :
                  SweepSt })).chip
            1 =
          1) ∧
        ((let __src := gRun false;
            { asked := __src.asked, running := __src.running, list := __src.list, func := __src.func,
              base := __src.base, start := __src.start, last := __src.last, due := 65, pos := __src.pos,
              missing := __src.missing, uncorr := __src.uncorr, ended := __src.ended, stop := __src.stop :
              SweepSt }).ended =
          false) ∧
        ((sSwp 64 1 2 2
                (let __src := gRun false;
                { asked := __src.asked, running := __src.running, list := __src.list, func := __src.func,
                  base := __src.base, start := __src.start, last := __src.last, due := 65, pos := __src.pos,
                  missing := __src.missing, uncorr := __src.uncorr, ended := __src.ended, stop := __src.stop :
                  SweepSt })).clk.turn <
          (let __src := gRun false;
            { asked := __src.asked, running := __src.running, list := __src.list, func := __src.func,
              base := __src.base, start := __src.start, last := __src.last, due := 65, pos := __src.pos,
              missing := __src.missing, uncorr := __src.uncorr, ended := __src.ended, stop := __src.stop :
              SweepSt }).due)) ∧
      ((gAsk = (sSwp 0 0 2 2 gAsk).chip.swpOf 1) ∧
        ((sSwp 0 0 2 2 gAsk).ready 1) ∧
        ((sSwp 0 0 2 2 gAsk).chip.accepting (swpPage 1) = true) ∧
        ((sSwp 0 0 2 2 gAsk).clk.clock = 0) ∧
        (gAsk.asked = some 63) ∧
        (63 < (sSwp 0 0 2 2 gAsk).clk.turn) ∧
        ((sSwp 0 0 2 2 gAsk).chip.latent = []) ∧
        ([desc0] = sweepList (sSwp 0 0 2 2 gAsk).chip 1) ∧
        (∀ (e : SweepDesc), e ∈ [desc0] → sweepBad (sSwp 0 0 2 2 gAsk).chip 1 e = false) ∧
        (sweepChunks [desc0] < (sSwp 0 0 2 2 gAsk).chip.live (swpPage 1) 80 19 0) ∧
        (funcRuns (sSwp 0 0 2 2 gAsk).chip ((sSwp 0 0 2 2 gAsk).chip.live (swpPage 1) 64 13 8) = true)) ∧
      ((gAsk = (sSwp 0 0 1 2 gAsk).chip.swpOf 1) ∧
        ((sSwp 0 0 1 2 gAsk).ready 1) ∧
        ((sSwp 0 0 1 2 gAsk).chip.accepting (swpPage 1) = true) ∧
        ((sSwp 0 0 1 2 gAsk).clk.clock = 0) ∧
        (gAsk.asked = some 63) ∧
        (63 < (sSwp 0 0 1 2 gAsk).clk.turn) ∧
        ((sSwp 0 0 1 2 gAsk).chip.latent = []) ∧
        ([desc0] = sweepList (sSwp 0 0 1 2 gAsk).chip 1) ∧
        (∀ (e : SweepDesc), e ∈ [desc0] → sweepBad (sSwp 0 0 1 2 gAsk).chip 1 e = false) ∧
        ((sSwp 0 0 1 2 gAsk).chip.live (swpPage 1) 80 19 0 ≤ sweepChunks [desc0])) ∧
      ((gAsk = (sSwp 0 0 2 3 gAsk).chip.swpOf 1) ∧
        ((sSwp 0 0 2 3 gAsk).ready 1) ∧
        ((sSwp 0 0 2 3 gAsk).chip.accepting (swpPage 1) = true) ∧
        ((sSwp 0 0 2 3 gAsk).clk.clock = 0) ∧
        (gAsk.asked = some 63) ∧
        (63 < (sSwp 0 0 2 3 gAsk).clk.turn) ∧
        ((sSwp 0 0 2 3 gAsk).chip.latent = []) ∧
        (List.findIdx? (sweepBad (sSwp 0 0 2 3 gAsk).chip 1) (sweepList (sSwp 0 0 2 3 gAsk).chip 1) = some 0)) ∧
      ((gRun false = (sSwp 64 1 2 2 (gRun false)).chip.swpOf 1) ∧
        ((sSwp 64 1 2 2 (gRun false)).ready 1) ∧
        ((gRun false).running = true) ∧
        ((gRun false).ended = false) ∧
        ((gRun false).due = (sSwp 64 1 2 2 (gRun false)).clk.turn) ∧
        (64 ≤ (sSwp 64 1 2 2 (gRun false)).clk.clock) ∧
        ((sSwp 64 1 2 2 (gRun false)).chip.latent = []) ∧
        (0 = BitVec.toNat ((sSwp 64 1 2 2 (gRun false)).chip.get (swpPage 1) 104)) ∧
        (2 ^ 30 + 4096 = (gRun false).base + 4096 * (0 + 1)) ∧
        (List.replicate 32 0 =
          List.flatMap
            (fun q =>
              (readSlice (sSwp 64 1 2 2 (gRun false)).clk 1 (gRun false).list [] q
                    (sSwp 64 1 2 2 (gRun false)).chip.clear).snd.fst)
            (dueSlices (gRun false)).zipIdx)) ∧
      ((gRun true = (sSwp 64 1 2 2 (gRun true)).chip.swpOf 1) ∧
        ((sSwp 64 1 2 2 (gRun true)).ready 1) ∧
        ((gRun true).running = true) ∧
        ((gRun true).ended = true) ∧
        ((gRun true).due ≤ (sSwp 64 1 2 2 (gRun true)).clk.turn) ∧
        (64 ≤ (sSwp 64 1 2 2 (gRun true)).clk.clock)) := by
  refine ⟨?_, ?_, ?_, ?_, ?_, ?_, ?_, ?_, ?_, ?_, ?_⟩
  all_goals
    try simp only [State.writable, State.ready]
    decide +kernel

end Sys2Proof.Tests
end

section
/-!
Chip time as one count, and the TIM_CMD write behind LOAD_INCR (R128, R130, R132, R133).
-/
namespace Sys2Proof.Machine

/-! Chip time as one count of 2^-48 ns (R128). -/

/-- Before the wrap at 2^48 s, `n` clocks add `n` increments: the carries move between the fields and lose nothing. -/
theorem Clk.total_add_mul_incr (k : Clk) (n : Nat) :
    Clk.total k + n * k.incr =
      ((k.sec + (k.ns + (k.frac + n * k.incr) / 2 ^ 48) / 1000000000) * 1000000000 +
        (k.ns + (k.frac + n * k.incr) / 2 ^ 48) % 1000000000) * 2 ^ 48 + (k.frac + n * k.incr) % 2 ^ 48 := by
  have hfrac := Nat.div_add_mod (k.frac + n * k.incr) (2 ^ 48)
  have hns := Nat.div_add_mod (k.ns + (k.frac + n * k.incr) / 2 ^ 48) 1000000000
  unfold Clk.total
  omega

/-- A count whose seconds are reduced to 48 bits is the whole count reduced at the wrap. -/
theorem total_mod_totalWrap {ns frac : Nat} (sec : Nat) (hns : ns < 1000000000) (hfrac : frac < 2 ^ 48) :
    ((sec * 1000000000 + ns) * 2 ^ 48 + frac) % totalWrap = (sec % 2 ^ 48 * 1000000000 + ns) * 2 ^ 48 + frac := by
  unfold totalWrap
  omega

/-- Chip time advances by one increment a clock, modulo 2^48 s. -/
theorem Clk.total_plus (k : Clk) (n : Nat) : Clk.total (Clk.plus k n) = (Clk.total k + n * k.incr) % totalWrap := by
  rw [Clk.total_add_mul_incr, total_mod_totalWrap _ (Nat.mod_lt _ (by decide)) (Nat.mod_lt _ (by decide))]
  rfl

/-! The increments accepted (R130). -/

theorem incrOk_iff (v : Nat) : incrOk v = true ↔ 180053913102273 ≤ v ∧ v ≤ 180234057087367 := by simp [incrOk]

theorem incrOk_eq_false_iff (v : Nat) : incrOk v = false ↔ v < 180053913102273 ∨ 180234057087367 < v := by
  rw [← Bool.not_eq_true, incrOk_iff]
  omega

/-! Writes of TIM_CMD (R132, R133). -/

/-- TIM_CMD: its bits start something and store nothing. -/
def timCmdReg : Reg := r32 "TIM_CMD" 0x048 [fWos 3 3, fWos 2 2, fWos 1 1, fWos 0 0]

theorem regAt_timCmd : Page.regAt .tim 0x048 = some timCmdReg := rfl

theorem mask_timCmdReg {a : Acc} (ha : a ≠ .wos) : Reg.mask timCmdReg a = 0 := by
  simp [Reg.mask, timCmdReg, r32, fWos, ha.symm]

theorem merge_zero_mask (old new : Word) : merge 0#64 old new = old := by
  rw [merge, BitVec.not_zero, BitVec.and_allOnes, BitVec.and_zero, BitVec.or_zero]

/-- The fields of TIM_CMD put back what the register held. -/
theorem fieldWrite_timCmd (k : Clk) (v : Nat) (c : Chip) :
    fieldWrite k .tim timCmdReg 0x048 v c = Chip.put c .tim 0x048 (Chip.get c .tim 0x048) := by
  have hplain : plainMask c .tim timCmdReg 0x048 = 0 := by simp [plainMask, mask_timCmdReg]
  simp [fieldWrite, hplain, merge_zero_mask, stageNorm, mask_timCmdReg, -BitVec.reduceNot, -BitVec.reduceAllOnes]

/-- A write of TIM_CMD on a page that takes it: the commands that its bits name run. -/
theorem writeReg_timCmd {s : State} (hw : s.writable .tim) {v : Nat} (hv : v < 2 ^ 32) :
    writeReg s.clk .tim 0x048 v s.chip.clear = masterWrote .pcie
      (timCmd s.clk v false (Chip.put s.chip.clear .tim 0x048 (Chip.get s.chip .tim 0x048))) := by
  have hlocked : Chip.locked s.chip.clear .tim = false := hw.2.2.2
  rw [State.writable_write hw _ _ _ regAt_timCmd rfl (by decide) (by decide), Nat.mod_eq_of_lt hv,
    regWrite_unit _ _ _ _ _ _ (by simp) (by decide) (by omega) (.inr (by simp)), unitWrite, hlocked,
    fieldWrite_timCmd, Chip.get_clear]
  rfl

/-- LOAD_INCR with no adjustment pending: scheduled for turn t + 16 where the increment is accepted, else rejected. -/
theorem timCmd_loadIncr (k : Clk) (c : Chip) (hadj : c.time.adj = none) :
    timCmd k 2 false c =
      if incrOk (Chip.get c .tim 0x058).toNat then
        Chip.setFld { c with time := { c.time with
          adj := some ⟨k.turn + 16, some (Chip.get c .tim 0x058).toNat, none, none⟩ } } .tim 0x044 5 5 1
      else rejectAdjust c := by
  have hbits : bit 2 0 = false ∧ bit 2 1 = true ∧ bit 2 2 = false ∧ bit 2 3 = false := by decide
  obtain ⟨h0, h1, h2, h3⟩ := hbits
  cases hok : incrOk (Chip.get c .tim 0x058).toNat <;> simp [timCmd, startAdjust, Chip.onlyIf, h0, h1, h2, h3, hadj, hok]

/-- A rejected adjustment is counted. -/
theorem get_rejectAdjust_count (c : Chip) :
    Chip.get (rejectAdjust c) .tim 0x178 = Chip.get c .tim 0x178 + 1 := by
  rw [rejectAdjust, Chip.get_cause_off _ _ _ _ (by decide), Chip.get_bump_self]

@[simp] theorem rejectAdjust_time (c : Chip) : (rejectAdjust c).time = c.time := rfl

/-- A command that is a named write of TIM_CMD runs on the chip with TIM_CMD put back as it stood. -/
theorem writes_of_timCmd {s : State} (hw : s.writable .tim) {i : Instr} {v : Nat} (hv : v < 2 ^ 32)
    (hi : exec i s = s.act (fun k c => writeReg k .tim 0x048 v c)) {P : Chip → Prop}
    (h : P (timCmd s.clk v false (Chip.put s.chip.clear .tim 0x048 (Chip.get s.chip .tim 0x048)))) : Writes i s P :=
  ⟨_, by rw [hi, State.act_eq s _ hw.1, writeReg_timCmd hw hv], h⟩

/-- LOAD_INCR of an increment in range, with no adjustment pending, is scheduled for turn t + 16. -/
theorem loadIncr_schedules {s : State} (hw : s.writable .tim) (hadj : s.chip.time.adj = none)
    (hok : incrOk (Chip.get s.chip .tim 0x058).toNat = true) :
    Writes .loadIncr s (fun d =>
      d.time.adj = some ⟨s.clk.turn + 16, some (Chip.get s.chip .tim 0x058).toNat, none, none⟩) := by
  apply writes_of_timCmd hw (v := 2) (by decide) rfl
  rw [timCmd_loadIncr, Chip.get_put_off _ _ _ _ _ (by decide), Chip.get_clear, if_pos hok, Chip.setFld, Chip.put_time]
  exact hadj

/-- LOAD_INCR of an increment outside the range changes nothing of time, and is counted. -/
theorem loadIncr_rejects {s : State} (hw : s.writable .tim) (hadj : s.chip.time.adj = none)
    (hbad : incrOk (Chip.get s.chip .tim 0x058).toNat = false) :
    Writes .loadIncr s (fun d => d.time = s.chip.time ∧ Chip.get d .tim 0x178 = Chip.get s.chip .tim 0x178 + 1) := by
  apply writes_of_timCmd hw (v := 2) (by decide) rfl
  rw [timCmd_loadIncr, Chip.get_put_off _ _ _ _ _ (by decide), Chip.get_clear, hbad, if_neg Bool.false_ne_true]
  · refine ⟨rejectAdjust_time _, ?_⟩
    rw [get_rejectAdjust_count, Chip.get_put_off _ _ _ _ _ (by decide), Chip.get_clear]
  · exact hadj

/-- The nominal increment differs from 0.64 ns by less than 10^-15 of it (R130). -/
theorem nominalIncr_precision :
    (((nominalIncr * 100 : Nat) : Int) - (64 * 2 ^ 48 : Nat)).natAbs * 10 ^ 15 < 64 * 2 ^ 48 := by decide

/-- Settles O22: the unit by the sum that each clock adds to chip time, the range by the two outcomes of LOAD_INCR. -/
theorem incrementsAreInRange : Obligations.IncrementsAreInRange := by
  refine ⟨rfl, rfl, nominalIncr_precision, fun k _ => ?_, fun s hw hadj v hv => ?_⟩
  · rw [Clk.total_plus, Nat.one_mul]
  · subst hv
    exact ⟨fun hin => loadIncr_schedules hw hadj ((incrOk_iff _).mpr hin),
      fun hout => loadIncr_rejects hw hadj ((incrOk_eq_false_iff _).mpr hout)⟩

end Sys2Proof.Machine
end

section
/-!
CHECK: what it compares and reports, and the CHK_CMD write behind it (R364, R365, R369).
-/
namespace Sys2Proof.Machine

/-! What a CHECK reports (R364, R365). -/

/-- The chip once a CHECK has put its value in CHK_RESULT and counted a block left partial, before it reports. -/
def chkResult (x : Cx) (u : Fin 4) (c : Chip) : Chip :=
  let s := Chip.chkOf c x u
  let v := chkFinal s.ctl (Chip.get c (chkPage x u) 0x080).toNat
  let c := Chip.put c (chkPage x u) 0x078 (BitVec.ofNat 64 (if chkRecord s.ctl then s.good else v))
  if chkRecord s.ctl && decide (s.pos ≠ 0) then Chip.bump c (chkPage x u) 0x098 else c

/-- A CHECK reports what `chkMatches` says: VALID and MATCH, or VALID and MISMATCH with its cause and its count. -/
theorem chkCheck_eq (x : Cx) (u : Fin 4) (c : Chip) :
    chkCheck x u c =
      if chkMatches c x u then Chip.setFld (chkResult x u c) (chkPage x u) 0x074 4 2 3
      else Chip.bump (Chip.cause (Chip.setFld (chkResult x u c) (chkPage x u) 0x074 4 2 5) (chkPage x u) 9)
        (chkPage x u) 0x100 := by
  have hshape : chkCheck x u c =
      let d := Chip.setFld (chkResult x u c) (chkPage x u) 0x074 4 2 (if chkMatches c x u then 3 else 5)
      if chkMatches c x u then d else Chip.bump (Chip.cause d (chkPage x u) 9) (chkPage x u) 0x100 := rfl
  rw [hshape]
  cases chkMatches c x u with
  | true => rfl
  | false => rfl

/-- CHK_RESULT and CHK_PARTIAL are all that a CHECK writes before it reports. -/
theorem get_chkResult (x : Cx) (u : Fin 4) (c : Chip) {o : Nat} (hresult : o ≠ 0x078) (hpartial : o ≠ 0x098) :
    Chip.get (chkResult x u c) (chkPage x u) o = Chip.get c (chkPage x u) o := by
  simp only [chkResult]
  split
  · rw [Chip.get_bump_off _ _ _ _ hpartial, Chip.get_put_off _ _ _ _ _ hresult]
  · rw [Chip.get_put_off _ _ _ _ _ hresult]

/-- A CHECK that finds a match. -/
theorem checkDone_of_match {x : Cx} {u : Fin 4} {c : Chip} (hm : chkMatches c x u = true) :
    CheckDone x u c (chkCheck x u c) := by
  rw [chkCheck_eq, if_pos hm]
  have hstat (i : Nat) := Chip.flag_setFld (chkResult x u c) (chkPage x u) 0x074 4 2 3 i (by decide)
  refine ⟨by rw [hstat]; rfl, fun h => absurd (hm.symm.trans h) (by decide),
    fun _ => ⟨by rw [hstat]; rfl, by rw [hstat]; rfl, ?_⟩⟩
  rw [Chip.get_setFld_off _ _ _ _ _ _ _ (by decide), get_chkResult _ _ _ (by decide) (by decide)]

/-- A CHECK that finds a mismatch. -/
theorem checkDone_of_mismatch {x : Cx} {u : Fin 4} {c : Chip} (hm : chkMatches c x u = false) :
    CheckDone x u c (chkCheck x u c) := by
  rw [chkCheck_eq, hm, if_neg Bool.false_ne_true]
  have hstat (i : Nat) : Chip.flag (Chip.bump (Chip.cause (Chip.setFld (chkResult x u c) (chkPage x u) 0x074 4 2 5)
      (chkPage x u) 9) (chkPage x u) 0x100) (chkPage x u) 0x074 i =
      if 2 ≤ i ∧ i ≤ 4 then Nat.testBit 5 (i - 2) else Chip.flag (chkResult x u c) (chkPage x u) 0x074 i := by
    rw [← Chip.flag_setFld _ _ _ _ _ _ _ (by decide)]
    exact Chip.flag_congr (by rw [Chip.get_bump_off _ _ _ _ (by decide), Chip.get_cause_off _ _ _ _ (by decide)]) i
  refine ⟨by rw [hstat]; rfl, fun _ => ⟨by rw [hstat]; rfl, ?cause, ?count⟩,
    fun h => absurd (hm.symm.trans h) (by decide)⟩
  case cause =>
    rw [Chip.flag_congr (Chip.get_bump_off _ _ _ _ (by decide)), Chip.flag_cause _ _ _ _ (by decide)]
    rfl
  case count =>
    rw [Chip.get_bump_self, Chip.get_cause_off _ _ _ _ (by decide), Chip.get_setFld_off _ _ _ _ _ _ _ (by decide),
      get_chkResult _ _ _ (by decide) (by decide)]

/-- Every CHECK reports the match or the mismatch that it finds. -/
theorem checkDone_chkCheck (x : Cx) (u : Fin 4) (c : Chip) : CheckDone x u c (chkCheck x u c) := by
  cases hm : chkMatches c x u with
  | true => exact checkDone_of_match hm
  | false => exact checkDone_of_mismatch hm

/-! What a CHECK compares stands through a scan's end and a write of CHK_CMD. -/

/-- A report says the same of two chips whose unit has one check, one register and one count. -/
theorem CheckDone.congr {x : Cx} {u : Fin 4} {b c d : Chip} (h : CheckDone x u b d)
    (hctl : (Chip.chkOf b x u).ctl = (Chip.chkOf c x u).ctl) (hexp : (Chip.chkOf b x u).expect = (Chip.chkOf c x u).expect)
    (hbad : (Chip.chkOf b x u).bad = (Chip.chkOf c x u).bad)
    (hstate : Chip.get b (chkPage x u) 0x080 = Chip.get c (chkPage x u) 0x080)
    (hcount : Chip.get b (chkPage x u) 0x100 = Chip.get c (chkPage x u) 0x100) : CheckDone x u c d := by
  have hm : chkMatches b x u = chkMatches c x u := by simp only [chkMatches, hctl, hexp, hbad, hstate]
  unfold CheckDone at h ⊢
  rwa [hm, hcount] at h

/-- The chip that a scan's end leaves to a CHECK: the scan is over, and CHK_STAT and the DONE cause say so. -/
def scanClosed (x : Cx) (u : Fin 4) (st : Nat) (again : Bool) (c : Chip) : Chip :=
  Chip.cause (setChkStatus x u (if again then 5 else st)
    (Chip.setFld (setChk x u { Chip.chkOf c x u with scan := none } c) (chkPage x u) 0x074 1 1 0)) (chkPage x u) 8

/-- A scan that ends OK runs the CHECK that waits for it (R369). -/
theorem chkScanDone_waiting (x : Cx) (u : Fin 4) (again : Bool) (c : Chip) :
    chkScanDone x u 0 true again c = chkCheck x u (scanClosed x u 0 again c) := rfl

/-- The unit keeps all but its scan. -/
theorem chkOf_scanClosed (x : Cx) (u : Fin 4) (st : Nat) (again : Bool) (c : Chip) :
    Chip.chkOf (scanClosed x u st again c) x u = { Chip.chkOf c x u with scan := none } :=
  kvGet_kvPut_self _ _ _ _

/-- CHK_STAT and the causes are all the registers that a scan's end writes. -/
theorem get_scanClosed (x : Cx) (u : Fin 4) (st : Nat) (again : Bool) (c : Chip) {o : Nat} (hstat : o ≠ 0x074)
    (hcause : o ≠ 0x010) : Chip.get (scanClosed x u st again c) (chkPage x u) o = Chip.get c (chkPage x u) o := by
  rw [scanClosed, Chip.get_cause_off _ _ _ _ hcause, setChkStatus, Chip.get_setFld_off _ _ _ _ _ _ _ hstat,
    Chip.get_setFld_off _ _ _ _ _ _ _ hstat]
  rfl

/-- A CHECK that waits for a scan reports on what the scan has fed. -/
theorem checkDone_chkScanDone (x : Cx) (u : Fin 4) (again : Bool) (c : Chip) :
    CheckDone x u c (chkScanDone x u 0 true again c) := by
  have hunit := chkOf_scanClosed x u 0 again c
  rw [chkScanDone_waiting]
  exact (checkDone_chkCheck x u _).congr (by rw [hunit]) (by rw [hunit]) (by rw [hunit])
    (get_scanClosed _ _ _ _ _ (by decide) (by decide)) (get_scanClosed _ _ _ _ _ (by decide) (by decide))

/-! The write of CHK_CMD (R369). -/

/-- CHK_CMD: its bits start something and store nothing. -/
def chkCmdReg : Reg := r32 "CHK_CMD" 0x070 [fWos 2 2, fWos 1 1, fWos 0 0]

theorem regAt_chkCmd (x : Cx) (u : Fin 4) : Page.regAt (chkPage x u) 0x070 = some chkCmdReg := rfl

theorem mask_chkCmdReg {a : Acc} (ha : a ≠ .wos) : Reg.mask chkCmdReg a = 0 := by
  simp [Reg.mask, chkCmdReg, r32, fWos, ha.symm]

/-- The fields of CHK_CMD put back what the register held. -/
theorem fieldWrite_chkCmd (k : Clk) (x : Cx) (u : Fin 4) (v : Nat) (c : Chip) :
    fieldWrite k (chkPage x u) chkCmdReg 0x070 v c =
      Chip.put c (chkPage x u) 0x070 (Chip.get c (chkPage x u) 0x070) := by
  have hplain : plainMask c (chkPage x u) chkCmdReg 0x070 = 0 := by simp [plainMask, chkPage, mask_chkCmdReg]
  have hstage (w : Nat) : stageNorm (chkPage x u) 0x070 w = w := rfl
  simp [fieldWrite, hplain, hstage, merge_zero_mask, mask_chkCmdReg, -BitVec.reduceNot, -BitVec.reduceAllOnes]

/-- The page of a check unit names the unit. -/
theorem regHook_chkCmd (k : Clk) (x : Cx) (u : Fin 4) (v : Nat) (c : Chip) :
    regHook k (chkPage x u) 0x070 v false c = chkCmd k x u v c := by
  have hu : Fin.ofNat 4 (Fin.ofNat 256 u.val).val = u := by
    ext
    simp only [Fin.ofNat]
    omega
  show chkCmd k x (Fin.ofNat 4 (Fin.ofNat 256 u.val).val) v c = chkCmd k x u v c
  rw [hu]

/-- A write of CHK_CMD on a page that takes it: the commands that its bits name run. -/
theorem writeReg_chkCmd {s : State} {x : Cx} {u : Fin 4} (hw : s.writable (chkPage x u)) {v : Nat} (hv : v < 2 ^ 32) :
    writeReg s.clk (chkPage x u) 0x070 v s.chip.clear = masterWrote .pcie
      (chkCmd s.clk x u v
        (Chip.put s.chip.clear (chkPage x u) 0x070 (Chip.get s.chip (chkPage x u) 0x070))) := by
  have ⟨_, _, _, hlocked⟩ := hw
  have hown : storesOwn (chkPage x u) 0x070 = false := rfl
  rw [State.writable_write hw _ _ _ (regAt_chkCmd x u) rfl (by decide) (by decide), Nat.mod_eq_of_lt hv,
    regWrite_unit _ _ _ _ _ _ (by simp [chkPage]) (by decide) (by omega) (.inr (by simp [chkPage])), unitWrite,
    Chip.locked_clear, hlocked, regHook_chkCmd, hown, if_neg Bool.false_ne_true, fieldWrite_chkCmd,
    Chip.get_clear]

/-- CHECK alone, with no scan running, completes at once. -/
theorem chkCmd_check (k : Clk) {x : Cx} {u : Fin 4} {c : Chip} (hscan : (Chip.chkOf c x u).scan = none) :
    chkCmd k x u 4 c = chkCheck x u c := by
  have hbits : bit 4 0 = false ∧ bit 4 1 = false ∧ bit 4 2 = true := by decide
  obtain ⟨h0, h1, h2⟩ := hbits
  simp [chkCmd, hscan, h0, h1, h2]

/-- CHECK written with no scan running reports at once. -/
theorem check_writes {s : State} {x : Cx} {u : Fin 4} (hw : s.writable (chkPage x u))
    (hscan : (Chip.chkOf s.chip x u).scan = none) : Writes (.check x u) s (CheckDone x u s.chip) := by
  have hexec : exec (.check x u) s = s.act (fun k c => writeReg k (chkPage x u) 0x070 4 c) := rfl
  refine ⟨_, by rw [hexec, State.act_eq s _ hw.1, writeReg_chkCmd hw (by decide)], ?_⟩
  rw [chkCmd_check]
  · exact (checkDone_chkCheck x u _).congr rfl rfl rfl (Chip.get_put_off _ _ _ _ _ (by decide))
      (Chip.get_put_off _ _ _ _ _ (by decide))
  · exact hscan

/-- Settles O49: a CHECK at once by the write of CHK_CMD, and one that waited by the end of its scan. -/
theorem checksReportTheirResult : Obligations.ChecksReportTheirResult := fun x u =>
  ⟨fun _ hw hscan => check_writes hw hscan, fun c again => checkDone_chkScanDone x u again c⟩

end Sys2Proof.Machine
end

section
/-!
The table code (R401 to R403): its symbols over GF(16), what the decoder answers, and the quadric its columns lie on.
-/
namespace Sys2Proof.Machine

/-! GF(16) (R401). -/

theorem xor_lt_sixteen {a b : Nat} (ha : a < 16) (hb : b < 16) : a ^^^ b < 16 := Nat.xor_lt_two_pow (n := 4) ha hb

theorem gf16Double_lt {a : Nat} (ha : a < 16) : gf16Double a < 16 := by
  revert a
  decide

theorem gf16MulFrom_lt (n : Nat) {a : Nat} (ha : a < 16) (b : Nat) : gf16MulFrom n a b < 16 := by
  induction n generalizing a b with
  | zero => exact Nat.zero_lt_succ 15
  | succ n ih =>
    have hbit : (if b % 2 = 1 then a else 0) < 16 := by split <;> omega
    exact xor_lt_sixteen hbit (ih (gf16Double_lt ha) _)

theorem gf16Mul_lt {a : Nat} (ha : a < 16) (b : Nat) : gf16Mul a b < 16 := gf16MulFrom_lt 4 ha b

theorem gf16MulFrom_zero (n a : Nat) : gf16MulFrom n a 0 = 0 := by
  induction n generalizing a with
  | zero => rfl
  | succ n ih => simp [gf16MulFrom, ih]

@[simp] theorem gf16Mul_zero (a : Nat) : gf16Mul a 0 = 0 := gf16MulFrom_zero 4 a

theorem gf16MulFrom_xor (n a b c : Nat) : gf16MulFrom n a (b ^^^ c) = gf16MulFrom n a b ^^^ gf16MulFrom n a c := by
  induction n generalizing a b c with
  | zero => simp [gf16MulFrom]
  | succ n ih =>
    have hbit : (if (b ^^^ c) % 2 = 1 then a else 0) = (if b % 2 = 1 then a else 0) ^^^ if c % 2 = 1 then a else 0 := by
      rcases Nat.mod_two_eq_zero_or_one b with hb | hb <;> rcases Nat.mod_two_eq_zero_or_one c with hc | hc <;>
        simp [Nat.xor_mod_two_eq, Nat.add_mod, hb, hc]
    simp only [gf16MulFrom, hbit, Nat.xor_div_two, ih]
    ac_rfl

/-- Multiplication distributes over the sum, which is XOR. -/
theorem gf16Mul_xor (a b c : Nat) : gf16Mul a (b ^^^ c) = gf16Mul a b ^^^ gf16Mul a c := gf16MulFrom_xor 4 a b c

theorem gf16Mul_one {a : Nat} (ha : a < 16) : gf16Mul a 1 = a := by
  revert a
  decide

/-- The multiplication table: products commute, pass through the doubling, and are zero only with a factor. -/
theorem gf16Mul_table : ∀ a < 16, ∀ b < 16, gf16Mul a b = gf16Mul b a ∧
    gf16Mul a (gf16Double b) = gf16Double (gf16Mul a b) ∧ (gf16Mul a b = 0 → a = 0 ∨ b = 0) := by decide

theorem gf16Mul_comm {a b : Nat} (ha : a < 16) (hb : b < 16) : gf16Mul a b = gf16Mul b a := (gf16Mul_table a ha b hb).1

theorem gf16Mul_double {a b : Nat} (ha : a < 16) (hb : b < 16) : gf16Mul a (gf16Double b) = gf16Double (gf16Mul a b) :=
  (gf16Mul_table a ha b hb).2.1

theorem gf16Mul_eq_zero {a b : Nat} (ha : a < 16) (hb : b < 16) : gf16Mul a b = 0 → a = 0 ∨ b = 0 :=
  (gf16Mul_table a ha b hb).2.2

theorem gf16Mul_mulFrom (n : Nat) {a b : Nat} (ha : a < 16) (hb : b < 16) (c : Nat) :
    gf16Mul a (gf16MulFrom n b c) = gf16MulFrom n (gf16Mul a b) c := by
  induction n generalizing b c with
  | zero => exact gf16Mul_zero a
  | succ n ih =>
    simp only [gf16MulFrom, gf16Mul_xor, ih (gf16Double_lt hb), gf16Mul_double ha hb]
    split <;> simp

theorem gf16Mul_assoc {a b : Nat} (ha : a < 16) (hb : b < 16) (c : Nat) :
    gf16Mul (gf16Mul a b) c = gf16Mul a (gf16Mul b c) := (gf16Mul_mulFrom 4 ha hb c).symm

theorem gf16Mul_left_comm {a b : Nat} (ha : a < 16) (hb : b < 16) (c : Nat) :
    gf16Mul a (gf16Mul b c) = gf16Mul b (gf16Mul a c) := by
  rw [← gf16Mul_assoc ha hb, gf16Mul_comm ha hb, gf16Mul_assoc hb ha]

/-- No zero divisors, so a factor that is not zero cancels. -/
theorem gf16Mul_cancel {e a b : Nat} (he : e < 16) (hne : e ≠ 0) (ha : a < 16) (hb : b < 16)
    (h : gf16Mul e a = gf16Mul e b) : a = b := by
  have hzero : gf16Mul e (a ^^^ b) = 0 := by rw [gf16Mul_xor, h, Nat.xor_self]
  exact Nat.eq_of_xor_eq_zero ((gf16Mul_eq_zero he (xor_lt_sixteen ha hb) hzero).resolve_left hne)

/-! The columns (R402). -/

theorem colAt_lt (h r : Nat) : colAt h r < 16 := Nat.mod_lt _ (by decide)

theorem eccColumns_lt : ∀ h ∈ eccColumns, h < 16 ^ 4 := by decide

theorem exists_eccColumn {j : Nat} (hj : j < 36) : ∃ h, eccColumns[j]? = some h := ⟨_, List.getElem?_eq_getElem hj⟩

theorem eccColumns_nodup : eccColumns.Nodup := by decide

/-- Every column has its first non-zero component equal to 1. -/
theorem eccColumns_monic : ∀ h ∈ eccColumns, ∃ m < 4, (∀ r < m, colAt h r = 0) ∧ colAt h m = 1 := by decide

/-- A column is its four components. -/
theorem eq_of_colAt {g h : Nat} (hg : g < 16 ^ 4) (hh : h < 16 ^ 4) (heq : ∀ r < 4, colAt g r = colAt h r) : g = h := by
  have h0 : g / 4096 % 16 = h / 4096 % 16 := heq 0 (by decide)
  have h1 : g / 256 % 16 = h / 256 % 16 := heq 1 (by decide)
  have h2 : g / 16 % 16 = h / 16 % 16 := heq 2 (by decide)
  have h3 : g / 1 % 16 = h / 1 % 16 := heq 3 (by decide)
  omega

/-! What the decoder answers (R403). -/

/-- The syndrome `s` is `e` times the column `h`. -/
def eccIsMultiple (s e h : Nat) : Prop := ∀ r < 4, gf16Mul e (colAt h r) = eccSym s r

/-- The decoder's test of a column with its place: the syndrome is `e` times it. -/
def eccFits (s e : Nat) (h : Nat × Nat) : Bool :=
  [0, 1, 2, 3].all fun r => decide (gf16Mul e (colAt h.1 r) = eccSym s r)

theorem eccFits_iff {s e h j : Nat} : eccFits s e (h, j) = true ↔ eccIsMultiple s e h := by
  rw [eccFits, show [0, 1, 2, 3] = List.range 4 from rfl, List.all_eq_true]
  simp [eccIsMultiple]

theorem eccSym_lt (s r : Nat) : eccSym s r < 16 := Nat.mod_lt _ (by decide)

/-- With symbol m the first that is not zero, the decoder takes it for the error and looks for its column. -/
theorem eccDecode_first {s m : Nat} (hm : m < 4) (hlow : ∀ r < m, eccSym s r = 0) (hne : eccSym s m ≠ 0) :
    eccDecode s = ((eccColumns.zipIdx.find? (eccFits s (eccSym s m))).map
      fun h => EccRes.correct h.2 (eccSym s m)).getD .uncorrectable := by
  have hfirst : [0, 1, 2, 3].find? (fun r => decide (s / 16 ^ r % 16 ≠ 0)) = some m := by
    rw [show [0, 1, 2, 3] = List.range 4 from rfl, List.find?_range_eq_some]
    exact ⟨decide_eq_true hne, List.mem_range.mpr hm, fun r hr => by simpa [eccSym] using hlow r hr⟩
  have hfits : (eccColumns.zipIdx.find? fun h =>
      [0, 1, 2, 3].all fun r => decide (gf16Mul (s / 16 ^ m % 16) (colAt h.1 r) = s / 16 ^ r % 16)) =
        eccColumns.zipIdx.find? (eccFits s (eccSym s m)) := rfl
  simp only [eccDecode, hfirst, hfits]
  cases eccColumns.zipIdx.find? (eccFits s (eccSym s m)) <;> rfl

/-- Two columns of which a syndrome is the same multiple are one. -/
theorem eccIsMultiple_unique {s e i j g h : Nat} (he : e < 16) (hne : e ≠ 0) (hg : eccColumns[i]? = some g)
    (hh : eccColumns[j]? = some h) (hmg : eccIsMultiple s e g) (hmh : eccIsMultiple s e h) : i = j := by
  have heq : g = h := eq_of_colAt (eccColumns_lt g (List.mem_of_getElem? hg))
    (eccColumns_lt h (List.mem_of_getElem? hh))
    fun r hr => gf16Mul_cancel he hne (colAt_lt g r) (colAt_lt h r) ((hmg r hr).trans (hmh r hr).symm)
  have hi : i < eccColumns.length := (List.getElem?_eq_some_iff.mp hg).1
  exact (List.getElem?_inj hi eccColumns_nodup).mp (by rw [hg, hh, heq])

/-- A syndrome that is the multiple of a column by its first non-zero symbol is an error in that column's nibble. -/
theorem eccDecode_of_isMultiple {s m j h : Nat} (hm : m < 4) (hlow : ∀ r < m, eccSym s r = 0) (hne : eccSym s m ≠ 0)
    (hj : eccColumns[j]? = some h) (hmul : eccIsMultiple s (eccSym s m) h) :
    eccDecode s = .correct j (eccSym s m) := by
  rw [eccDecode_first hm hlow hne]
  cases hfind : eccColumns.zipIdx.find? (eccFits s (eccSym s m)) with
  | none =>
    have hno := List.find?_eq_none.mp hfind (h, j) (List.mk_mem_zipIdx_iff_getElem?.mpr hj)
    exact absurd (eccFits_iff.mpr hmul) hno
  | some found =>
    obtain ⟨g, i⟩ := found
    have hi : eccColumns[i]? = some g := List.mk_mem_zipIdx_iff_getElem?.mp (List.mem_of_find?_eq_some hfind)
    have hg : eccIsMultiple s (eccSym s m) g := eccFits_iff.mp (List.find?_some hfind)
    rw [← eccIsMultiple_unique (eccSym_lt s m) hne hi hj hg hmul]
    rfl

/-- A syndrome that is no multiple of a column by its first non-zero symbol cannot be corrected. -/
theorem eccDecode_of_not_isMultiple {s m : Nat} (hm : m < 4) (hlow : ∀ r < m, eccSym s r = 0) (hne : eccSym s m ≠ 0)
    (hmul : ∀ h ∈ eccColumns, ¬ eccIsMultiple s (eccSym s m) h) : eccDecode s = .uncorrectable := by
  have hfind : eccColumns.zipIdx.find? (eccFits s (eccSym s m)) = none :=
    List.find?_eq_none.mpr fun _ hj hfits =>
      hmul _ (List.mem_of_getElem? (List.mem_zipIdx_iff_getElem?.mp hj)) (eccFits_iff.mp hfits)
  rw [eccDecode_first hm hlow hne, hfind]
  rfl

theorem eccDecode_zero : eccDecode 0 = .clean := rfl

theorem eccFix_of_clean {w : Nat} (h : eccDecode (eccSyndrome w) = .clean) : eccFix w = some w := by rw [eccFix, h]

theorem eccFix_of_correct {w j e : Nat} (h : eccDecode (eccSyndrome w) = .correct j e) :
    eccFix w = some (w ^^^ e * 16 ^ j) := by rw [eccFix, h]

theorem eccFix_of_uncorrectable {w : Nat} (h : eccDecode (eccSyndrome w) = .uncorrectable) : eccFix w = none := by
  rw [eccFix, h]

/-! The syndrome is linear in the word (R402). -/

theorem sixteen_pow (n : Nat) : 16 ^ n = 2 ^ (4 * n) := by rw [pow_mul, show 2 ^ 4 = 16 by rfl]

theorem nibble_xor (v w i : Nat) : (v ^^^ w) / 16 ^ i % 16 = (v / 16 ^ i % 16) ^^^ (w / 16 ^ i % 16) := by
  rw [sixteen_pow, Nat.xor_div_two_pow]
  exact Nat.xor_mod_two_pow (n := 4)

theorem nibble_shifted {e : Nat} (he : e < 16) (i j : Nat) : e * 16 ^ j / 16 ^ i % 16 = if i = j then e else 0 := by
  obtain h | rfl | h := lt_trichotomy i j
  · obtain ⟨k, rfl⟩ := Nat.exists_eq_add_of_lt h
    rw [if_neg (by omega), show e * 16 ^ (i + k + 1) = e * 16 ^ k * 16 * 16 ^ i by ring,
      Nat.mul_div_cancel _ (by positivity), Nat.mul_mod_left]
  · rw [if_pos rfl, Nat.mul_div_cancel _ (by positivity), Nat.mod_eq_of_lt he]
  · obtain ⟨k, rfl⟩ := Nat.exists_eq_add_of_lt h
    have hlt : e * 16 ^ j < 16 ^ (j + k + 1) := by
      calc e * 16 ^ j < 16 * 16 ^ j := by gcongr
        _ = 16 ^ (j + 1) := by ring
        _ ≤ 16 ^ (j + k + 1) := Nat.pow_le_pow_right (by decide) (by omega)
    rw [if_neg (by omega), Nat.div_eq_of_lt hlt]

theorem foldl_xor_xor {α : Type} (f g : α → Nat) (l : List α) (a b : Nat) :
    l.foldl (fun s x => s ^^^ (f x ^^^ g x)) (a ^^^ b) =
      l.foldl (fun s x => s ^^^ f x) a ^^^ l.foldl (fun s x => s ^^^ g x) b := by
  induction l generalizing a b with
  | nil => rfl
  | cons x l ih =>
    simp only [List.foldl_cons, ← ih]
    congr 1
    ac_rfl

theorem foldl_xor_zero {α : Type} (f : α → Nat) (l : List α) (a : Nat) (hf : ∀ x ∈ l, f x = 0) :
    l.foldl (fun s x => s ^^^ f x) a = a := by
  induction l with
  | nil => rfl
  | cons x l ih => simp_all

/-- A sum over a numbered list in which one place counts. -/
theorem foldl_xor_zipIdx_single (f : Nat × Nat → Nat) (l : List Nat) (n j h a : Nat) (hj : l[j]? = some h)
    (hf : ∀ x : Nat × Nat, x.2 ≠ n + j → f x = 0) :
    (l.zipIdx n).foldl (fun s x => s ^^^ f x) a = a ^^^ f (h, n + j) := by
  induction l generalizing n j a with
  | nil => simp at hj
  | cons g l ih =>
    rw [List.zipIdx_cons, List.foldl_cons]
    cases j with
    | zero =>
      obtain rfl : g = h := by simpa using hj
      refine foldl_xor_zero f _ _ fun x hx => hf x ?_
      have := List.le_snd_of_mem_zipIdx hx
      omega
    | succ j =>
      rw [hf (g, n) (by simp), Nat.xor_zero, ih (n + 1) j a (by simpa using hj)
        (fun x hx => hf x (by omega)), show n + 1 + j = n + (j + 1) by omega]

theorem eccSymbol_xor (r v w : Nat) : eccSymbol r (v ^^^ w) = eccSymbol r v ^^^ eccSymbol r w := by
  simp only [eccSymbol, nibble_xor, gf16Mul_xor, ← foldl_xor_xor, Nat.xor_self]

/-- What an error `e` in nibble j adds to a symbol: the column's component times it. -/
theorem eccSymbol_shifted (r : Nat) {j h e : Nat} (hj : eccColumns[j]? = some h) (he : e < 16) :
    eccSymbol r (e * 16 ^ j) = gf16Mul e (colAt h r) := by
  rw [eccSymbol, foldl_xor_zipIdx_single _ _ 0 j h 0 hj]
  · rw [nibble_shifted he, if_pos (Nat.zero_add j), gf16Mul_comm (colAt_lt h r) he, Nat.zero_xor]
  · intro x hx
    simp [nibble_shifted he, show x.2 ≠ j by omega]

theorem eccSymbol_lt (r w : Nat) : eccSymbol r w < 16 := by
  rw [eccSymbol]
  refine List.foldlRecOn _ _ (motive := (· < 16)) (by decide) fun s hs x _ => ?_
  exact xor_lt_sixteen hs (gf16Mul_lt (colAt_lt _ _) _)

theorem eccSym_eccSyndrome {r : Nat} (hr : r < 4) (w : Nat) : eccSym (eccSyndrome w) r = eccSymbol r w := by
  have h0 := eccSymbol_lt 0 w
  have h1 := eccSymbol_lt 1 w
  have h2 := eccSymbol_lt 2 w
  have h3 := eccSymbol_lt 3 w
  interval_cases r <;> simp only [eccSym, eccSyndrome] <;> omega

/-! Codewords (R401, R402). -/

theorem add_shifted_eq_xor {a j : Nat} (ha : a < 16 ^ j) (b : Nat) : a + b * 16 ^ j = a ^^^ b * 16 ^ j := by
  rw [sixteen_pow] at ha ⊢
  have hdiv : (a ^^^ b * 2 ^ (4 * j)) / 2 ^ (4 * j) = b := by
    rw [Nat.xor_div_two_pow, Nat.div_eq_of_lt ha, Nat.mul_div_cancel _ (by positivity), Nat.zero_xor]
  have hmod : (a ^^^ b * 2 ^ (4 * j)) % 2 ^ (4 * j) = a := by
    rw [Nat.xor_mod_two_pow, Nat.mod_eq_of_lt ha, Nat.mul_mod_left, Nat.xor_zero]
  rw [← Nat.mod_add_div' (a ^^^ b * 2 ^ (4 * j)) (2 ^ (4 * j)), hdiv, hmod]

/-- A codeword is its data with a check symbol in each of the nibbles 32 to 35. -/
theorem eccEncode_eq_xor {data : Nat} (hd : data < 2 ^ 128) :
    eccEncode data = data ^^^ eccSymbol 0 data * 16 ^ 32 ^^^ eccSymbol 1 data * 16 ^ 33 ^^^
      eccSymbol 2 data * 16 ^ 34 ^^^ eccSymbol 3 data * 16 ^ 35 := by
  have h0 := eccSymbol_lt 0 data
  have h1 := eccSymbol_lt 1 data
  have h2 := eccSymbol_lt 2 data
  rw [← add_shifted_eq_xor (j := 32) (by omega), ← add_shifted_eq_xor (j := 33) (by omega),
    ← add_shifted_eq_xor (j := 34) (by omega), ← add_shifted_eq_xor (j := 35) (by omega), eccEncode,
    Nat.mod_eq_of_lt hd, eccSyndrome]
  ring

theorem eccEncode_mod {data : Nat} (hd : data < 2 ^ 128) : eccEncode data % 2 ^ 128 = data := by
  rw [eccEncode, Nat.add_mul_mod_self_right, Nat.mod_mod, Nat.mod_eq_of_lt hd]

/-- The check symbols make every symbol of a codeword zero. -/
theorem eccSymbol_eccEncode {r data : Nat} (hr : r < 4) (hd : data < 2 ^ 128) : eccSymbol r (eccEncode data) = 0 := by
  have hlt := fun q => eccSymbol_lt q data
  rw [eccEncode_eq_xor hd]
  simp only [eccSymbol_xor, eccSymbol_shifted r (j := 32) (h := 0x1000) rfl (hlt 0),
    eccSymbol_shifted r (j := 33) (h := 0x0100) rfl (hlt 1), eccSymbol_shifted r (j := 34) (h := 0x0010) rfl (hlt 2),
    eccSymbol_shifted r (j := 35) (h := 0x0001) rfl (hlt 3)]
  interval_cases r <;> simp [colAt, gf16Mul_one (hlt _)]

theorem eccSyndrome_eccEncode {data : Nat} (hd : data < 2 ^ 128) : eccSyndrome (eccEncode data) = 0 := by
  simp only [eccSyndrome, eccSymbol_eccEncode (show 0 < 4 by decide) hd, eccSymbol_eccEncode (show 1 < 4 by decide) hd,
    eccSymbol_eccEncode (show 2 < 4 by decide) hd, eccSymbol_eccEncode (show 3 < 4 by decide) hd]

/-- The syndrome of a codeword with errors is that of the errors. -/
theorem eccSym_eccEncode_xor {r data : Nat} (hr : r < 4) (hd : data < 2 ^ 128) (w : Nat) :
    eccSym (eccSyndrome (eccEncode data ^^^ w)) r = eccSymbol r w := by
  rw [eccSym_eccSyndrome hr, eccSymbol_xor, eccSymbol_eccEncode hr hd, Nat.zero_xor]

theorem eccFix_eccEncode {data : Nat} (hd : data < 2 ^ 128) : eccFix (eccEncode data) = some (eccEncode data) :=
  eccFix_of_clean (by rw [eccSyndrome_eccEncode hd, eccDecode_zero])

/-! An error within one nibble (R403). -/

/-- An error in one nibble shows as the first symbol that is not zero, for its column starts with 1. -/
theorem eccDecode_one_error {data j e : Nat} (hd : data < 2 ^ 128) (hj : j < 36) (hpos : 0 < e) (he : e < 16) :
    eccDecode (eccSyndrome (eccEncode data ^^^ e * 16 ^ j)) = .correct j e := by
  obtain ⟨h, hcol⟩ := exists_eccColumn hj
  obtain ⟨m, hm, hlow, hone⟩ := eccColumns_monic h (List.mem_of_getElem? hcol)
  have hsym : ∀ r < 4, eccSym (eccSyndrome (eccEncode data ^^^ e * 16 ^ j)) r = gf16Mul e (colAt h r) :=
    fun r hr => by rw [eccSym_eccEncode_xor hr hd, eccSymbol_shifted r hcol he]
  have herr : eccSym (eccSyndrome (eccEncode data ^^^ e * 16 ^ j)) m = e := by rw [hsym m hm, hone, gf16Mul_one he]
  have hdec := eccDecode_of_isMultiple (j := j) hm
    (fun r hr => by rw [hsym r (by omega), hlow r hr, gf16Mul_zero]) (by omega) hcol
    (fun r hr => by rw [herr, hsym r hr])
  rwa [herr] at hdec

theorem eccFix_one_error {data j e : Nat} (hd : data < 2 ^ 128) (hj : j < 36) (hpos : 0 < e) (he : e < 16) :
    eccFix (eccEncode data ^^^ e * 16 ^ j) = some (eccEncode data) := by
  rw [eccFix_of_correct (eccDecode_one_error hd hj hpos he), Nat.xor_assoc, Nat.xor_self, Nat.xor_zero]

/-- A check nibble lies above the data. -/
theorem xor_check_nibble_mod {w j : Nat} (e : Nat) (hj : 32 ≤ j) : (w ^^^ e * 16 ^ j) % 2 ^ 128 = w % 2 ^ 128 := by
  obtain ⟨k, rfl⟩ := Nat.exists_eq_add_of_le hj
  rw [Nat.xor_mod_two_pow, show e * 16 ^ (32 + k) = e * 16 ^ k * 2 ^ 128 by ring, Nat.mul_mod_left, Nat.xor_zero]

/-! The quadric that the columns lie on, and errors of two nibbles (R403). -/

/-- A combination of two symbols. -/
def gf16Comb (a b p q : Nat) : Nat := gf16Mul a p ^^^ gf16Mul b q

theorem gf16Comb_xor (a b p q p' q' : Nat) :
    gf16Comb a b p q ^^^ gf16Comb a b p' q' = gf16Comb a b (p ^^^ p') (q ^^^ q') := by
  simp only [gf16Comb, gf16Mul_xor]
  ac_rfl

/-- A bilinear form whose values on the diagonal are a quadratic form that is zero on every column. -/
def quadric (x y : Nat → Nat) : Nat :=
  gf16Mul 15 (gf16Mul (x 0) (y 1 ^^^ y 2) ^^^ gf16Mul (x 1) (y 2 ^^^ y 3)) ^^^ gf16Mul (x 0 ^^^ x 2) (y 3)

theorem quadric_column : ∀ h ∈ eccColumns, quadric (colAt h) (colAt h) = 0 := by decide

/-- The polar form of two columns is not zero: the line through them meets the quadric nowhere else. -/
theorem quadric_columns_ne :
    eccColumns.Pairwise fun g h => quadric (colAt g) (colAt h) ^^^ quadric (colAt h) (colAt g) ≠ 0 := by decide +kernel

section
variable {a b : Nat} (ha : a < 16) (hb : b < 16)
include ha hb

theorem gf16Comb_lt (p q : Nat) : gf16Comb a b p q < 16 :=
  xor_lt_sixteen (gf16Mul_lt ha p) (gf16Mul_lt hb q)

theorem gf16Mul_comb {z : Nat} (hz : z < 16) (p q : Nat) :
    gf16Mul z (gf16Comb a b p q) = gf16Comb a b (gf16Mul z p) (gf16Mul z q) := by
  rw [gf16Comb, gf16Mul_xor, gf16Mul_left_comm hz ha, gf16Mul_left_comm hz hb, gf16Comb]

theorem gf16Comb_mul {p q z : Nat} (hp : p < 16) (hq : q < 16) (hz : z < 16) :
    gf16Mul (gf16Comb a b p q) z = gf16Comb a b (gf16Mul p z) (gf16Mul q z) := by
  rw [gf16Mul_comm (gf16Comb_lt ha hb p q) hz, gf16Mul_comb ha hb hz, gf16Mul_comm hz hp, gf16Mul_comm hz hq]

/-- The form is linear on the right. -/
theorem quadric_comb_right {x : Nat → Nat} (hx : ∀ r, x r < 16) (y z : Nat → Nat) :
    quadric x (fun r => gf16Comb a b (y r) (z r)) = gf16Comb a b (quadric x y) (quadric x z) := by
  simp only [quadric, gf16Comb_xor, gf16Mul_comb ha hb (hx _), gf16Mul_comb ha hb (xor_lt_sixteen (hx _) (hx _)),
    gf16Mul_comb ha hb (show 15 < 16 by decide)]

/-- The form is linear on the left. -/
theorem quadric_comb_left {x y z : Nat → Nat} (hx : ∀ r, x r < 16) (hy : ∀ r, y r < 16) (hz : ∀ r, z r < 16) :
    quadric (fun r => gf16Comb a b (x r) (y r)) z = gf16Comb a b (quadric x z) (quadric y z) := by
  simp only [quadric, gf16Comb_xor, gf16Comb_mul ha hb (hx _) (hy _) (xor_lt_sixteen (hz _) (hz _)),
    gf16Comb_mul ha hb (xor_lt_sixteen (hx _) (hx _)) (xor_lt_sixteen (hy _) (hy _)) (hz _),
    gf16Mul_comb ha hb (show 15 < 16 by decide)]

end

theorem quadric_lt {x y : Nat → Nat} (hx : ∀ r, x r < 16) : quadric x y < 16 :=
  xor_lt_sixteen (gf16Mul_lt (by decide) _) (gf16Mul_lt (xor_lt_sixteen (hx 0) (hx 2)) _)

theorem quadric_comb_self {e f : Nat} {x y : Nat → Nat} (he : e < 16) (hf : f < 16) (hx : ∀ r, x r < 16)
    (hy : ∀ r, y r < 16) (hxx : quadric x x = 0) (hyy : quadric y y = 0) :
    quadric (fun r => gf16Comb e f (x r) (y r)) (fun r => gf16Comb e f (x r) (y r)) =
      gf16Mul e (gf16Mul f (quadric x y ^^^ quadric y x)) := by
  rw [quadric_comb_right he hf (fun r => gf16Comb_lt he hf _ _), quadric_comb_left he hf hx hy hx,
    quadric_comb_left he hf hx hy hy, hxx, hyy]
  simp only [gf16Comb, gf16Mul_zero, Nat.zero_xor, Nat.xor_zero, gf16Mul_left_comm hf he, gf16Mul_xor]
  ac_rfl

/-- A multiple of a column lies on the quadric. -/
theorem quadric_multiple {e h : Nat} (he : e < 16) (hh : h ∈ eccColumns) :
    quadric (fun r => gf16Mul e (colAt h r)) (fun r => gf16Mul e (colAt h r)) = 0 := by
  have hself := quadric_comb_self (e := e) (f := 0) he (by decide) (colAt_lt h) (colAt_lt h)
    (quadric_column h hh) (quadric_column h hh)
  simpa [gf16Comb, Nat.xor_self, gf16Mul_comm (show 0 < 16 by decide) (colAt_lt h _)] using hself

/-- A combination of two columns, neither left out, is off the quadric. -/
theorem quadric_two_columns {i j e f g h : Nat} (hij : i < j) (hg : eccColumns[i]? = some g)
    (hh : eccColumns[j]? = some h) (hepos : 0 < e) (he : e < 16) (hfpos : 0 < f) (hf : f < 16) :
    quadric (fun r => gf16Comb e f (colAt g r) (colAt h r)) (fun r => gf16Comb e f (colAt g r) (colAt h r)) ≠ 0 := by
  rw [quadric_comb_self he hf (colAt_lt g) (colAt_lt h) (quadric_column g (List.mem_of_getElem? hg))
    (quadric_column h (List.mem_of_getElem? hh))]
  obtain ⟨hi, rfl⟩ := List.getElem?_eq_some_iff.mp hg
  obtain ⟨hj, rfl⟩ := List.getElem?_eq_some_iff.mp hh
  have hne := List.pairwise_iff_getElem.mp quadric_columns_ne i j hi hj hij
  have hpolar : quadric (colAt eccColumns[i]) (colAt eccColumns[j]) ^^^
      quadric (colAt eccColumns[j]) (colAt eccColumns[i]) < 16 :=
    xor_lt_sixteen (quadric_lt (colAt_lt _)) (quadric_lt (colAt_lt _))
  intro hzero
  have hf0 := (gf16Mul_eq_zero he (gf16Mul_lt hf _) hzero).resolve_left (by omega)
  exact hne ((gf16Mul_eq_zero hf hpolar hf0).resolve_left (by omega))

theorem quadric_congr {x y : Nat → Nat} (h : ∀ r < 4, x r = y r) : quadric x x = quadric y y := by
  simp only [quadric, h 0 (by decide), h 1 (by decide), h 2 (by decide), h 3 (by decide)]

/-- A syndrome off the quadric is that of no error within one nibble. -/
theorem eccDecode_off_quadric {s : Nat} (hs : quadric (eccSym s) (eccSym s) ≠ 0) : eccDecode s = .uncorrectable := by
  have hsome : ∃ r, r < 4 ∧ eccSym s r ≠ 0 := by
    by_contra! hall
    exact hs (quadric_congr (y := fun _ => 0) hall)
  obtain ⟨hm, hne⟩ := Nat.find_spec hsome
  refine eccDecode_of_not_isMultiple hm (fun r hr => ?_) hne fun h hh hmul => hs ?_
  · have := Nat.find_min hsome hr
    by_contra hr0
    exact this ⟨by omega, hr0⟩
  · rw [← quadric_congr hmul, quadric_multiple (eccSym_lt s _) hh]

theorem eccFix_two_errors {data i j e f : Nat} (hd : data < 2 ^ 128) (hij : i < j) (hj : j < 36) (hepos : 0 < e)
    (he : e < 16) (hfpos : 0 < f) (hf : f < 16) :
    eccFix (eccEncode data ^^^ e * 16 ^ i ^^^ f * 16 ^ j) = none := by
  obtain ⟨g, hg⟩ := exists_eccColumn (hij.trans hj)
  obtain ⟨h, hh⟩ := exists_eccColumn hj
  have hsym : ∀ r < 4, eccSym (eccSyndrome (eccEncode data ^^^ (e * 16 ^ i ^^^ f * 16 ^ j))) r =
      gf16Comb e f (colAt g r) (colAt h r) := fun r hr => by
    rw [eccSym_eccEncode_xor hr hd, eccSymbol_xor, eccSymbol_shifted r hg he, eccSymbol_shifted r hh hf, gf16Comb]
  have hoff := quadric_two_columns hij hg hh hepos he hfpos hf
  rw [← quadric_congr hsym] at hoff
  rw [Nat.xor_assoc, eccFix_of_uncorrectable (eccDecode_off_quadric hoff)]

/-- Settles O55: the decoder by its search for a column, one nibble by the columns' leading 1, and two nibbles by the
quadric that holds every column and no sum of multiples of two. -/
theorem wordErrorsAreLocated : Obligations.WordErrorsAreLocated := by
  refine ⟨fun s _ => ⟨fun h => h ▸ eccDecode_zero, fun m hm hlow hne => ⟨fun j h hj hmul => ?_, fun hno => ?_⟩⟩,
    fun data hd => ⟨eccFix_eccEncode hd, eccEncode_mod hd, fun j e hj hpos he => ⟨?_, fun hcheck => ?_⟩, ?_⟩⟩
  · exact eccDecode_of_isMultiple hm hlow hne hj hmul
  · refine eccDecode_of_not_isMultiple hm hlow hne fun h hh hmul => ?_
    obtain ⟨r, hr, hdiff⟩ := hno h hh
    exact hdiff (hmul r hr)
  · exact eccFix_one_error hd hj hpos he
  · rw [xor_check_nibble_mod e hcheck, eccEncode_mod hd]
  · intro i j e f hij hj hepos he hfpos hf
    exact eccFix_two_errors hd hij hj hepos he hfpos hf

end Sys2Proof.Machine
end
